-- ==== Sys2Proof/Word.lean ====
section
/-! DEFINITION. The tagged word (R23), its tag codes (R24) and the bit-field names of registers. -/

namespace Sys2Proof

/-- A byte. -/
abbrev Byte := BitVec 8

/-- The 64-bit payload of a word, and every register of the control region (R9). -/
abbrev Reg64 := BitVec 64

/-- R23: a word is a 64-bit payload with an 8-bit tag. -/
structure Word where
  tag : BitVec 8
  val : BitVec 64
deriving DecidableEq, Repr, Inhabited

namespace Tag

/-- R24: the tag codes. -/
def raw : BitVec 8 := 0x00#8
def fix : BitVec 8 := 0x01#8
def flt : BitVec 8 := 0x02#8
def chr : BitVec 8 := 0x03#8
def nil : BitVec 8 := 0x04#8
def tru : BitVec 8 := 0x05#8
def unb : BitVec 8 := 0x06#8
def cons : BitVec 8 := 0x08#8
def vec : BitVec 8 := 0x09#8
def sym : BitVec 8 := 0x0A#8
def clo : BitVec 8 := 0x0B#8
def big : BitVec 8 := 0x0C#8
def str : BitVec 8 := 0x0D#8
def obj : BitVec 8 := 0x0E#8
def code : BitVec 8 := 0x0F#8
def hdr : BitVec 8 := 0x10#8
def fwd : BitVec 8 := 0x11#8
def cap : BitVec 8 := 0x20#8
def pois : BitVec 8 := 0xFF#8

end Tag

namespace Word

/-- RAW 0: what unwritten memory reads as (R43) and an empty bank holds (R63). -/
def raw0 : Word := ⟨Tag.raw, 0#64⟩

def raw (v : BitVec 64) : Word := ⟨Tag.raw, v⟩

def fix (v : BitVec 64) : Word := ⟨Tag.fix, v⟩

def fixNat (n : Nat) : Word := ⟨Tag.fix, BitVec.ofNat 64 n⟩

def flt (v : BitVec 64) : Word := ⟨Tag.flt, v⟩

def cap (v : BitVec 64) : Word := ⟨Tag.cap, v⟩

/-- R26: a NIL word the device writes has payload 0. -/
def nil : Word := ⟨Tag.nil, 0#64⟩

/-- R44: POIS is written with payload 0. -/
def pois : Word := ⟨Tag.pois, 0#64⟩

def isFix (w : Word) : Bool := w.tag == Tag.fix

def isFlt (w : Word) : Bool := w.tag == Tag.flt

def isCap (w : Word) : Bool := w.tag == Tag.cap

/-- FIX or RAW, the operands of R75. -/
def isFixRaw (w : Word) : Bool := w.tag == Tag.fix || w.tag == Tag.raw

/-- POIS, or a tag in 0x80-0xFE that every master treats as POIS (R45). -/
def poisoned (w : Word) : Bool := w.tag.toNat ≥ 0x80

/-- The 72-bit value, tag above payload (R93). -/
def toNat72 (w : Word) : Nat := w.tag.toNat * 2 ^ 64 + w.val.toNat

/-- The payload read as a 64-bit two's-complement integer (R24, FIX). -/
def int (w : Word) : Int := w.val.toInt

/-- R25: the parish byte address of a pointer-class payload. -/
def addr (w : Word) : Nat := w.val.toNat % 2 ^ 48

end Word

/-- The field `[lo + w - 1 : lo]` of a register, as a number (R4). -/
def bits (v : BitVec 64) (lo w : Nat) : Nat := v.toNat / 2 ^ lo % 2 ^ w

/-- Bit `i` of a register. -/
def bit (v : BitVec 64) (i : Nat) : Bool := v.getLsbD i

/-- A register with the field `[lo + w - 1 : lo]` replaced by `x`. -/
def putBits (v : BitVec 64) (lo w x : Nat) : BitVec 64 :=
  let m : BitVec 64 := BitVec.ofNat 64 ((2 ^ w - 1) * 2 ^ lo)
  (v &&& ~~~m) ||| (BitVec.ofNat 64 (x % 2 ^ w * 2 ^ lo))

/-- A register with bit `i` set or cleared. -/
def putBit (v : BitVec 64) (i : Nat) (b : Bool) : BitVec 64 := putBits v i 1 b.toNat

end Sys2Proof
end

