-- ==== Sys2Proof/Syntax.lean ====
section
/-! DEFINITION. The commands of the block: one constructor of `Instr` per row of the operation table, with the
operands the row's rule gives it. -/

namespace Sys2Proof

/-- R46 [24:21], R50: the guard of an instruction: sense and predicate. -/
structure Guard where
  sense : Bool
  pred : BitVec 3
deriving DecidableEq, Repr, Inhabited

/-- R46: the fields of a primary-format instruction below its opcode. -/
structure PForm where
  guard : Guard
  bank : BitVec 3
  mode : BitVec 2
  off : BitVec 16
deriving DecidableEq, Repr, Inhabited

/-- R49: form XM. -/
structure XMForm where
  guard : Guard
  bank : BitVec 3
  mode : BitVec 2
  off : BitVec 10
deriving DecidableEq, Repr, Inhabited

/-- R49: form XR; `rsv` holds the reserved bits [11:8]. -/
structure XRForm where
  guard : Guard
  bank : BitVec 3
  rsv : BitVec 4
  sel : BitVec 8
deriving DecidableEq, Repr, Inhabited

/-- R49: form XN; `rsv` holds the reserved bits [14:0]. -/
structure XNForm where
  guard : Guard
  rsv : BitVec 15
deriving DecidableEq, Repr, Inhabited

/-- A logical core (R7). -/
abbrev LCore := Fin 46
/-- A physical core (R7). -/
abbrev PCore := Fin 48
/-- A parish (R428). -/
abbrev Parish := Fin 16
/-- PA[51:6], the address of a line. -/
abbrev LineAddr := BitVec 46

/-- Who makes a register access: the parish, and whether the capability carries device-control or
observation (R158, R430, R491, R512); `tags` tells whether its table entry covers IMG + 0x8000 to IMG + 0x87FF and
carries W and DEV (R35). -/
structure Accessor where
  parish : Parish
  devctl : Bool
  obs : Bool
  tags : Bool := false
deriving DecidableEq, Repr, Inhabited

/-- The owner of a queue (R336, R384, R405). -/
inductive QueueId where
  | chan (c : Fin 256)
  | comp (i : Fin 64)
  | ciph (i : Fin 64)
deriving DecidableEq, Repr

/-- Which ring register a RING_CONFIG_WRITE writes (R337): a base, or the sizes in the CFG register. -/
inductive RingReg where
  | sqb | cqb | sizes
deriving DecidableEq, Repr

/-- The pools of R432. -/
inductive Pool where
  | comp | ciph
  | link (port link : Fin 4)
deriving DecidableEq, Repr

/-- The operation an ATM carries (R265). -/
inductive AtmOp where
  | xadd | xchg | cas | ldr | stc
deriving DecidableEq, Repr

/-- The sender of a WRH (R265): a core's own store queue, or a DMA master with its bytes. -/
inductive WrhSrc where
  | core (n : LCore)
  | dma (master : BitVec 12) (line : LineAddr) (mask : BitVec 64) (bytes : List Byte)
deriving DecidableEq, Repr

/-- An error in the bits of a DRAM burst: symbol position and the value it is exclusive-ORed with (R293). -/
abbrev BurstErr := List (Nat × Byte)

/-- An error in a word under the SRAM word code (R297): the stored bits that flip, tag above payload and check bits above
them, and in [86:80] what is wrong in the fold of its index. -/
abbrev SramErr := BitVec 87

/-- The SRAM word the gleaner's sweep reads (R306, R475). -/
inductive SramWord where
  | granary (line : LineAddr) (w : Fin 8)
  | commons (cn : Fin 4) (w : BitVec 20)
  | snoop (slice : Fin 64) (line : LineAddr) (later : Bool)
deriving DecidableEq, Repr

/-- A request a master presents to a Commons bank (R322): its master, the kind of the master that caused it where it is
the Commons' own (R320), its age, and the access: bytes 0-7 of `mask` of the word at `word`, and bytes 8-15 of the next
one, where it crosses a word boundary (R323); `err` are stored bits of the word that have flipped before it is read
(R297). -/
structure CmnReq where
  master : BitVec 12
  cause : BitVec 4
  age : Nat
  word : BitVec 20
  write : Bool
  mask : BitVec 16
  data : Word
  data2 : Word
  err : SramErr := 0
deriving DecidableEq, Repr, Inhabited

/-- R230: where a detector of code 0x1 or 0x2 finds its error: nowhere named, a line of an L1, or a word of the L2 with
the stored bits that flip; `met` tells whether the instruction reads that word now. -/
inductive CacheHit where
  | none
  | l1 (line : LineAddr)
  | l2 (line : LineAddr) (w : Fin 8) (err : SramErr) (met : Bool)
deriving DecidableEq, Repr

/-- The trailer and sequence fields of a received Welien frame (R450); with `more` another message of the same frame follows
(R451). -/
structure FrameHdr where
  fseq : BitVec 12
  ackseq : BitVec 12
  nak : Bool
  more : Bool := false
deriving DecidableEq, Repr, Inhabited

/-- R451: a MIRROR record. -/
structure MirrorRec where
  mend : Bool
  line : LineAddr
  wmask : BitVec 8
  words : List Word
  time : BitVec 64
deriving DecidableEq, Repr, Inhabited

/-- R451: a LEDGER record: channel, slot, the entry's eight words and the channel record's eight words. -/
structure LedgerRec where
  chan : Fin 256
  slot : Fin 1024
  entry : List (BitVec 64)
  crec : List (BitVec 64)
deriving DecidableEq, Repr, Inhabited

/-- R452: what HELLO carries. -/
structure HelloInfo where
  dig : BitVec 64
  krid : BitVec 64
  step : BitVec 16
  die : BitVec 64
  strap : Bool
  phase : BitVec 2
  s4done : Bool
  role : Option (BitVec 2)
deriving DecidableEq, Repr, Inhabited

/-- What a core's detector has found: whether the data of an outstanding DEV load failed its check (R213), the cached word
or line it struck (R230), and the error in the word of the store queue, the combining buffer or the checkpoint array that
detectors 0x8 and 0x9 read (R214, R297). -/
structure ErrorFind where
  uncorrectable : Bool
  hit : CacheHit
  err : SramErr := 0
deriving DecidableEq, Repr

/-- The address of an ATM (R265) and the errors that stand in the burst it reads (R308). -/
structure AtmAddr where
  pa : BitVec 52
  err : BurstErr
deriving DecidableEq, Repr

/-- A turn of a pool's dispatcher (R433), with the error that the head it begins meets in its engine's SRAM, at word `word`
of its source, or in its key slot (R475). -/
structure DrrTurn where
  pool : Pool
  err : SramErr
  key : Bool
  word : Nat := 0
deriving DecidableEq, Repr

/-- A channel whose ledger is read, and an error that comes to stand in a word of one of its entries, or of its channel
record where no slot is named (R365). -/
structure ChanRead where
  chan : Fin 256
  err : SramErr
  slot : Option (Fin 1024) := none
deriving DecidableEq, Repr

/-- A slot of a channel's ledger that is read, and the error of the word read (R365). -/
structure SlotRead where
  slot : Fin 1024
  err : SramErr
deriving DecidableEq, Repr

/-- Whether a completion record's TLP carries EP (R332), and the error of the ledger word it meets (R365). -/
structure RecordEnd where
  ep : Bool
  err : SramErr
deriving DecidableEq, Repr

/-- How a DEV load's PCIe completion comes back (R333). -/
inductive DevCompletion where
  | data (v : BitVec 64)
  | unsupported
  | abort
deriving DecidableEq, Repr

/-- The severity of an AER message (R332). -/
inductive AerSev where
  | cor | nonfatal | fatal
deriving DecidableEq, Repr

/-- What STARTUP_S3 meets outside the image (R505, R506): cores that fail self-test, rows that refuse repair
(by channel), the capacity in GiB each DIMM reports, whether a repair does not read back or training fails, and
whether the Welien link trains. -/
structure S3Env where
  badCores : List PCore
  refusedRows : List (Fin 12)
  capacity : List Nat
  failed : Bool
  welien : Bool
deriving DecidableEq, Repr, Inhabited

/-- One constructor per row of spec/opcode_table.json. -/
inductive Instr where
  -- R73: primary opcodes
  | lda (n : LCore) (o : PForm)
  | sta (n : LCore) (o : PForm)
  | ldx (n : LCore) (o : PForm)
  | stx (n : LCore) (o : PForm)
  | ldy (n : LCore) (o : PForm)
  | sty (n : LCore) (o : PForm)
  | ldb (n : LCore) (o : PForm)
  | stb (n : LCore) (o : PForm)
  | tag (n : LCore) (o : PForm)
  | sett (n : LCore) (o : PForm)
  | add (n : LCore) (o : PForm)
  | sub (n : LCore) (o : PForm)
  | mul (n : LCore) (o : PForm)
  | div (n : LCore) (o : PForm)
  | rem (n : LCore) (o : PForm)
  | cmp (n : LCore) (o : PForm)
  | addm (n : LCore) (o : PForm)
  | subm (n : LCore) (o : PForm)
  | mulm (n : LCore) (o : PForm)
  | divm (n : LCore) (o : PForm)
  | and (n : LCore) (o : PForm)
  | or (n : LCore) (o : PForm)
  | xor (n : LCore) (o : PForm)
  | shl (n : LCore) (o : PForm)
  | shr (n : LCore) (o : PForm)
  | sar (n : LCore) (o : PForm)
  | rol (n : LCore) (o : PForm)
  | fma (n : LCore) (o : PForm)
  | cons (n : LCore) (o : PForm)
  | rpla (n : LCore) (o : PForm)
  | rpld (n : LCore) (o : PForm)
  | br (n : LCore) (o : PForm)
  | brl (n : LCore) (o : PForm)
  | lpb (n : LCore) (o : PForm)
  | cld (n : LCore) (o : PForm)
  | ldr (n : LCore) (o : PForm)
  | stc (n : LCore) (o : PForm)
  | xadd (n : LCore) (o : PForm)
  | xchg (n : LCore) (o : PForm)
  | cas (n : LCore) (o : PForm)
  -- R74: the extended group
  | neg (n : LCore) (o : XNForm)
  | negm (n : LCore) (o : XNForm)
  | not (n : LCore) (o : XNForm)
  | fsqrt (n : LCore) (o : XNForm)
  | fsync (n : LCore) (o : XNForm)
  | ret (n : LCore) (o : XNForm)
  | cret (n : LCore) (o : XNForm)
  | rte (n : LCore) (o : XNForm)
  | svbk (n : LCore) (o : XNForm)
  | rarm (n : LCore) (o : XNForm)
  | fnsl (n : LCore) (o : XNForm)
  | fnnt (n : LCore) (o : XNForm)
  | fnio (n : LCore) (o : XNForm)
  | fnal (n : LCore) (o : XNForm)
  | idle (n : LCore) (o : XNForm)
  | idleWake (n : LCore)
  | ttst (n : LCore) (o : XRForm)
  | fcvt (n : LCore) (o : XRForm)
  | crd (n : LCore) (o : XRForm)
  | cwr (n : LCore) (o : XRForm)
  | alc (n : LCore) (o : XRForm)
  | car (n : LCore) (o : XRForm)
  | cdr (n : LCore) (o : XRForm)
  | ccall (n : LCore) (o : XRForm)
  | cder (n : LCore) (o : XRForm)
  | cseal (n : LCore) (o : XRForm)
  | cuns (n : LCore) (o : XRForm)
  | crev (n : LCore) (o : XRForm)
  | movb (n : LCore) (o : XRForm)
  | cmpb (n : LCore) (o : XRForm)
  | scnt (n : LCore) (o : XRForm)
  | find (n : LCore) (o : XMForm)
  | cwbR (n : LCore) (o : XRForm)
  | cinvR (n : LCore) (o : XRForm)
  | cwbiR (n : LCore) (o : XRForm)
  | cwb (n : LCore) (o : XMForm)
  | cinv (n : LCore) (o : XMForm)
  | cwbi (n : LCore) (o : XMForm)
  | lockf (n : LCore) (o : XMForm)
  -- happenings of a core
  | divideDone (n : LCore)
  | boundaryEventTake (n : LCore) (nextIsFp : Bool)
  | microwordLimit (n : LCore)
  | controlStoreReload (n : LCore) (addr : BitVec 14) (copyOk parityOk : Bool)
  | retry (n : LCore) (detector : BitVec 4) (find : ErrorFind)
  | retryRateThreshold (n : LCore)
  | transplant (n : LCore) (ckptOk : Bool) (refused : List PCore) (unreadable : List LineAddr)
  | transplantResume (n : LCore)
  | corePrefetch (n : LCore) (stream : BitVec 48)
  | cctlEn (acc : Accessor) (p : PCore) (v : BitVec 64)
  | cacheSweepDone (p : PCore)
  | cctlUnlk (acc : Accessor) (p : PCore)
  -- R264, R265: fabric messages
  | rds (p : PCore) (line : LineAddr) (err : BurstErr)
  | rdo (p : PCore) (line : LineAddr) (err : BurstErr)
  | upg (p : PCore) (line : LineAddr)
  | rdh (master : BitVec 12) (line : LineAddr) (mask : BitVec 8) (err : BurstErr)
  | atm (p : PCore) (op : AtmOp) (loc : AtmAddr) (a x : Word)
  | pfg (line : LineAddr) (err : BurstErr)
  | wrt (n : LCore)
  | wrh (src : WrhSrc)
  | wbk (p : PCore) (line : LineAddr) (keep : Bool)
  | snpS (p : PCore) (line : LineAddr)
  | snpI (p : PCore) (line : LineAddr)
  | binv (p : PCore) (line : LineAddr)
  | data (master : BitVec 12) (line : LineAddr)
  | gnt (p : PCore) (line : LineAddr)
  | ack (master : BitVec 12) (line : LineAddr)
  | sack (p : PCore) (line : LineAddr)
  | sdata (p : PCore) (line : LineAddr)
  | miss (p : PCore) (line : LineAddr)
  | ndataWbp (p : PCore) (line : LineAddr)
  | arbiterAdmit (slice : Fin 64) (err : SramErr)
  | reservationHoldoffExpire (n : LCore)
  | homeReservationHoldExpire (p : PCore)
  | ntFlushTimeout (n : LCore)
  | mergeDrainTimeout (word : BitVec 49)
  -- stored data
  | gleanerLine (ch : Fin 12) (err : BurstErr)
  | gleanerSramSweep (w : SramWord) (err : SramErr)
  | mendResponse (line : LineAddr) (ok : Bool) (words : List Word)
  | commonsBankGrant (cn : Fin 4) (bank : Fin 64) (new : List CmnReq)
  | commonsBreakerGrant (cn : Fin 4) (bank : Fin 64)
  -- channels and the ledger
  | doorbell (acc : Accessor) (q : QueueId) (t : BitVec 32)
  | queueEnable (acc : Accessor) (q : QueueId) (v : BitVec 64)
  | ringConfigWrite (acc : Accessor) (q : QueueId) (r : RingReg) (v : BitVec 64)
  | cqHeadWrite (acc : Accessor) (q : QueueId) (h : BitVec 32)
  | drrDispatch (d : DrrTurn)
  | orderAccept (c : Fin 256)
  | orderRelease (c : ChanRead)
  | issueEntryRead (port link : Fin 4) (c : Fin 256) (k : SlotRead)
  | issueTailRead (port link : Fin 4) (c : Fin 256)
  | windowRead (port link : Fin 4) (addr : BitVec 64) (len : Nat)
  | windowWrite (port link : Fin 4) (addr : BitVec 64) (data : List Byte) (ep : Bool)
  | completionRecord (port link : Fin 4) (addr : BitVec 64) (data : List Byte) (e : RecordEnd)
  | upstreamUr (port link : Fin 4)
  | tlpDiscard (port link : Fin 4)
  | aerMessage (port link : Fin 4) (sev : AerSev)
  | devLoadTimeout (n : LCore)
  | linkUp (port link : Fin 4) (speed width : BitVec 2)
  | linkDown (port link : Fin 4)
  | perstRelease (port link : Fin 4)
  | orderTimeout (c : Fin 256) (k : SlotRead)
  | secondaryBusReset (acc : Accessor) (port link : Fin 4)
  | ledgerClose (c : Fin 256) (k : SlotRead)
  -- engines
  | compressionJobEnd (i : Fin 64)
  | ciFlush (acc : Accessor) (i : Fin 64)
  | cipherWaitSatisfied (i : Fin 64)
  | cipherJobEnd (i : Fin 64)
  | cxFlush (acc : Accessor) (i : Fin 64)
  | drbgReseed (seed : BitVec 384) (healthy : Bool)
  -- runtime commands and registers with behaviour
  | setw (acc : Accessor) (arg : BitVec 32)
  | move (acc : Accessor) (arg : BitVec 32)
  | crst (acc : Accessor) (arg : BitVec 32)
  | dlCtlEn (acc : Accessor) (p : Parish) (en : Bool)
  | dlCtlClr (acc : Accessor) (p : Parish)
  | dlRingWrite (acc : Accessor) (p : Parish) (tail : Bool) (v : BitVec 64)
  | gcCtlWrite (acc : Accessor) (p : Parish) (v : BitVec 64)
  | gcZoneWrite (acc : Accessor) (p : Parish) (v : BitVec 64)
  | gcClogWrite (acc : Accessor) (p : Parish) (v : BitVec 64)
  | gcClogpTailWrite (acc : Accessor) (p : Parish) (v : BitVec 64)
  | tatStore (acc : Accessor) (t : BitVec 8) (v : BitVec 64)
  | evRouteWrite (acc : Accessor) (s : Fin 384) (v : BitVec 64)
  | evPendClear (acc : Accessor) (k : Fin 6) (v : BitVec 64)
  | evDoor (acc : Accessor) (p : Parish) (v : BitVec 64)
  | fcStatClear (acc : Accessor) (v : BitVec 64)
  | registerWrite (acc : Accessor) (off : BitVec 28) (v : BitVec 64)
  -- observation
  | thermalSample (temps : List (BitVec 16))
  | voltageSample (mv : List (BitVec 16))
  | processSample (counts : List (BitVec 24))
  | tracePacket (lane : Fin 4)
  | traceSync (lane : Fin 4)
  | i3cRead (off : BitVec 32)
  | i3cDynamicAddress (a : BitVec 7)
  -- R450-R452: Welien frames and the pair
  | idleFrame (h : FrameHdr)
  | mirror (h : FrameHdr) (recs : List MirrorRec)
  | ledger (h : FrameHdr) (recs : List LedgerRec)
  | bulk (h : FrameHdr) (first : LineAddr) (lines : List (List Word))
  | zrun (h : FrameHdr) (runs : List (LineAddr × Nat))
  | frameNak (ackseq : BitVec 12)
  | frameCrcDrop (crcBad : Bool)
  | hello (h : FrameHdr) (info : HelloInfo)
  | helloSend
  | helloTimeout
  | hb (h : FrameHdr) (time echo : BitVec 64) (role phase : BitVec 2)
  | hbSend
  | partnerLost
  | dio (h : FrameHdr) (v : BitVec 32)
  | mendq (h : FrameHdr) (line : LineAddr)
  | tatMessage (h : FrameHdr) (t : BitVec 8) (v : BitVec 64)
  | moveMessage (h : FrameHdr) (arg : BitVec 32)
  | handover (h : FrameHdr)
  | leave (h : FrameHdr)
  | rcvdone (h : FrameHdr)
  | activeClaimCheck
  | lossHoldEnd
  | pairActInAssert
  | takeoverDrive
  | switch (acc : Accessor)
  | handoverSend
  | recoveryCopy
  -- pins, supplies, start-up
  | dinAccept (i : Fin 32) (level : Bool)
  | resetNAssert
  | resetNDeassert (testmode : Bool) (bootsel : BitVec 2) (pairRole : Bool)
  | vauxApply
  | vauxRemove
  | pwrgoodInAssert
  | vinLoss
  | powerfailNAssert
  | powerfailFlushDone
  | powerfailAckTimeout
  | pllLockLoss
  | startupS2 (copyA copyB : Option (List Byte))
  | startupS3 (env : S3Env)
  | startupS4 (failed : Bool)
  | startupS5
  -- R549: the test access port
  | tapReset
  | extest
  | samplePreload
  | clamp
  | highz
  | bypass
  -- further happenings
  | startupS0End
  | pairActInDeassert
  | welienLinkDown
  | devLoadCompletion (n : LCore) (r : DevCompletion)
  | tckCycle (tms tdi : Bool)
  | eventRouterParityError (off : BitVec 28)
deriving DecidableEq, Repr

end Sys2Proof
end

