-- ==== Sys2Proof/Decode.lean ====
section
/-! DEFINITION. The instruction word of a core (R46, R48, R49, R73, R74), and the commands that the operation table spells
as words. -/

namespace Sys2Proof

/-! ### Fields (R46, R49) -/

/-- R46: bits [31:25]. -/
def wordOpcode (w : BitVec 32) : Nat := (w.extractLsb' 25 7).toNat

/-- R46: bits [24:21]. -/
def wordGuard (w : BitVec 32) : Guard := { sense := w.getLsbD 24, pred := w.extractLsb' 21 3 }

/-- R46: the primary format. -/
def wordP (w : BitVec 32) : PForm :=
  { guard := wordGuard w, bank := w.extractLsb' 18 3, mode := w.extractLsb' 16 2, off := w.extractLsb' 0 16 }

/-- R49: bits [20:15]. -/
def wordSub (w : BitVec 32) : Nat := (w.extractLsb' 15 6).toNat

/-- R49: form XM. -/
def wordXM (w : BitVec 32) : XMForm :=
  { guard := wordGuard w, bank := w.extractLsb' 12 3, mode := w.extractLsb' 10 2, off := w.extractLsb' 0 10 }

/-- R49: form XR. -/
def wordXR (w : BitVec 32) : XRForm :=
  { guard := wordGuard w, bank := w.extractLsb' 12 3, rsv := w.extractLsb' 8 4, sel := w.extractLsb' 0 8 }

/-- R49: form XN. -/
def wordXN (w : BitVec 32) : XNForm := { guard := wordGuard w, rsv := w.extractLsb' 0 15 }

/-! ### Opcodes (R73, R74) -/

/-- R73: the instruction of a primary opcode; none where it is unassigned. -/
def primaryOp (n : LCore) (op : Nat) (o : PForm) : Option Instr :=
  match op with
  | 0x01 => some (.lda n o)
  | 0x02 => some (.sta n o)
  | 0x03 => some (.ldx n o)
  | 0x04 => some (.stx n o)
  | 0x05 => some (.ldy n o)
  | 0x06 => some (.sty n o)
  | 0x07 => some (.ldb n o)
  | 0x08 => some (.stb n o)
  | 0x09 => some (.tag n o)
  | 0x0A => some (.sett n o)
  | 0x10 => some (.add n o)
  | 0x11 => some (.sub n o)
  | 0x12 => some (.mul n o)
  | 0x13 => some (.div n o)
  | 0x14 => some (.rem n o)
  | 0x15 => some (.cmp n o)
  | 0x18 => some (.addm n o)
  | 0x19 => some (.subm n o)
  | 0x1A => some (.mulm n o)
  | 0x1B => some (.divm n o)
  | 0x1C => some (.and n o)
  | 0x1D => some (.or n o)
  | 0x1E => some (.xor n o)
  | 0x20 => some (.shl n o)
  | 0x21 => some (.shr n o)
  | 0x22 => some (.sar n o)
  | 0x23 => some (.rol n o)
  | 0x24 => some (.fma n o)
  | 0x28 => some (.cons n o)
  | 0x29 => some (.rpla n o)
  | 0x2A => some (.rpld n o)
  | 0x30 => some (.br n o)
  | 0x31 => some (.brl n o)
  | 0x32 => some (.lpb n o)
  | 0x38 => some (.cld n o)
  | 0x40 => some (.ldr n o)
  | 0x41 => some (.stc n o)
  | 0x42 => some (.xadd n o)
  | 0x43 => some (.xchg n o)
  | 0x44 => some (.cas n o)
  | _ => none

/-- R74: the instruction of an extended sub-opcode in its form; none where it is unassigned. -/
def extendedOp (n : LCore) (w : BitVec 32) : Option Instr :=
  match wordSub w with
  | 0x01 => some (.neg n (wordXN w))
  | 0x02 => some (.negm n (wordXN w))
  | 0x03 => some (.not n (wordXN w))
  | 0x04 => some (.fsqrt n (wordXN w))
  | 0x05 => some (.fsync n (wordXN w))
  | 0x06 => some (.ret n (wordXN w))
  | 0x07 => some (.cret n (wordXN w))
  | 0x08 => some (.rte n (wordXN w))
  | 0x09 => some (.svbk n (wordXN w))
  | 0x0A => some (.rarm n (wordXN w))
  | 0x0B => some (.fnsl n (wordXN w))
  | 0x0C => some (.fnnt n (wordXN w))
  | 0x0D => some (.fnio n (wordXN w))
  | 0x0E => some (.fnal n (wordXN w))
  | 0x0F => some (.idle n (wordXN w))
  | 0x10 => some (.ttst n (wordXR w))
  | 0x11 => some (.fcvt n (wordXR w))
  | 0x12 => some (.crd n (wordXR w))
  | 0x13 => some (.cwr n (wordXR w))
  | 0x14 => some (.alc n (wordXR w))
  | 0x15 => some (.car n (wordXR w))
  | 0x16 => some (.cdr n (wordXR w))
  | 0x17 => some (.ccall n (wordXR w))
  | 0x18 => some (.cder n (wordXR w))
  | 0x19 => some (.cseal n (wordXR w))
  | 0x1A => some (.cuns n (wordXR w))
  | 0x1B => some (.crev n (wordXR w))
  | 0x1C => some (.movb n (wordXR w))
  | 0x1D => some (.cmpb n (wordXR w))
  | 0x1E => some (.scnt n (wordXR w))
  | 0x20 => some (.cwbR n (wordXR w))
  | 0x21 => some (.cinvR n (wordXR w))
  | 0x22 => some (.cwbiR n (wordXR w))
  | 0x28 => some (.cwb n (wordXM w))
  | 0x29 => some (.cinv n (wordXM w))
  | 0x2A => some (.cwbi n (wordXM w))
  | 0x2B => some (.lockf n (wordXM w))
  | 0x2C => some (.find n (wordXM w))
  | _ => none

/-- R46, R49: the instruction that a word stands for on core `n`. -/
def decodeWord (n : LCore) (w : BitVec 32) : Option Instr :=
  if wordOpcode w = 0x7F then extendedOp n w else primaryOp n (wordOpcode w) (wordP w)

/-! ### The table's words -/

/-- The command that a word spells by the table's bits: none, since no row of the table gives bits. -/
def decodeTableWord (_nbits _w : Nat) : Option Instr := none

end Sys2Proof
end

