-- ==== Sys2Proof/Config.lean ====
section
/-! DEFINITION. What the spec leaves open and the model does not choose: opaque free values. -/

namespace Sys2Proof.Config

/-- The tokens a compression proposes for one sheaf (R393: the stook depends on the input, the level and the
restored state, and the choice is the engine's). Applied to the level, the restored match index, the words so far
and the sheaf's words; the answer is a list of numbers read as tokens and is used only where it is valid under
R391. -/
opaque compressTokens : Nat → List (BitVec 64) → List (BitVec 64) → List (BitVec 64) → List (List Nat)

/-- The match index a saved compression state holds (R394: private to the engine). -/
opaque matchIndex : List (BitVec 64) → List (BitVec 64) → Nat → BitVec 64

/-- The bits of syndrome symbols that a register does not define are read through this where the spec gives
no value (the plaintext of a write-data error: R213's check value). Applied to a counter of State. -/
opaque freeWord : Nat → BitVec 64

/-- The vendor and device number that a root port's type 1 header gives (R333 names the header and no number). -/
opaque rootId : BitVec 32

/-- R460: how old the timestamp of a heartbeat is, from the time that has passed since the timestamp it echoes: the spec gives
no rule (log 43). -/
opaque hbAge : BitVec 64 → BitVec 64

/-- R452: where the contents of a control message lie in its four words: the spec gives MTYPE's place alone (log 85).
`messageWord` lays them out, by type and contents; `messageContents` reads them back, by type and words. -/
opaque messageWord : Nat → List (BitVec 64) → Nat → BitVec 64

/-- See `messageWord`. -/
opaque messageContents : Nat → List (BitVec 64) → List (BitVec 64)

end Sys2Proof.Config
end

