-- ==== Sys2Proof/Machine/State.lean ====
section
/-! DEFINITION. The state of the block as plain data, its reset value, and the outcomes that are no next state. -/

namespace Sys2Proof.Machine

/-- A sparse map: keys strictly rising, no entry equal to what an unlisted key reads as (`SMap.wf`). -/
abbrev SMap (V : Type) := List (Nat × V)

/-- Nothing raises a fault: every command answers a next state. The constructor stands for the stop of a
machine that has none; no meaning answers it, which is safe. -/
inductive Fault where
  | none
deriving DecidableEq, Repr

/-- No meaning answers a refusal. `notModelled` marks an arm of `exec` without a meaning (safe: the model
stops); no arm carries it. -/
inductive Refusal where
  | notModelled (mnemonic : String)
deriving DecidableEq, Repr

/-! ### Cores -/

/-- The region types of R168. -/
inductive Region where
  | none | wb | uc | dev
deriving DecidableEq, Repr, Inhabited

/-- A memory operand that has passed the checks of R55: its parish address, its region, its physical address and the
effective permissions. -/
structure Site where
  addr : Nat
  region : Region
  pa : Nat
  perms : Nat
deriving DecidableEq, Repr

/-- A heal the instruction makes when it retires (R140). -/
structure Heal where
  addr : Nat
  old : Word
  new : Word
  perms : Nat
deriving DecidableEq, Repr

/-- R198: a store held until DONE; `log` where the hedge logs it. -/
structure HeldStore where
  site : Site
  w : Word
  log : Bool
deriving DecidableEq, Repr

/-- A routine in progress (R195-R200): micro-PC, temporaries, condition (Z, N, C, V, TM from bit 0), A, X and Y at
entry and as held, predicates held, stores held, heals due, microwords since entry or the last YIELD, and the dispatch
entries sampled, each with its tag. -/
structure MRun where
  upc : Nat
  u : List Word
  cond : BitVec 5
  a0 : Word
  x0 : Word
  y0 : Word
  a : Option Word
  x : Option Word
  y : Option Word
  preds : List (Nat × Bool)
  stores : List HeldStore
  heals : List Heal
  since : Nat
  entries : List (BitVec 8 × BitVec 64)
deriving DecidableEq, Repr

/-- R171: one bank of a core: its own A, X, Y, predicates, banks, PC, loop registers and ST. Bit `n` of `p` is
Pn; P0 is read through `Bank.pred` (R51). `st` leaves SB and DF to the core. -/
structure Bank where
  a : Word
  x : Word
  y : Word
  p : BitVec 8
  b0 : Word
  b1 : Word
  b2 : Word
  b3 : Word
  b4 : Word
  b5 : Word
  b6 : Word
  b7 : Word
  pcCap : Word
  pc : BitVec 48
  lc : BitVec 64
  ls : BitVec 48
  le : BitVec 48
  st : BitVec 64
deriving DecidableEq, Repr, Inhabited

/-- R201: the micro-save record of one bank. -/
structure MicroSave where
  valid : Bool
  pc : BitVec 48
  upc : BitVec 14
  u : List Word
  cond : BitVec 5
  entries : List (BitVec 8 × BitVec 64)
deriving DecidableEq, Repr, Inhabited

/-- R76: the results of a divide in progress; `y` is none where Y is not written. -/
structure DivJob where
  a : Word
  y : Option Word
deriving DecidableEq, Repr

/-- R287, R291: the reservation of a core, on the granule or, made at home, on the line; `hold` while the
hold-off of R289 or the hold of R291 runs. -/
structure Resv where
  line : Nat
  home : Bool
  hold : Bool
deriving DecidableEq, Repr

/-- What a logical core is doing (R89, R177, R220, R481). -/
inductive RunState where
  | off | running | idle | stopped | checkstopped | paused
deriving DecidableEq, Repr, Inhabited

/-- R277: where a queued store is performed. -/
inductive StorePath where
  | l2 | wrt | wrh
deriving DecidableEq, Repr

/-- What a store writes: a whole word, or one byte of it (R29). -/
inductive StoreData where
  | word (w : Word)
  | byte (i : Fin 8) (b : Byte)
deriving DecidableEq, Repr

/-- R136-R138: a claimed card log entry: its slot, the parish address it is written at, and its word. No slot: the log has
moved since. -/
structure Card where
  slot : Option Nat
  addr : Nat
  word : BitVec 64
deriving DecidableEq, Repr

/-- A retired store not yet performed (R277-R279); `card` is its card log entry (R137, R138). -/
structure StoreEntry where
  path : StorePath
  word : Nat
  data : StoreData
  card : Option Card
deriving DecidableEq, Repr

/-- R282: an entry of the combining buffer: line, word mask and words, with the cards to log. -/
structure NtEntry where
  line : Nat
  mask : BitVec 8
  words : List Word
  cards : List Card
deriving DecidableEq, Repr

/-- Which register a waiting DEV load writes (R333). -/
inductive LoadDest where
  | a | x | y
deriving DecidableEq, Repr

/-- R333: a DEV load sent on a link and not yet complete, with its parish and physical address (R213); LTRAP of the
RAW entry as sampled when the load began (R36); and the answer, where it came while the core was in a transplant's
pause (R213, R220): its payload, and whether it stands for an error; `failed` where its data failed a check (R213). -/
structure DevLoad where
  dest : LoadDest
  addr : Nat
  pa : Nat
  port : Nat
  link : Nat
  ltrap : Bool
  answer : Option (BitVec 64 × Bool)
  failed : Bool
deriving DecidableEq, Repr

/-- R486: a deferrable machine check pending at a core: its cause source and the FIX word X will hold. -/
structure MchkPend where
  src : BitVec 8
  acc : BitVec 4
  x : BitVec 64
deriving DecidableEq, Repr

/-- One logical core; `target` is the physical core a transplant has made ready (R217), `thrHit` that RTY_CFG.THR was
reached since the last retirement (R215), `devHeld` a DEV load that was performed for an instruction of a bank which an FPX
then went before (R116, R213), and `routine` a micro-routine that goes on with the next command that runs
its instruction (log 18). -/
structure Core where
  prim : Bank
  shad : Bank
  dbl : Bank
  sb : Bool
  df : Bool
  fpsr : BitVec 64
  ac : BitVec 48
  al : BitVec 48
  vb : Word
  fpx : Bool
  rvk : Option (BitVec 8)
  mchk : Option MchkPend
  mPrim : MicroSave
  mShad : MicroSave
  mDbl : MicroSave
  atLimit : Bool
  divider : Option DivJob
  resv : Option Resv
  run : RunState
  devLoad : Option DevLoad
  devHeld : Option (Fin 3 × DevLoad)
  sq : List StoreEntry
  nt : List NtEntry
  attempts : Nat
  target : Option Nat
  detector : BitVec 4
  retryTimes : List Nat
  thrHit : Bool
  routine : Option MRun
  brBits : List Bool
deriving DecidableEq, Repr

/-- R266: the states of an L2 line that is present. -/
inductive L2St where
  | s | e | m
deriving DecidableEq, Repr, Inhabited

/-- A line in an L2: state, its eight words, and its way (R227); ways 12-15 are the lockable ones (R238). -/
structure L2Line where
  st : L2St
  data : List Word
  way : Fin 16
deriving DecidableEq, Repr

/-- R227, R231: an L1 cache: the way of each line it holds, and the tree pseudo-LRU bits of each set. The words of a line
are those of the L2, which includes it and is written together with it (R229). -/
structure L1 where
  lines : SMap Nat
  plru : SMap Nat
deriving DecidableEq, Repr

/-- R185: a microword in a core's control store, with the parity bit of each 40-bit quarter. -/
structure UWord where
  w : BitVec 160
  par : BitVec 4
deriving DecidableEq, Repr

/-- R235: a stream detector: its instruction's parish address, the last address accessed, the last stride and how
many separations in a row it has been, the distance in lines, the bounds of the capability, and the lines fetched
ahead and not yet used. -/
structure Stream where
  ins : Nat
  last : Nat
  stride : Int
  hits : Nat
  dist : Nat
  lo : Nat
  hi : Nat
  ahead : List Nat
deriving DecidableEq, Repr

/-- One physical core: its L2 with the tree bits of each set (R231) and the way held for each fill under way, its L1
caches, lock bits (set * 4 + lockable way), the order in which lines became dirty (oldest first), its control store
(R185) with the words marked bad (R205), and its stream detectors, latest miss first. -/
structure PhysCore where
  l2 : SMap L2Line
  l2Plru : SMap Nat
  fills : SMap (Fin 16)
  l1i : L1
  l1d : L1
  ucode : SMap UWord
  locks : List Nat
  dirty : List Nat
  badU : List Nat
  streams : List Stream
deriving DecidableEq, Repr

/-! ### Memory and coherence -/

/-- A Granary line (R254, R258) and the way of its set that holds it. -/
structure GranLine where
  dirty : Bool
  data : List Word
  way : Nat
deriving DecidableEq, Repr

/-- R300: a merge-buffer entry: word address (PA / 8), bytes and byte mask, and its last writer. -/
structure MergeEntry where
  word : Nat
  master : Nat
  bytes : List Byte
  mask : BitVec 8
deriving DecidableEq, Repr

/-- R261: a snoop-filter entry: presence vector, exclusive holder, and the way of its set. -/
structure SfEntry where
  pres : BitVec 48
  excl : Bool
  way : Nat
deriving DecidableEq, Repr

/-- The request kinds of R264, class REQ, with what they carry (R265). -/
inductive ReqKind where
  | rds | rdo | upg | pfg
  | rdh (mask : BitVec 8)
  | atm (op : AtmOp) (word : Nat) (a x : Word)
  | wrt (e : StoreEntry)
  | wrh (e : StoreEntry)
  | wrhDma (mask : BitVec 64) (bytes : List Byte)
  | wbk (words : List Word) (keep : Bool)
deriving DecidableEq, Repr

/-- A request at a slice: kind, master (R476), line. -/
structure Req where
  kind : ReqKind
  master : BitVec 12
  line : Nat
deriving DecidableEq, Repr

/-- An open transaction (R259): its request, the cores whose snoop answer is awaited, those that answered
NDATA-WBP and whose WBK has not arrived (R270), those whose WBK arrived before their answer, the victim line of a
BINV phase (R271), whether its response is in flight, and the snoop-filter way it holds (R262). -/
structure Txn where
  req : Req
  way : Option Nat
  await : List Nat
  wbp : List Nat
  got : List Nat
  victim : Option Nat
  answered : Bool
deriving DecidableEq, Repr

/-- The messages of R265 that travel between home and a master; `words` is DATA with the words an RDH asked for, and
SACK carries the state after the snoop. -/
inductive MsgKind where
  | snpS | snpI | binv
  | data (st : L2St) (words : List Word)
  | words (mask : BitVec 8) (words : List Word)
  | gnt
  | ack (grantE : Bool) (old : Option Word)
  | sack (st : Option L2St) | sdata (words : List Word) | miss | ndataWbp
  | wbk (words : List Word) (keep : Bool)
deriving DecidableEq, Repr

/-- R260: a WBK sunk behind an open transaction on its line. -/
structure WbkHeld where
  p : Nat
  line : Nat
  words : List Word
  keep : Bool
deriving DecidableEq, Repr

/-- R138, R259, R443: a word that waits until its line is free: its physical address and word, its master, and, for an
entry of a card log or page log, the log: parish, slot, and whether it is a card log. No slot: the log has moved since.
Without `log` it is a word of a mirror write, which waits for a mend of its line (R309). -/
structure LateWrite where
  pa : Nat
  w : Word
  m : Nat
  parish : Nat
  slot : Option Nat
  card : Bool
  log : Bool := true
deriving DecidableEq, Repr

/-- A message in flight to or from master `p` (a physical core's number is its master ID, R476) about line `line`; `txn`
names the line of the open transaction it belongs to. -/
structure Msg where
  kind : MsgKind
  p : Nat
  line : Nat
  txn : Nat
deriving DecidableEq, Repr

/-- A request held at a Commons bank (R322): the request, and the cycles it has been denied. -/
structure CmnHeld where
  req : CmnReq
  denied : Nat
deriving DecidableEq, Repr

/-- R307-R310: what an open mend repairs: the source of the error, the master that met it and the type of its access, and the
error. -/
structure MendErr where
  src : Nat
  master : Nat
  acc : Nat
  err : BurstErr
deriving DecidableEq, Repr, Inhabited

/-- Home: DRAM, the Granary, the Commons, their buffers, remap tables and the gleaner. A stored unit is its true value
and the bit errors in it: `dramErr` by the line a burst is stored at, `sramErr` by cell (R297). `cmnValid` holds the
Commons words whose valid bit is 1 (R302); `remapD` maps a line to its spare line, `remapG` and `remapC` a word cell to
its spare cell (R304); `mends` holds the lines whose mend is open (R309), each with its error; `scrubbed`
the locations that a scrub has written corrected data to and that have not been read since (R304); `ucopy` is the
Granary copy of the control store, three words a microword, and `pinned` whether it stands there (R186, R257);
`gstreams` are the Granary's stream detectors by master (R237). -/
structure Mem where
  dram : SMap Word
  dramErr : SMap BurstErr
  gran : SMap GranLine
  granPlru : SMap Nat
  granDirty : List Nat
  cmn : SMap Word
  cmnValid : SMap Unit
  sramErr : SMap SramErr
  merge : List MergeEntry
  remapD : SMap Nat
  remapG : SMap Nat
  remapC : SMap Nat
  scrubbed : List Nat
  glnNext : SMap Nat
  mends : List (Nat × MendErr)
  cmnHeld : SMap (List CmnHeld)
  ucopy : SMap Word
  pinned : Bool
  gstreams : SMap Stream
deriving DecidableEq, Repr

/-- Coherence: snoop filters with the tree bits of each set, open transactions, retry queues (in order of arrival), the
WBKs sunk behind open transactions (R260), log entries waiting for one, and messages in flight. -/
structure Coh where
  sf : SMap SfEntry
  sfPlru : SMap Nat
  txns : SMap Txn
  retryQ : List Req
  wbks : List WbkHeld
  late : List LateWrite
  msgs : List Msg
  bookErr : SMap SramErr
deriving DecidableEq, Repr

/-- Why what a command would do must wait: a reservation's hold, an open transaction, a full pool or queue (R260, R262,
R289, R291, R459); the cap of R262, which the slice records (R273); a mend that the access opens (R309); an uncorrectable
word of a clean L2 line, which is dropped and the instruction retried (R230). -/
inductive Wait where
  | hold
  | cap (line : Nat)
  | mend (line master acc : Nat)
  | l2 (p line : Nat)
deriving DecidableEq, Repr

/-! ### Parishes -/

/-- R136-R138: card log slots claimed by a parish and not yet published, with those already written. -/
structure ClogState where
  claimed : BitVec 32
  written : List Nat
deriving DecidableEq, Repr, Inhabited

/-- R441-R443: a page log: the filter, whether an overflow has stopped logging, and the slots claimed and written. -/
structure PageLog where
  filter : List Nat
  halted : Bool
  ring : ClogState
deriving DecidableEq, Repr, Inhabited

/-! ### Channels, ledger, engines -/

/-- R367: the states of a ledger entry. -/
inductive LedgerSt where
  | free | accepted | released | done | closed
deriving DecidableEq, Repr, Inhabited

/-- R366: a ledger entry, with what R353 notes of its window, whether its completion entry is
written, and the frame that mirrors it (R367). -/
structure LedgerEntry where
  st : LedgerSt
  seq : BitVec 48
  epoch : BitVec 16
  opc : BitVec 8
  halt : Bool
  irq : Bool
  reln : BitVec 8
  count : BitVec 24
  paddr : BitVec 48
  param : BitVec 64
  user : BitVec 64
  desc : BitVec 32
  ordidx : BitVec 12
  adet : BitVec 32
  status : BitVec 8
  xfer : BitVec 24
  cqidx : BitVec 32
  trel : BitVec 32
  poison : Bool
  corrupt : Bool
  overrun : Bool
  written : Bool
  frame : Option Nat
deriving DecidableEq, Repr, Inhabited

/-- An order of the descriptor being taken, checked and waiting for acceptance or, where `status` is not 0, for its
failure entry (R339, R345, R346); `whole` where the descriptor itself failed (R343); `sent` is the frame of its ledger
commit (R369). It has a completion slot (R340). -/
structure OrderWait where
  whole : Bool := false
  status : BitVec 8
  desc : BitVec 32
  ordidx : BitVec 12
  opc : BitVec 8
  halt : Bool
  irq : Bool
  count : BitVec 24
  paddr : BitVec 48
  param : BitVec 64
  user : BitVec 64
  sent : Option Nat
deriving DecidableEq, Repr, Inhabited

/-- R339, R344: a program whose orders are being taken: its descriptor's count, where it lies, the number of its orders
and how many are taken; `halted` once a HALT order has failed (R346), `again` where a takeover takes it again (R377). -/
structure ProgRun where
  desc : Nat
  addr : Nat
  count : Nat
  next : Nat
  user : BitVec 64
  halted : Bool
  again : Bool
deriving DecidableEq, Repr, Inhabited

/-- A channel's queue beyond its registers: the program being taken, orders waiting for acceptance, completion slots
reserved, the count of descriptors begun (R337), the last SEQ released (R348), how many descriptors a takeover takes again
(R377), and whether the epochs are used up, so that nothing is released until a session reset (R372). -/
structure ChanState where
  prog : Option ProgRun := none
  waiting : List OrderWait
  reserved : Nat
  begun : BitVec 32
  lastRel : Nat
  retake : Nat
  spent : Bool
deriving DecidableEq, Repr, Inhabited

/-- A compression job (R384-R397) whose data has been moved and whose entry is not yet written. -/
structure CompJob where
  desc : Nat
  unit : Nat
  irq : Bool
  user : BitVec 64
  status : BitVec 8
  out : BitVec 32
  indone : BitVec 32
  stateid : BitVec 32
  nsheaf : BitVec 32
deriving DecidableEq, Repr, Inhabited

/-- R417: a cipher descriptor that has passed its checks, its ranges as parish addresses. -/
structure CiphDesc where
  op : Nat
  stream : Bool
  saltin : Bool
  slot : Nat
  alg : Nat
  usage : Nat
  src : Nat
  len : Nat
  dst : Nat
  salt : Nat
  aad : Nat × Nat
  iv : BitVec 64
  d : BitVec 128
deriving DecidableEq, Repr, Inhabited

/-- R475: the error that a job meets in its engine's own SRAM, with the word `word` of its source, or in its key slot. -/
structure JobFlaw where
  err : SramErr
  key : Bool
  word : Nat
deriving DecidableEq, Repr, Inhabited

/-- A cipher job (R404-R421) that has begun and whose entry is not yet written; `keyop` for LOAD and UNLOAD (R416),
`zero` the parish address and length STREAM must overwrite first (R419), `staging` the bytes that a HOLD job holds of its
cluster's staging SRAM, and `hold` a HOLD job that waits for them and has read nothing yet (R418). -/
structure CiphJob where
  cluster : Nat
  keyop : Bool
  irq : Bool
  user : BitVec 64
  slot : BitVec 12
  status : BitVec 8
  word1 : BitVec 64
  word2 : BitVec 64
  zero : Nat × Nat
  staging : Nat
  hold : Option (CiphDesc × JobFlaw) := none
deriving DecidableEq, Repr, Inhabited

/-- A waiting cipher job at the head of its instance (R415): once `ready`, what the awaited entry gave: a status of
0, POISON or ABORTED, and LEN where LENC takes it. -/
structure CiphWait where
  ready : Bool
  status : BitVec 8
  len : Option (BitVec 32)
deriving DecidableEq, Repr, Inhabited

/-- An engine instance's queue beyond its registers: jobs begun, completion slots reserved, descriptors a FLUSH has
still to abort, and (cipher) the wait of its head. -/
structure InstState where
  comp : List CompJob
  ciph : List CiphJob
  reserved : Nat
  flush : Nat
  wait : CiphWait
deriving DecidableEq, Repr, Inhabited

/-- R411: a key slot. -/
structure KeySlot where
  alg : BitVec 8
  usage : BitVec 8
  key : List Byte
  salt : BitVec 32
  ctr : BitVec 64
deriving DecidableEq, Repr, Inhabited

/-- R413: CTR_DRBG working state. -/
structure Drbg where
  key : List Byte
  v : List Byte
  requests : Nat
deriving DecidableEq, Repr, Inhabited

/-- The answer to the last upstream request of a link: UR, or the bytes returned and whether EP is set. -/
inductive UpRsp where
  | ur
  | data (bytes : List Byte) (ep : Bool)
  | posted
deriving DecidableEq, Repr

/-- A downstream request the device has sent on a link (R333, R349). -/
inductive DownTlp where
  | write (addr v : BitVec 64)
  | read (addr : BitVec 64)
  | cfgWrite (off v : BitVec 64)
  | cfgRead (off : BitVec 64)
deriving DecidableEq, Repr

/-- R576: PERST_N of a link. -/
inductive Perst where
  | hiz | low | high
deriving DecidableEq, Repr, Inhabited

/-- A link of a port: PERST_N, what it sent last upstream, and downstream requests sent. -/
structure Link where
  perst : Perst
  rsp : Option UpRsp
  down : List DownTlp
deriving DecidableEq, Repr, Inhabited

/-- Channels, ledger and engines; `crecs` holds the channel records a standby has committed (R369), and `ledgerErr` the
errors that stand in the ledger's words (R365): entry 1,024 c + s at that key, the record of channel c at 262,144 + c. -/
structure Io where
  chans : SMap ChanState
  ledger : SMap LedgerEntry
  ledgerErr : SMap SramErr
  crecs : SMap (List (BitVec 64))
  links : SMap Link
  ecam : SMap (BitVec 64)
  comp : SMap InstState
  ciph : SMap InstState
  slots : SMap KeySlot
  keks : SMap (List Byte)
  drbg : Option Drbg
  drrPos : SMap Nat
deriving DecidableEq, Repr

/-! ### The pair -/

/-- R450-R452: the body of a frame the device sends. -/
inductive FrameBody where
  | idle
  | mirror (recs : List MirrorRec)
  | ledger (recs : List LedgerRec)
  | bulk (first : LineAddr) (lines : List (List Word))
  | zrun (runs : List (LineAddr × Nat))
  | hello (info : HelloInfo)
  | hb (time echo : BitVec 64) (role phase : BitVec 2)
  | dio (v : BitVec 32)
  | mendq (line : LineAddr)
  | tat (t : BitVec 8) (v : BitVec 64)
  | move (arg : BitVec 32)
  | handover | leave | rcvdone
deriving DecidableEq, Repr

/-- A frame sent and not yet acknowledged, or queued (R453): its number among all frames queued (the model's own), and, once
it is sent, FSEQ, ACKSEQ and NAK (R450). -/
structure Frame where
  id : Nat := 0
  fseq : BitVec 12
  body : FrameBody
  time : Nat
  ackseq : BitVec 12 := 0
  nak : Bool := false
deriving DecidableEq, Repr

/-- The RECOVERY copy's stages (R467). -/
inductive CopyStage where
  | idle | ledger | capt | tat | dram | done
deriving DecidableEq, Repr, Inhabited

/-- The Welien link and the pair (R449-R469); `got` holds the runs of lines a standby in RECOVERY has received, and
`rcv` tells that the copy it entered RECOVERY for has not been abandoned (R20). `tx` holds the frames sent and not yet
acknowledged, at most 2,048, and `queue` those that wait to be sent (R453); `nextId` counts frames queued. -/
structure Pair where
  tx : List Frame
  queue : List Frame
  nextId : Nat
  nextFseq : BitVec 12
  rxNext : BitVec 12
  nak : Bool
  resends : Nat
  settled : Bool
  absent : Bool
  waitAct : Bool
  claiming : Bool
  hbRx : Option (BitVec 64)
  hbRxEcho : BitVec 64
  ppRole : BitVec 2
  leaveRx : Bool
  lossHold : Bool
  switching : Bool
  yielded : Bool
  takeT0 : Option Nat
  dioHeld : BitVec 32
  copy : CopyStage
  copyPos : Nat
  got : List (Nat × Nat)
  rcv : Bool
  movePend : Option Nat
deriving DecidableEq, Repr

/-! ### Trace, TAP, pins -/

/-- The trace unit: packets (as their words) in the buffer, drops since the last LOSS packet, the lanes that
have started, and what each lane sent last. -/
structure Trace where
  buf : List (List (BitVec 64))
  lost : Nat
  sent : SMap (List (BitVec 64))
  lastSync : SMap Nat
  fabCount : Nat
deriving DecidableEq, Repr

/-- The states of the IEEE 1149.1 TAP controller (R549). -/
inductive TapSt where
  | reset | idle
  | selDr | capDr | shDr | ex1Dr | pauseDr | ex2Dr | updDr
  | selIr | capIr | shIr | ex1Ir | pauseIr | ex2Ir | updIr
deriving DecidableEq, Repr, Inhabited

/-- R549: the test access port: state, instruction, shift registers, the boundary cells' update stage. -/
structure Tap where
  st : TapSt
  ir : BitVec 4
  irShift : BitVec 4
  bsr : BitVec 167
  cells : BitVec 167
  bypass : Bool
  tdo : Option Bool
  ones : Nat
deriving DecidableEq, Repr

/-- Why the VIN-fed units are stopped (R481, R575, R461, R465, R535, R574, R531, R506). -/
inductive Stop where
  | running | grave | stood | handed | pfail | vinLoss | trip | startup
deriving DecidableEq, Repr, Inhabited

/-- The board's inputs as the device sees them, and its own always-on outputs. -/
structure Pins where
  vaux : Bool
  vin : Bool
  pwrgood : Bool
  resetN : Bool
  powerfail : Bool
  testmode : Bool
  bootsel : BitVec 2
  pairRole : Bool
  actIn : Bool
  actOut : Option Bool
  thermtrip : Bool
  din : BitVec 32
deriving DecidableEq, Repr

/-- Fuses and mask ROM (R324, R407, R500, R504, R514). -/
structure Rom where
  khash : BitVec 384
  keyRoot : BitVec 256
  dieId : BitVec 64
  vendorDigest : BitVec 384
  cmnFuse : SMap (BitVec 8)
deriving DecidableEq, Repr

/-- A record of the Asgen image (R502). -/
structure Rec where
  ty : Nat
  index : Nat
  words : List (BitVec 64)
deriving DecidableEq, Repr, Inhabited

/-- How far start-up has come (R505, R507). -/
structure Startup where
  s0Ended : Bool
  pllLocked : Bool
  accepted : Bool
  s4Done : Bool
  waitPwr : Bool
  sweeping : Bool
deriving DecidableEq, Repr

/-- The machine. `free` is the model's own counter of open values (log 3); `levels` the level sources that hold (R479);
`badRoutes` the routes whose parity failed (R475); `vOut` the rails whose last sample was outside its range (R529);
`freshT` and `freshV` that no sample was taken since VAUX came (R516); `flushT0` when a flush began (R535);
`waiting` is the model's own: set inside a command that must wait, which then leaves the rest of the state as it was
(log 64). -/
structure State where
  pending : List Instr
  free : Nat
  regs : SMap Reg64
  cores : SMap Core
  phys : SMap PhysCore
  mem : Mem
  coh : Coh
  clog : SMap ClogState
  plog : SMap PageLog
  io : Io
  pair : Pair
  trace : Trace
  tap : Tap
  pins : Pins
  rom : Rom
  start : Startup
  image : List Rec
  stop : Stop
  ts : BitVec 64
  tsRun : Bool
  levels : List (BitVec 8)
  badRoutes : List Nat
  vOut : BitVec 24
  freshT : Bool
  freshV : Bool
  flushT0 : Option Nat
  waiting : Option Wait
  i3cOut : BitVec 64
  i3cAddr : BitVec 7
deriving DecidableEq, Repr

/-! ### Values after reset -/

/-- R61, R65: a bank with the values at entry, its banks and PC empty before the image gives them. -/
def Bank.entry : Bank :=
  { a := Word.raw0, x := Word.fix 0, y := Word.fix 0, p := 1#8,
    b0 := Word.raw0, b1 := Word.raw0, b2 := Word.raw0, b3 := Word.raw0,
    b4 := Word.raw0, b5 := Word.raw0, b6 := Word.raw0, b7 := Word.raw0,
    pcCap := Word.raw0, pc := 0, lc := 0, ls := 0, le := 0, st := 1 }

/-- R202: an invalid micro-save record. -/
def MicroSave.none : MicroSave :=
  { valid := false, pc := 0, upc := 0, u := [], cond := 0, entries := [] }

/-- A core before start-up releases it. -/
def Core.reset : Core :=
  { prim := Bank.entry, shad := Bank.entry, dbl := Bank.entry, sb := false, df := false,
    fpsr := 0, ac := 0, al := 0, vb := Word.raw0, fpx := false, rvk := none, mchk := none,
    mPrim := .none, mShad := .none, mDbl := .none, atLimit := false, divider := none,
    resv := none, run := .off, devLoad := none, devHeld := none, sq := [], nt := [], attempts := 0, target := none, detector := 0,
    retryTimes := [], thrHit := false, routine := none, brBits := [] }

def L1.reset : L1 := { lines := [], plru := [] }

def PhysCore.reset : PhysCore :=
  { l2 := [], l2Plru := [], fills := [], l1i := .reset, l1d := .reset, ucode := [], locks := [], dirty := [],
    badU := [], streams := [] }

def Mem.reset : Mem :=
  { dram := [], dramErr := [], gran := [], granPlru := [], granDirty := [], cmn := [], cmnValid := [], sramErr := [],
    merge := [], remapD := [], remapG := [], remapC := [], scrubbed := [], glnNext := [], mends := [], cmnHeld := [],
    ucopy := [], pinned := false, gstreams := [] }

def Coh.reset : Coh := { sf := [], sfPlru := [], txns := [], retryQ := [], wbks := [], late := [], msgs := [], bookErr := [] }

def ClogState.reset : ClogState := { claimed := 0, written := [] }

def PageLog.reset : PageLog := { filter := [], halted := false, ring := .reset }

def LedgerEntry.reset : LedgerEntry :=
  { st := .free, seq := 0, epoch := 0, opc := 0, halt := false, irq := false, reln := 0, count := 0,
    paddr := 0, param := 0, user := 0, desc := 0, ordidx := 0, adet := 0, status := 0, xfer := 0,
    cqidx := 0, trel := 0, poison := false, corrupt := false, overrun := false,
    written := false, frame := none }

def ChanState.reset : ChanState := { waiting := [], reserved := 0, begun := 0, lastRel := 0, retake := 0, spent := false }

def CiphWait.reset : CiphWait := { ready := false, status := 0, len := none }

def InstState.reset : InstState := { comp := [], ciph := [], reserved := 0, flush := 0, wait := .reset }

/-- R411: an empty slot: ALG 0 stands for no key. -/
def KeySlot.reset : KeySlot := { alg := 0, usage := 0, key := [], salt := 0, ctr := 0 }

def Link.reset : Link := { perst := .hiz, rsp := none, down := [] }

def Io.reset : Io :=
  { chans := [], ledger := [], ledgerErr := [], crecs := [], links := [], ecam := [], comp := [], ciph := [], slots := [], keks := [],
    drbg := none, drrPos := [] }

def Pair.reset : Pair :=
  { tx := [], queue := [], nextId := 0, nextFseq := 0, rxNext := 0, nak := false, resends := 0, settled := false, absent := false,
    waitAct := false, claiming := false, hbRx := none, hbRxEcho := 0, ppRole := 0, leaveRx := false,
    lossHold := false, switching := false, yielded := false, takeT0 := none, dioHeld := 0, copy := .idle,
    copyPos := 0, got := [], rcv := false, movePend := none }

def Trace.reset : Trace := { buf := [], lost := 0, sent := [], lastSync := [], fabCount := 0 }

/-- R549: Test-Logic-Reset: BYPASS current, every control cell 0. -/
def Tap.reset : Tap :=
  { st := .reset, ir := 0xF#4, irShift := 0, bsr := 0, cells := 0, bypass := false, tdo := none, ones := 0 }

def Startup.reset : Startup :=
  { s0Ended := false, pllLocked := false, accepted := false, s4Done := false, waitPwr := false,
    sweeping := false }

/-- The device as it leaves RESET_N with VAUX present (R8, R18): START-UP, S0, every register at its Reset
column, outputs undriven. Values the spec does not give are named in the assumption log. -/
def State.reset : State :=
  { pending := [], free := 0, regs := [], cores := [], phys := [], mem := .reset, coh := .reset, clog := [],
    plog := [], io := .reset, pair := .reset, trace := .reset, tap := .reset,
    pins := { vaux := true, vin := false, pwrgood := false, resetN := true, powerfail := false,
              testmode := false, bootsel := 0, pairRole := false, actIn := false, actOut := none,
              thermtrip := false, din := 0 },
    rom := { khash := 0, keyRoot := 0, dieId := 0, vendorDigest := 0, cmnFuse := [] },
    start := .reset, image := [], stop := .running, ts := 0, tsRun := false, levels := [], badRoutes := [], vOut := 0,
    freshT := true, freshV := true, flushT0 := none, waiting := none,
    i3cOut := 0, i3cAddr := 0 }

end Sys2Proof.Machine
end

