-- ==== Sys2Proof/Machine/Map.lean ====
section
/-! DEFINITION. Sparse maps in canonical form: keys strictly rising, no entry equal to its default. -/

namespace Sys2Proof.Machine

/-- What the map holds at `k`; `d` where nothing is listed. -/
def SMap.get {V : Type} (d : V) : SMap V → Nat → V
  | [], _ => d
  | (j, v) :: m, k => if k = j then v else SMap.get d m k

/-- The map with `v` at `k`; storing the default removes the entry. -/
def SMap.set {V : Type} [DecidableEq V] (d : V) : SMap V → Nat → V → SMap V
  | [], k, v => if v = d then [] else [(k, v)]
  | (j, w) :: m, k, v =>
    if k < j then (if v = d then (j, w) :: m else (k, v) :: (j, w) :: m)
    else if k = j then (if v = d then m else (k, v) :: m)
    else (j, w) :: SMap.set d m k v

/-- What the map holds at `k`, for maps whose unlisted keys hold nothing. -/
def SMap.find {V : Type} : SMap V → Nat → Option V
  | [], _ => none
  | (j, v) :: m, k => if k = j then some v else SMap.find m k

/-- The map with `v` at `k`. -/
def SMap.ins {V : Type} : SMap V → Nat → V → SMap V
  | [], k, v => [(k, v)]
  | (j, w) :: m, k, v =>
    if k < j then (k, v) :: (j, w) :: m
    else if k = j then (k, v) :: m
    else (j, w) :: SMap.ins m k v

/-- The map without `k`. -/
def SMap.del {V : Type} : SMap V → Nat → SMap V
  | [], _ => []
  | (j, w) :: m, k => if k = j then m else (j, w) :: SMap.del m k

/-- Keys strictly rising, each at least `lo`. -/
def SMap.risingFrom {V : Type} : Nat → SMap V → Bool
  | _, [] => true
  | lo, (j, _) :: m => decide (lo ≤ j) && SMap.risingFrom (j + 1) m

/-- Keys strictly rising. -/
def SMap.sorted {V : Type} (m : SMap V) : Bool := SMap.risingFrom 0 m

/-- The canonical form of a map whose unlisted key `k` reads `d k`. -/
def SMap.wf {V : Type} [DecidableEq V] (d : Nat → V) (m : SMap V) : Bool :=
  SMap.sorted m && m.all (fun e => decide (e.2 ≠ d e.1))

/-- R186: what word `k` of the Granary copy of the control store holds where nothing is listed: of a microword of the
customer region its SEQ 0xF, else RAW 0 (log 75). -/
def copyDefault (k : Nat) : Word := if 0x3000 ≤ k / 3 ∧ k % 3 = 2 then Word.raw 0x3C000#64 else Word.raw0

/-- The canonical form of the memories: DRAM and the Commons list no word that reads RAW 0 (R43), the control-store copy
none that an unloaded one holds, the errors list no unit without one, and every list of home, the Granary's among them, has its keys strictly rising. -/
def Memory.wf (m : Mem) : Bool :=
  SMap.wf (fun _ => Word.raw0) m.dram && SMap.wf (fun _ => Word.raw0) m.cmn && SMap.wf copyDefault m.ucopy &&
    SMap.wf (fun _ => []) m.dramErr && SMap.wf (fun _ => 0) m.sramErr && SMap.sorted m.gran &&
    SMap.wf (fun _ => 0) m.granPlru && SMap.sorted m.cmnValid && SMap.sorted m.remapD && SMap.sorted m.remapG &&
    SMap.sorted m.remapC && SMap.sorted m.glnNext && SMap.sorted m.cmnHeld && SMap.sorted m.gstreams

/-! ### Sorting -/

/-- `a` put before the first element that it does not exceed. -/
def insertBy {α : Type} (le : α → α → Bool) (a : α) : List α → List α
  | [] => [a]
  | b :: l => if le a b then a :: b :: l else b :: insertBy le a l

/-- The list in ascending order; equal elements stay in order. -/
def sortBy {α : Type} (le : α → α → Bool) (l : List α) : List α := l.foldr (insertBy le) []

end Sys2Proof.Machine
end

