-- ==== Sys2Proof/Machine/Regs.lean ====
section
/-! DEFINITION. The control region's registers: their offsets (R560, R562), their reset values, and reading and
writing their fields. -/

namespace Sys2Proof.Machine

/-! ### Offsets (R560, R562) -/

namespace Reg

def feaHead : Nat := 0x0
def imgStat : Nat := 0x10000
def imgInfo : Nat := 0x10008
def imgTime : Nat := 0x10010
def imgSppr : Nat := 0x10018
def tat (t : Nat) : Nat := 0x18000 + 8 * t
def clkStat : Nat := 0x20000
def clkTs : Nat := 0x20008
def pwrStat : Nat := 0x28000
def thmStat : Nat := 0x28008
def fcCfg : Nat := 0x30000
def fcStat : Nat := 0x30008
def fcCnt : Nat := 0x30010
def fcAddr (c : Nat) : Nat := 0x30100 + 0x20 * c
def fcInfo (c : Nat) : Nat := 0x30108 + 0x20 * c
def fcTime (c : Nat) : Nat := 0x30110 + 0x20 * c
def fcEsc (k : Nat) : Nat := 0x30200 + 8 * k
def fcMcore (p : Nat) : Nat := 0x30300 + 8 * p
def evRoute (s : Nat) : Nat := 0x40000 + 8 * s
def evPend (k : Nat) : Nat := 0x41000 + 8 * k
def evDoor (p : Nat) : Nat := 0x42000 + 8 * p
def evStat : Nat := 0x43000
def monT (n : Nat) : Nat := 0x50000 + 8 * n
def monV (n : Nat) : Nat := 0x50200 + 8 * n
def monP (n : Nat) : Nat := 0x50300 + 8 * n
def talSel (k : Nat) : Nat := 0x60000 + 8 * k
def talCnt (k : Nat) : Nat := 0x60400 + 8 * k
def trcCtl : Nat := 0x68000
def trcCores : Nat := 0x68008
def trcStat : Nat := 0x68010
def core (p : Nat) : Nat := 0x100000 + 0x10000 * p
def ucsStat (p : Nat) : Nat := core p + 0x400
def rtyStat (p : Nat) : Nat := core p + 0x408
def rtyCfg (p : Nat) : Nat := core p + 0x410
def cctl (p : Nat) : Nat := core p + 0x500
def lckStat (p : Nat) : Nat := core p + 0x508
def pmcSel (p k : Nat) : Nat := core p + 0x600 + 8 * k
def pmcCnt (p k : Nat) : Nat := core p + 0x640 + 8 * k
def grn (i : Nat) : Nat := 0x1000000 + 0x1000 * i
def grnStat (i : Nat) : Nat := grn i
def grnDways (i : Nat) : Nat := grn i + 0x8
def grnEcc (i : Nat) : Nat := grn i + 0x10
def grnWays (i p : Nat) : Nat := grn i + 0x100 + 8 * p
def memEcc (c : Nat) : Nat := 0x1100000 + 0x100 * c
def glnCtl : Nat := 0x1101000
def glnStat : Nat := 0x1101008
def cmnCtl (n : Nat) : Nat := 0x1200000 + 0x1000 * n
def cmnStat (n : Nat) : Nat := cmnCtl n + 0x8
def cmnEcc (n : Nat) : Nat := cmnCtl n + 0x10
def cmnRmp (n : Nat) : Nat := cmnCtl n + 0x18
def cmnFuse (n b : Nat) : Nat := cmnCtl n + 0x100 + 8 * b
def chCfg (c : Nat) : Nat := 0x2000000 + 0x1000 * c
def chSqb (c : Nat) : Nat := chCfg c + 0x8
def chCqb (c : Nat) : Nat := chCfg c + 0x10
def chSqp (c : Nat) : Nat := chCfg c + 0x18
def chCqp (c : Nat) : Nat := chCfg c + 0x20
def chAdb (c : Nat) : Nat := chCfg c + 0x28
def chStat (c : Nat) : Nat := chCfg c + 0x30
def chSeq (c : Nat) : Nat := chCfg c + 0x38
def cpCfg (n : Nat) : Nat := 0x2100000 + 0x1000 * n
def cpLstat (n : Nat) : Nat := cpCfg n + 0x8
def ldgCfg : Nat := 0x2200000
def ldgStat : Nat := 0x2200008
def cxCfg (i : Nat) : Nat := 0x3000000 + 0x1000 * i
def cxSqb (i : Nat) : Nat := cxCfg i + 0x8
def cxCqb (i : Nat) : Nat := cxCfg i + 0x10
def cxSqp (i : Nat) : Nat := cxCfg i + 0x18
def cxCqp (i : Nat) : Nat := cxCfg i + 0x20
def cxStat (i : Nat) : Nat := cxCfg i + 0x28
def cxKey (i : Nat) : Nat := cxCfg i + 0x30
def cphKrid : Nat := 0x3080000
def cphRng : Nat := 0x3080008
def cphPtag (p : Nat) : Nat := 0x3080100 + 8 * p
def ciCfg (i : Nat) : Nat := 0x3100000 + 0x1000 * i
def ciSqb (i : Nat) : Nat := ciCfg i + 0x8
def ciCqb (i : Nat) : Nat := ciCfg i + 0x10
def ciSqp (i : Nat) : Nat := ciCfg i + 0x18
def ciCqp (i : Nat) : Nat := ciCfg i + 0x20
def ciStat (i : Nat) : Nat := ciCfg i + 0x28
def par : Nat := 0x4000000
def parCfg (p : Nat) : Nat := par + 0x10 * p
def parCores (p : Nat) : Nat := par + 0x10 * p + 0x8
def carve (p r : Nat) : Nat := par + 0x10000 + 0x200 * p + 8 * r
def captBase (p : Nat) : Nat := par + 0x20000 + 0x40 * p
def captSize (p : Nat) : Nat := captBase p + 0x8
def captFree (p : Nat) : Nat := captBase p + 0x10
def captStat (p : Nat) : Nat := captBase p + 0x18
def excCtl (p : Nat) : Nat := captBase p + 0x20
def lcoreMap (n : Nat) : Nat := par + 0x30000 + 8 * n
def fallowStat : Nat := par + 0x30180
def failedMap : Nat := par + 0x30188
def rcCmd : Nat := par + 0x40000
def rcStat : Nat := par + 0x40008
def altCmp (i : Nat) : Nat := par + 0x50000 + 8 * i
def altCph (i : Nat) : Nat := par + 0x50200 + 8 * i
def altChn (c : Nat) : Nat := par + 0x50400 + 8 * c
def dlCtl (p : Nat) : Nat := par + 0x60000 + 0x40 * p
def dlRing (p : Nat) : Nat := dlCtl p + 0x8
def dlPtr (p : Nat) : Nat := dlCtl p + 0x10
def dlStat (p : Nat) : Nat := dlCtl p + 0x18
def gcCtl (p : Nat) : Nat := par + 0x80000 + 0x40 * p
def gcStat (p : Nat) : Nat := gcCtl p + 0x8
def gcZone (p : Nat) : Nat := gcCtl p + 0x10
def gcClog (p : Nat) : Nat := gcCtl p + 0x18
def gcClogp (p : Nat) : Nat := gcCtl p + 0x20
def pairCfg : Nat := 0x5000000
def pairStat : Nat := 0x5000008
def pairCmd : Nat := 0x5000010
def pairLink : Nat := 0x5000018
def pairRcv : Nat := 0x5000020
def pairDig : Nat := 0x5000028
def dioOen : Nat := 0x6000000
def dioSafe : Nat := 0x6000008
def dioIen : Nat := 0x6000010
def dioOut : Nat := 0x6000018
def dioIn : Nat := 0x6000020
def dioChg : Nat := 0x6000028
def dioStat : Nat := 0x6000030

end Reg

/-- The value of a register with nothing stored: 0, but for FC_CFG (R493: THR 0b10) and CH_SEQ (R383: NEXT 1). -/
def regDefault (off : Nat) : Reg64 :=
  if off = Reg.fcCfg then 2#64
  else if 0x2000000 ≤ off ∧ off < 0x2100000 ∧ off % 0x1000 = 0x38 then 1#64
  else 0#64

/-- The stored value of the register at a control-region offset. -/
def State.reg (s : State) (off : Nat) : Reg64 := SMap.get (regDefault off) s.regs off

def State.setReg (s : State) (off : Nat) (v : Reg64) : State :=
  { s with regs := SMap.set (regDefault off) s.regs off v }

/-- A field of a register as a number. -/
def State.fld (s : State) (off lo w : Nat) : Nat := bits (s.reg off) lo w

def State.flag (s : State) (off i : Nat) : Bool := (s.reg off).getLsbD i

def State.setFld (s : State) (off lo w x : Nat) : State := s.setReg off (putBits (s.reg off) lo w x)

def State.setFlag (s : State) (off i : Nat) (b : Bool) : State := s.setReg off (putBit (s.reg off) i b)

/-- A counter field of width `w` that stops at its highest value. -/
def State.countSat (s : State) (off lo w : Nat) : State :=
  s.setFld off lo w (min (s.fld off lo w + 1) (2 ^ w - 1))

/-- A counter field of width `w` that counts modulo 2^w. -/
def State.countMod (s : State) (off lo w : Nat) : State := s.setFld off lo w (s.fld off lo w + 1)

/-- R17: the phases. -/
def phStartup : Nat := 0
def phService : Nat := 1
def phTest : Nat := 2
def phRecovery : Nat := 3

def State.phase (s : State) : Nat := s.fld Reg.imgStat 0 2

def State.setPhase (s : State) (p : Nat) : State := s.setFld Reg.imgStat 0 2 p

/-- R470: PAIR_STAT.ROLE: 0 single, 1 ACTIVE, 2 STANDBY. -/
def State.role (s : State) : Nat := s.fld Reg.pairStat 0 2

/-- R454: pair operation. -/
def State.paired (s : State) : Bool := s.flag Reg.pairCfg 0

/-- R460, R461: the partner is present: neither absent, lost nor mismatched. -/
def State.partnered (s : State) : Bool := s.paired && s.fld Reg.pairStat 4 2 == 1

/-! ### Cores -/

def State.core (s : State) (n : Nat) : Core := SMap.get Core.reset s.cores n

def State.setCore (s : State) (n : Nat) (c : Core) : State :=
  { s with cores := SMap.set Core.reset s.cores n c }

def State.physCore (s : State) (p : Nat) : PhysCore := SMap.get PhysCore.reset s.phys p

def State.setPhys (s : State) (p : Nat) (c : PhysCore) : State :=
  { s with phys := SMap.set PhysCore.reset s.phys p c }

/-- R226: the physical core that runs logical core `n`. -/
def State.physOf (s : State) (n : Nat) : Nat := s.fld (Reg.lcoreMap n) 0 6

/-- R226: logical core `n` exists. -/
def State.coreValid (s : State) (n : Nat) : Bool := s.flag (Reg.lcoreMap n) 7

/-- The logical core that physical core `p` runs, if there is one. -/
def State.logicalOf (s : State) (p : Nat) : Option Nat :=
  (List.range 46).find? (fun n => s.coreValid n && s.physOf n == p)

/-- R445: the parish that owns logical core `n` (0 where no parish lists it). -/
def State.parishOf (s : State) (n : Nat) : Nat :=
  ((List.range 16).find? (fun p => s.flag (Reg.parCores p) n)).getD 0

/-- R445: parish `p` is mirrored, in pair operation. -/
def State.mirrored (s : State) (p : Nat) : Bool := s.flag (Reg.parCfg p) 2

/-- R247: the caches of physical core `p` are on. -/
def State.cachesOn (s : State) (p : Nat) : Bool :=
  s.flag (Reg.cctl p) 0 && !s.flag (Reg.cctl p) 1

/-- The present value of a free-running sequence: the model's own counter advances by one. -/
def State.fresh (s : State) : State := { s with free := s.free + 1 }

/-- A value the spec leaves open (log 3): the counter's free word. -/
def State.freeVal (s : State) : BitVec 64 := Config.freeWord s.free

end Sys2Proof.Machine
end

