-- ==== Sys2Proof/Machine/Banks.lean ====
section
/-! DEFINITION. A core's three banks and their registers (R61-R65, R171). -/

namespace Sys2Proof.Machine

/-! ### Banks (R171) -/

/-- R173 [9:8]: the banks. -/
inductive BankId where
  | prim | shad | dbl
deriving DecidableEq, Repr, Inhabited

def BankId.code : BankId → Nat
  | .prim => 0
  | .shad => 1
  | .dbl => 2

def Core.bank (c : Core) : BankId → Bank
  | .prim => c.prim
  | .shad => c.shad
  | .dbl => c.dbl

def Core.setBank (c : Core) (i : BankId) (b : Bank) : Core :=
  match i with
  | .prim => { c with prim := b }
  | .shad => { c with shad := b }
  | .dbl => { c with dbl := b }

/-- R176: the bank that is running: DF names the double-fault bank, else SB the shadow bank. -/
def Core.curId (c : Core) : BankId := if c.df then .dbl else if c.sb then .shad else .prim

def Core.cur (c : Core) : Bank := c.bank c.curId

def Core.save (c : Core) : BankId → MicroSave
  | .prim => c.mPrim
  | .shad => c.mShad
  | .dbl => c.mDbl

def Core.setSave (c : Core) (i : BankId) (m : MicroSave) : Core :=
  match i with
  | .prim => { c with mPrim := m }
  | .shad => { c with mShad := m }
  | .dbl => { c with mDbl := m }

/-- R51: a predicate; P0 reads 1. -/
def Bank.pred (b : Bank) (i : Nat) : Bool := i == 0 || b.p.getLsbD i

/-- R51: a write to P0 is discarded. -/
def Bank.setPred (b : Bank) (i : Nat) (v : Bool) : Bank :=
  if i = 0 then b
  else { b with p := if v then b.p ||| BitVec.ofNat 8 (2 ^ i) else b.p &&& ~~~(BitVec.ofNat 8 (2 ^ i)) }

/-- R61: the bank registers. -/
def Bank.breg (b : Bank) (i : Nat) : Word :=
  match i with
  | 0 => b.b0
  | 1 => b.b1
  | 2 => b.b2
  | 3 => b.b3
  | 4 => b.b4
  | 5 => b.b5
  | 6 => b.b6
  | _ => b.b7

def Bank.setBreg (b : Bank) (i : Nat) (w : Word) : Bank :=
  match i with
  | 0 => { b with b0 := w }
  | 1 => { b with b1 := w }
  | 2 => { b with b2 := w }
  | 3 => { b with b3 := w }
  | 4 => { b with b4 := w }
  | 5 => { b with b5 := w }
  | 6 => { b with b6 := w }
  | _ => { b with b7 := w }

/-- R65: EM of the running bank. -/
def Core.em (c : Core) : Bool := bit c.cur.st 0

/-- R65: ST as CRD reads it: SB and DF are the core's. -/
def Core.stWord (c : Core) : BitVec 64 := putBit (putBit c.cur.st 1 c.sb) 2 c.df

/-- R65: PROG. -/
def Bank.prog (b : Bank) : Nat := bits b.st 16 32

def Bank.setProg (b : Bank) (n : Nat) : Bank := { b with st := putBits b.st 16 32 n }

def State.cur (s : State) (n : Nat) : Bank := (s.core n).cur

def State.setCur (s : State) (n : Nat) (b : Bank) : State :=
  s.setCore n ((s.core n).setBank (s.core n).curId b)

/-- R76, R101: the divider's results reach A and Y. -/
def Core.settle (c : Core) : Core :=
  match c.divider with
  | none => c
  | some d =>
    let b := { c.cur with a := d.a, y := d.y.getD c.cur.y }
    { c.setBank c.curId b with divider := none }

def State.settleDiv (s : State) (n : Nat) : State := s.setCore n (s.core n).settle

end Sys2Proof.Machine
end

