-- ==== Sys2Proof/Machine/Events.lean ====
section
/-! DEFINITION. Carve runs, counters, trace packets, event sources, Welien frames to send, and the fault
collector. -/

namespace Sys2Proof.Machine

/-! ### Carve runs (R167-R169) -/

/-- R168: a carve run, read out of its register. -/
structure Run where
  parish : Nat
  ty : Region
  pg : Nat
  phys : Nat
  num : Nat
deriving DecidableEq, Repr, Inhabited

def regionOf (code : Nat) : Region :=
  if code = 1 then .wb else if code = 2 then .uc else if code = 3 then .dev else .none

/-- R168: the run a CARVE register describes. -/
def runOf (off : Nat) (v : Reg64) : Run :=
  { parish := (off - Reg.carve 0 0) / 0x200, ty := regionOf (bits v 62 2), pg := bits v 44 18,
    phys := bits v 22 22, num := bits v 4 18 + 1 }

/-- Every carve run in use, in ascending parish and run number. -/
def State.runs (s : State) : List Run :=
  (s.regs.filter (fun e => decide (Reg.carve 0 0 ≤ e.1 ∧ e.1 < Reg.carve 16 0))).map (fun e => runOf e.1 e.2)

/-- R167: the region type and physical address of parish address `a`; a run of TYPE NONE is unused (R168). -/
def State.translate (s : State) (p a : Nat) : Region × Nat :=
  match s.runs.find? (fun r => r.ty != .none && r.parish == p &&
      decide (r.pg ≤ a / 2 ^ 30 ∧ a / 2 ^ 30 < r.pg + r.num)) with
  | some r => (r.ty, (r.phys + a / 2 ^ 30 - r.pg) * 2 ^ 30 + a % 2 ^ 30)
  | none => (.none, 0)

/-- The runs that map a physical address. -/
def State.mapping (s : State) (pa : Nat) : List Run :=
  s.runs.filter (fun r => decide (r.ty ≠ .none ∧ r.phys ≤ pa / 2 ^ 30 ∧ pa / 2 ^ 30 < r.phys + r.num))

/-- R256: the owner of a line: the lowest-numbered parish that maps its granule. -/
def State.ownerOf (s : State) (pa : Nat) : Option Nat := (s.mapping pa).head?.map (·.parish)

/-- A parish address that a run maps to `pa`. -/
def Run.parishAddr (r : Run) (pa : Nat) : Nat := (r.pg + pa / 2 ^ 30 - r.phys) * 2 ^ 30 + pa % 2 ^ 30

/-! ### Physical address space (R167, R318, R333) -/

def commonsBase : Nat := 0x4000000000000
def controlBase : Nat := 0x5000000000000
def windowBase : Nat := 0x6000000000000

/-- R318: a Commons address (its granule). -/
def isCommons (pa : Nat) : Bool := decide (commonsBase ≤ pa ∧ pa < controlBase)

/-- R255: a DRAM address. -/
def isDram (pa : Nat) : Bool := decide (pa < commonsBase)

/-- R266, R321: the line at `pa` belongs to a mirrored parish; no word of a Commons does. -/
def State.mirroredPa (s : State) (pa : Nat) : Bool :=
  if isCommons pa then false
  else match s.ownerOf pa with
    | some p => s.mirrored p
    | none => false

/-- R458: the line at `pa` lies in the capability table of a mirrored parish (R149). -/
def State.mirroredTable (s : State) (pa : Nat) : Bool :=
  (List.range 16).any (fun p =>
    let base := s.fld (Reg.captBase p) 5 47 * 32
    s.mirrored p && decide (base ≤ pa + 63 ∧ pa < base + 32 * s.fld (Reg.captSize p) 0 29))

/-- R42, R458: home sends every change of the line at `pa` to the partner. -/
def State.mirroredLine (s : State) (pa : Nat) : Bool := s.mirroredPa pa || s.mirroredTable pa

/-! ### Counters (R517-R519) -/

/-- Adds `k` to every core counter of physical core `p` that counts event `ev`. -/
def State.pmcN (s : State) (p ev k : Nat) : State :=
  (List.range 8).foldl (fun s i =>
    if ev ≠ 0 ∧ s.fld (Reg.pmcSel p i) 0 8 = ev then
      s.setFld (Reg.pmcCnt p i) 0 48 (s.fld (Reg.pmcCnt p i) 0 48 + k) else s) s

def State.pmc (s : State) (p ev : Nat) : State := s.pmcN p ev 1

/-- The device counters that count event `ev` of instance `inst`. -/
def State.talSel (s : State) (ev inst : Nat) : List Nat :=
  ((s.regs.filter (fun e => decide (Reg.talSel 0 ≤ e.1 ∧ e.1 < Reg.talSel 128))).filter
    (fun e => decide (ev ≠ 0 ∧ bits e.2 8 8 = ev ∧
      (bits e.2 0 8 = inst ∨ bits e.2 0 8 = 0xFF ∨ ev = 1 ∨ ev = 0xC)))).map (fun e => (e.1 - Reg.talSel 0) / 8)

/-- Adds `k` to every device counter that counts event `ev` of instance `inst`. -/
def State.talN (s : State) (ev inst k : Nat) : State :=
  (s.talSel ev inst).foldl (fun s i => s.setFld (Reg.talCnt i) 0 48 (s.fld (Reg.talCnt i) 0 48 + k)) s

def State.tal (s : State) (ev inst : Nat) : State := s.talN ev inst 1

/-! ### Trace packets (R520, R521) -/

/-- R520: the words a 64 KiB buffer holds. -/
def traceRoom : Nat := 8192

def Trace.used (t : Trace) : Nat := (t.buf.map List.length).sum

/-- R521: a packet: its header and the words that follow. -/
def packet (ty src : Nat) (ts : BitVec 64) (ws : List (BitVec 64)) : List (BitVec 64) :=
  (BitVec.ofNat 64 (ty * 2 ^ 60 + ws.length * 2 ^ 56 + src * 2 ^ 48 + bits ts 0 48)) :: ws

/-- R520: forms a packet into the buffer; without room it is dropped and counted, and once room returns a LOSS
packet goes first. -/
def State.emit (s : State) (ty src : Nat) (ws : List (BitVec 64)) : State :=
  let p := packet ty src s.ts ws
  let pre := if s.trace.lost = 0 then [] else [packet 6 0 s.ts [BitVec.ofNat 64 s.trace.lost]]
  let size := ((pre ++ [p]).map List.length).sum
  if s.trace.used + size ≤ traceRoom then
    { s with trace := { s.trace with buf := s.trace.buf ++ pre ++ [p], lost := 0 } }
  else
    let s := { s with trace := { s.trace with lost := s.trace.lost + 1 } }
    (s.countSat Reg.trcStat 32 32).setFlag Reg.trcStat 0 true

/-- R522: BRANCH and TARGET packets are formed for logical core `n`. -/
def State.traced (s : State) (n : Nat) : Bool := s.flag Reg.trcCtl 11 && s.flag Reg.trcCores n

/-- R521: emits the pending BRANCH bits of core `n`. -/
def State.flushBranch (s : State) (n : Nat) : State :=
  let c := s.core n
  if c.brBits = [] then s else
    let w := (c.brBits.length - 1) * 2 ^ 58 +
      (c.brBits.foldr (fun b (acc : Nat) => 2 * acc + b.toNat) 0)
    (s.setCore n { c with brBits := [] }).emit 2 n [BitVec.ofNat 64 w]

/-- R521: one branch bit; a packet leaves when 58 are pending. -/
def State.branchBit (s : State) (n : Nat) (b : Bool) : State :=
  if s.traced n then
    let c := s.core n
    let s := s.setCore n { c with brBits := c.brBits ++ [b] }
    if 58 ≤ c.brBits.length + 1 then s.flushBranch n else s
  else s

/-- R521: a TARGET packet, after the pending BRANCH bits. -/
def State.target (s : State) (n reason vec addr : Nat) : State :=
  if s.traced n then
    (s.flushBranch n).emit 3 n [BitVec.ofNat 64 (reason * 2 ^ 56 + vec * 2 ^ 48 + addr % 2 ^ 48)]
  else s

/-! ### Event sources (R487, R488) -/

/-- R488: raises an event source: its pending bit, and an EVENT packet where EVEN asks for one. -/
def State.raise (s : State) (src : Nat) : State :=
  let s := s.setFlag (Reg.evPend (src / 64)) (src % 64) true
  if s.flag Reg.trcCtl 12 then s.emit 4 0 [BitVec.ofNat 64 (s.phase * 2 ^ 16 + src)] else s

/-- Sets a W1C bit, and raises the source that R487 ties to it (R484: at each setting). -/
def State.setEv (s : State) (off i src : Nat) : State := (s.setFlag off i true).raise src

/-! ### Frames to the partner (R450-R453) -/

/-- R450, R453: a frame leaves: with the next FSEQ, and the acknowledgement of what has been received. -/
def State.putFrame (s : State) (f : Frame) : State :=
  let f := { f with fseq := s.pair.nextFseq, ackseq := s.pair.rxNext - 1, nak := s.pair.nak }
  ({ s with pair := { s.pair with tx := s.pair.tx ++ [f], nextFseq := s.pair.nextFseq + 1 } }).tal 0xC 0

/-- R453: queued frames leave while fewer than 2,048 are unacknowledged; `k` bounds them. -/
def State.pumpFrames : Nat → State → State
  | 0, s => s
  | k + 1, s =>
    match s.pair.queue with
    | [] => s
    | f :: rest =>
      if 2048 ≤ s.pair.tx.length then s
      else State.pumpFrames k (({ s with pair := { s.pair with queue := rest } }).putFrame f)

/-- R452: the messages that travel in CTRLU frames. -/
def FrameBody.ahead : FrameBody → Bool
  | .hello _ => true
  | .hb _ _ _ _ => true
  | .dio _ => true
  | _ => false

/-- R452, R453: a frame is queued, an `ahead` one (CTRLU) before the others that wait, and leaves as soon as it may. -/
def State.postFrame (s : State) (b : FrameBody) (ahead : Bool) : State :=
  let f : Frame := { id := s.pair.nextId, fseq := 0, body := b, time := s.ts.toNat }
  let s := { s with pair := { s.pair with nextId := s.pair.nextId + 1 } }
  if s.pair.tx.length < 2048 ∧ ((s.pair.queue.filter (fun g => g.body.ahead || !ahead)) = []) then s.putFrame f
  else
    let q := s.pair.queue
    let (first, rest) := if ahead then (q.takeWhile (fun g => g.body.ahead), q.dropWhile (fun g => g.body.ahead)) else (q, [])
    { s with pair := { s.pair with queue := first ++ f :: rest } }

/-- A frame leaves for the partner: kept until its FSEQ is acknowledged (R453). -/
def State.sendFrame (s : State) (b : FrameBody) : State :=
  if s.partnered then s.postFrame b b.ahead else s

/-- R453: a frame that the partner has not acknowledged. -/
def State.unacked (s : State) (i : Nat) : Bool := s.pair.tx.any (fun f => f.id == i) || s.pair.queue.any (fun f => f.id == i)

/-! ### The fault collector (R472-R481) -/

/-- R473: the class of a source; 0 for a code no source has. -/
def srcClass (src : Nat) : Nat :=
  if src ∈ [0x11, 0x14, 0x21, 0x22, 0x27, 0x29] then 1
  else if src ∈ [0x03, 0x04, 0x06, 0x07, 0x09, 0x0A, 0x12, 0x13, 0x31, 0x32, 0x38, 0x3A, 0x42, 0x44] then 2
  else if src ∈ [0x2A, 0x36, 0x43, 0x49, 0x4A, 0x4B, 0x50, 0x51] then 3
  else 0

/-- R478: what a capture names. -/
structure FaultArg where
  src : Nat
  acc : Nat
  master : Nat
  parish : Option Nat
  pa : Option Nat
  synd : Nat
deriving DecidableEq, Repr

/-- R476: the master ID of a kind and index. -/
def masterId (kind ix : Nat) : Nat := kind * 0x100 + ix

/-- R494: FC_INFO of a capture in phase `ph`. -/
def fcInfoWord (ph : Nat) (f : FaultArg) : BitVec 64 :=
  BitVec.ofNat 64 (f.src * 2 ^ 56 + ph * 2 ^ 54 + f.acc * 2 ^ 50 + f.master * 2 ^ 38 +
    (if f.parish.isSome then 2 ^ 37 else 0) + f.parish.getD 0 * 2 ^ 33 +
    (if f.pa.isSome then 2 ^ 32 else 0) + f.synd % 2 ^ 32)

/-- R478: the record of class `c`. -/
def State.setCapture (s : State) (c : Nat) (f : FaultArg) : State :=
  let s := s.setReg (Reg.fcAddr c) (BitVec.ofNat 64 (f.pa.getD 0 % 2 ^ 52))
  let s := s.setReg (Reg.fcInfo c) (fcInfoWord s.phase f)
  s.setReg (Reg.fcTime c) s.ts

/-- R478: a fault of a source below that of the record, raised in the SCLK cycle of the record. DESIGN CHOICE (log 47): the
commands between two cycles of the clock stand in one SCLK cycle. -/
def State.firstOf (s : State) (c : Nat) (f : FaultArg) : Bool :=
  s.tsRun && s.reg (Reg.fcTime c) == s.ts && decide (f.src < s.fld (Reg.fcInfo c) 56 8)

/-- R478: writes the record of class `c` where none is held, else sets OVF; of faults in one cycle the record is that of the
lowest source; sources 365 + c and 369 (R487). -/
def State.capture (s : State) (c : Nat) (f : FaultArg) : State :=
  if s.flag Reg.fcStat c then (if s.firstOf c f then s.setCapture c f else s).setEv Reg.fcStat (4 + c) 369
  else (s.setCapture c f).setEv Reg.fcStat c (365 + c)

/-- R473: adds one to the count of class `c`. -/
def State.countClass (s : State) (c : Nat) : State := s.countSat Reg.fcCnt (16 * c) 16

/-- A core that is executing or idling stops at its instruction boundary; its retired stores stay queued and
drain by their own commands (R481, log 31). A hold-off of its reservation ends with the time it stands. -/
def Core.halt (c : Core) : Core :=
  let c := { c with resv := c.resv.map (fun (r : Resv) => { r with hold := false }) }
  match c.run with
  | .running => { c.settle with run := .stopped, atLimit := false }
  | .idle => { c.settle with run := .stopped, atLimit := false }
  | .paused => { c with run := .stopped }
  | _ => c

/-- R481: the VIN-fed units stop; an earlier stop stands. -/
def State.stopUnits (s : State) (why : Stop) : State :=
  if s.stop = .running then
    { s with stop := why, cores := s.cores.map (fun e => (e.1, e.2.halt)) }
  else s

/-- PAIR_ACT_OUT is deasserted where the module has asserted it. -/
def State.dropActOut (s : State) : State :=
  { s with pins := { s.pins with actOut := s.pins.actOut.map (fun _ => false) } }

/-- The reaction to a GRAVE fault: R575 in START-UP; R469 in pair operation with a partner; R481 otherwise.
TEST runs nothing, so nothing stops there. -/
def State.graveReact (s : State) : State :=
  if s.phase = phStartup then ((s.stopUnits .startup).dropActOut).setFld Reg.imgStat 4 3 6
  else if s.phase = phTest then s
  else if s.role = 2 then (s.sendFrame .leave).stopUnits .grave
  else if s.partnered then
    if s.stop = .running then
      let s := s.stopUnits .handed
      if s.flag Reg.pairStat 3 then { s with pair := { s.pair with switching := true } } else s.dropActOut
    else s
  else s.stopUnits .grave

/-- R474: source code `n` is escalated. -/
def State.escalated (s : State) (n : Nat) : Bool := s.flag (Reg.fcEsc (n / 64)) (n % 64)

/-- R478, R474: a fault is raised: captured and counted in its class, and as GRAVE where it is or is escalated. -/
def State.fault (s : State) (f : FaultArg) : State :=
  let c := srcClass f.src
  let s := (s.capture c f).countClass c
  let s := if c ≠ 3 ∧ s.escalated f.src then (s.capture 3 f).countClass 3 else s
  if c = 3 ∨ s.escalated f.src then s.graveReact else s

/-- A fault of logical core `n`, by its physical core and parish. -/
def State.coreFault (s : State) (n src acc : Nat) (pa : Option Nat) (synd : Nat := 0) : State :=
  s.fault { src := src, acc := acc, master := masterId 0 (s.physOf n), parish := some (s.parishOf n),
            pa := pa, synd := synd }

/-- R479: the onset of a level source: raised and counted once; nothing where it already holds. -/
def State.levelOn (s : State) (f : FaultArg) : State :=
  if BitVec.ofNat 8 f.src ∈ s.levels then s
  else ({ s with levels := s.levels ++ [BitVec.ofNat 8 f.src] }).fault f

/-- The end of a level source's condition. -/
def State.levelOff (s : State) (src : Nat) : State :=
  { s with levels := s.levels.filter (fun c => c ≠ BitVec.ofNat 8 src) }

end Sys2Proof.Machine
end

