-- ==== Sys2Proof/Machine/Ecc.lean ====
section
/-! DEFINITION. The DRAM line code (R293-R295), DRAM placement (R296) and the SRAM word code (R297). A stored
word with a bit error is its true value and an error pattern, so decoding works on the pattern alone: both codes
are linear. -/

namespace Sys2Proof.Machine

/-! ### GF(2^8) with x^8 + x^4 + x^3 + x^2 + 1 (R293) -/

/-- Multiplication by x. -/
def gfDouble (a : Nat) : Nat := if a < 128 then 2 * a else (2 * a) ^^^ 0x11D

/-- `gfMulAux 8 a b`: the product, adding `a` for each bit of `b` from the lowest. -/
def gfMulAux : Nat → Nat → Nat → Nat
  | 0, _, _ => 0
  | k + 1, a, b => (if b % 2 = 1 then a else 0) ^^^ gfMulAux k (gfDouble a) (b / 2)

def gfMul (a b : Nat) : Nat := gfMulAux 8 a b

/-- α^i. -/
def gfExp : Nat → Nat
  | 0 => 1
  | i + 1 => gfDouble (gfExp i)

/-- a^k. -/
def gfPow (a : Nat) : Nat → Nat
  | 0 => 1
  | k + 1 => gfMul a (gfPow a k)

/-- The inverse: a^254. -/
def gfInv (a : Nat) : Nat := gfPow a 254

/-- R294: the syndrome symbol `k` of an error pattern. -/
def rsSyndrome (e : BurstErr) (k : Nat) : Nat :=
  e.foldl (fun acc p => acc ^^^ gfMul p.2.toNat (gfExp (p.1 * k % 255))) 0

def rsSyndromes (e : BurstErr) : List Nat := (List.range 8).map (rsSyndrome e)

/-- The coefficients of Π (1 + X x) over the locators `xs`, constant first. -/
def locatorPoly : List Nat → List Nat
  | [] => [1]
  | x :: xs =>
    let p := locatorPoly xs
    (List.range (p.length + 1)).map (fun i =>
      p.getD i 0 ^^^ (if i = 0 then 0 else gfMul x (p.getD (i - 1) 0)))

/-- R294: the syndromes are those of some error confined to positions 80-85. -/
def rsAddr (s : List Nat) : Bool :=
  let p := locatorPoly ((List.range 6).map (fun j => gfExp (80 + j)))
  [6, 7].all (fun k => (List.range 7).foldl (fun acc m => acc ^^^ gfMul (p.getD m 0) (s.getD (k - m) 0)) 0 == 0)

/-- R294: the error in one of positions 0-79 with these syndromes. -/
def rsOne (s : List Nat) : Option BurstErr :=
  let s0 := s.getD 0 0
  if s0 = 0 then none else
    ((List.range 80).find? (fun i =>
      (List.range 7).all (fun k => s.getD (k + 1) 0 == gfMul (gfExp i) (s.getD k 0)))).map
      (fun i => [(i, BitVec.ofNat 8 s0)])

/-- R294: the error in two of positions 0-79 with these syndromes. -/
def rsTwo (s : List Nat) : Option BurstErr :=
  let g (k : Nat) := s.getD k 0
  let det := gfMul (g 1) (g 1) ^^^ gfMul (g 0) (g 2)
  if det = 0 then none else
    let inv := gfInv det
    let s1 := gfMul inv (gfMul (g 1) (g 2) ^^^ gfMul (g 0) (g 3))
    let s2 := gfMul inv (gfMul (g 2) (g 2) ^^^ gfMul (g 1) (g 3))
    let rec3 := (List.range 6).all (fun k => g (k + 2) == gfMul s1 (g (k + 1)) ^^^ gfMul s2 (g k))
    let roots := (List.range 80).filter (fun i =>
      gfMul (gfExp i) (gfExp i) == gfMul s1 (gfExp i) ^^^ s2)
    match rec3, roots with
    | true, [i, j] =>
      let ej := gfMul (g 1 ^^^ gfMul (g 0) (gfExp i)) (gfInv (gfExp i ^^^ gfExp j))
      some [(i, BitVec.ofNat 8 (g 0 ^^^ ej)), (j, BitVec.ofNat 8 ej)]
    | _, _ => none

/-- The outcomes of R294; `ce` carries the error the decoder takes away. -/
inductive LineClass where
  | clean
  | ce (fix : BurstErr)
  | addr
  | ue
deriving DecidableEq, Repr

/-- R294: decoding a burst whose bits differ from their code word by `e`. -/
def rsDecode (e : BurstErr) : LineClass :=
  let s := rsSyndromes e
  if s.all (· == 0) then .clean
  else if rsAddr s then .addr
  else match rsOne s with
    | some f => .ce f
    | none => match rsTwo s with
      | some f => .ce f
      | none => .ue

/-- R38, R293: what one wrong symbol does to the words of the line. -/
def flipSymbol (ws : List Word) (pos : Nat) (e : Byte) : List Word :=
  let lane := pos / 2
  let h := pos % 2
  ws.mapIdx (fun w x =>
    (List.range 8).foldl (fun x i =>
      if e.getLsbD i = false then x
      else if lane < 32 then
        let beat := 8 * h + i
        if beat / 2 = w then
          { x with val := x.val ^^^ BitVec.ofNat 64 (2 ^ (lane + 32 * (beat % 2))) }
        else x
      else if pos < 80 ∧ h = 0 ∧ i = w then
        { x with tag := x.tag ^^^ BitVec.ofNat 8 (2 ^ (lane - 32)) }
      else x) x)

def flipLine (ws : List Word) (e : BurstErr) : List Word :=
  e.foldl (fun ws p => flipSymbol ws p.1 p.2) ws

/-- R494: SYND of a DRAM capture: syndrome symbols 0-3. -/
def rsSynd (e : BurstErr) : Nat :=
  (List.range 4).foldl (fun acc k => acc + rsSyndrome e k * 2 ^ (8 * k)) 0

/-! ### Placement (R296) -/

/-- R502: the words of the image's records of one type, in order. -/
def State.records (s : State) (ty : Nat) : List Rec := s.image.filter (fun r => r.ty == ty)

/-- R296: the installed channels, ascending. -/
def State.installed (s : State) : List Nat :=
  (List.range 12).filter (fun c =>
    (s.records 0x0E).any (fun r => r.index == c && decide (bits (r.words.getD 0 0) 0 16 ≠ 0)))

/-- R296: the common capacity of the installed channels in bytes. -/
def State.dimmBytes (s : State) : Nat :=
  match (s.records 0x0E).find? (fun r => decide (bits (r.words.getD 0 0) 0 16 ≠ 0)) with
  | some r => bits (r.words.getD 0 0) 0 16 * 2 ^ 30
  | none => 0

/-- R296: the end of DRAM. -/
def State.dramEnd (s : State) : Nat := s.installed.length * s.dimmBytes

/-- R296: the memory channel that holds the line at `pa`. -/
def State.channelOf (s : State) (pa : Nat) : Nat :=
  let cs := s.installed
  cs.getD (pa / 256 % cs.length) 0

/-- R296: the subchannel of the line at `pa`: 0 A, 1 B. -/
def subchannelOf (pa : Nat) : Nat := pa / 64 % 2

/-- R296: the line number within its channel of the line at `pa`. -/
def State.localLine (s : State) (pa : Nat) : Nat := pa / 256 / s.installed.length * 4 + pa / 64 % 4

/-- R296, R304: the spare lines of memory channel `c`: its first 64 lines of the top 48 KiB of DRAM. -/
def State.spareLines (s : State) (c : Nat) : List Nat :=
  let first := (s.dramEnd - 0xC000) / 64
  (((List.range 768).map (first + ·)).filter (fun l => s.channelOf (64 * l) == c)).take 64

/-! ### The SRAM word code (R297) -/

def bitCount (n : Nat) : Nat := ((List.range 8).filter (fun i => n.testBit i)).length

/-- R297: the columns of the 72 word bits: every weight-3 value, then the 16 lowest weight-5 values. -/
def hsiaoCols : List Nat :=
  (List.range 256).filter (fun n => bitCount n == 3) ++
    ((List.range 256).filter (fun n => bitCount n == 5)).take 16

/-- R297: the address fold of an index. -/
def indexFold (w : Nat) : Nat := (List.range 10).foldl (fun f k => f ^^^ (w / 2 ^ (7 * k) % 128)) 0

/-- R297: E(F). -/
def foldColumn (f : Nat) : Nat := bitCount f % 2 * 128 + f

/-- The column of bit `i` of the 80 stored bits: a word bit below 72, else a check bit. -/
def hsiaoCol (i : Nat) : Nat := if i < 72 then hsiaoCols.getD i 0 else 2 ^ (i - 72)

/-- R297: the syndrome of an error: the columns of its wrong bits and E of what is wrong in the fold. -/
def hsiaoSynd (e : SramErr) : Nat :=
  (List.range 80).foldl (fun acc i => if e.getLsbD i then acc ^^^ hsiaoCol i else acc) (foldColumn (e.toNat / 2 ^ 80))

/-- The outcomes of R297; `ce` carries the bit the decoder flips. -/
inductive WordClass where
  | clean
  | ce (bit : Nat)
  | ue
deriving DecidableEq, Repr

def hsiaoDecode (e : SramErr) : WordClass :=
  let s := hsiaoSynd e
  if s = 0 then .clean
  else match (List.range 80).find? (fun i => hsiaoCol i == s) with
    | some i => .ce i
    | none => .ue

/-- The error of one stored bit. -/
def bitErr (i : Nat) : SramErr := BitVec.ofNat 87 (2 ^ i)

/-- A word with the error bits of a pattern applied. -/
def flipWord (w : Word) (e : SramErr) : Word :=
  { tag := w.tag ^^^ e.extractLsb' 64 8, val := w.val ^^^ e.extractLsb' 0 64 }

/-! ### Errors in stored units -/

/-- Bits of the burst at which a line is stored flip. -/
def Mem.flipBurst (m : Mem) (line : Nat) (e : BurstErr) : Mem :=
  if e = [] then m
  else
    let at_ := (m.remapD.find line).getD line
    { m with dramErr := SMap.set [] m.dramErr at_ (SMap.get [] m.dramErr at_ ++ e) }

/-- Bits of an SRAM cell flip. -/
def Mem.flipCell (m : Mem) (cell : Nat) (e : SramErr) : Mem :=
  { m with sramErr := SMap.set 0 m.sramErr cell (SMap.get 0 m.sramErr cell ^^^ e) }

def Mem.cellErr (m : Mem) (cell : Nat) : SramErr := SMap.get 0 m.sramErr cell

/-- A cell is written with a new code. -/
def Mem.setCell (m : Mem) (cell : Nat) (e : SramErr) : Mem := { m with sramErr := SMap.set 0 m.sramErr cell e }

/-- The key of word `w` of an L2 line of physical core `p` among the SRAM cells. -/
def l2Cell (p line w : Nat) : Nat := 2 ^ 62 + p * 2 ^ 52 + 8 * line + w

/-- The key of word `w` of way `way` of set `set` of slice `sl` among the SRAM cells. -/
def granCell (sl set way w : Nat) : Nat := 2 ^ 61 + ((sl * 4096 + set) * 24 + way) * 8 + w

/-- The key of a spare word cell: entry `i` of a slice's or a bank group's table. -/
def spareCell (table i : Nat) : Nat := 2 ^ 60 + 16 * table + i

end Sys2Proof.Machine
end

