-- ==== Sys2Proof/Machine/Home.lean ====
section
/-! DEFINITION. Home: DRAM, the Granary and the Commons with their codes (R293-R302), what a write at home brings with
it (merge buffers, page logs, mirroring, home reservations), and the snoops it sends. Addresses here are physical; a
line is PA / 64, a word PA / 8. -/

namespace Sys2Proof.Machine

/-! ### Slices and sets (R254) -/

def xorFields (pa : Nat) (lo w n : Nat) : Nat :=
  (List.range n).foldl (fun acc k => acc ^^^ (pa / 2 ^ (lo + w * k) % 2 ^ w)) 0

/-- R254: the home slice of the line at `pa`. -/
def sliceOf (pa : Nat) : Nat := xorFields pa 6 6 6

def granSet (pa : Nat) : Nat := (pa / 2 ^ 12 % 2 ^ 12) ^^^ (pa / 2 ^ 24 % 2 ^ 12)

def sfSet (pa : Nat) : Nat := (pa / 2 ^ 12 % 2 ^ 11) ^^^ (pa / 2 ^ 23 % 2 ^ 11)

/-- R228: the L2 set of the line at `pa`. -/
def l2Set (pa : Nat) : Nat :=
  (pa / 2 ^ 6 % 2 ^ 11) ^^^ (pa / 2 ^ 17 % 2 ^ 11) ^^^ (pa / 2 ^ 28 % 2 ^ 11) ^^^ (pa / 2 ^ 39 % 2 ^ 11)

/-- R228: the set of the line at `pa` in the L1I and the L1D. -/
def l1Set (pa : Nat) : Nat := (pa / 2 ^ 6 % 2 ^ 8) ^^^ (pa / 2 ^ 14 % 2 ^ 8)

/-- Two lines share a slice and a Granary set. -/
def sameGranSet (l m : Nat) : Bool :=
  sliceOf (64 * l) == sliceOf (64 * m) && granSet (64 * l) == granSet (64 * m)

/-! ### Tree pseudo-LRU (R231, R256, R262) -/

/-- The way that the tree bits `t` of a set of 2^`top` leaves lead to from node `nd` of height `k`, among the ways that
may be used: node 1 is the root, and a set bit of a node leads to its upper half. -/
def plruLeaf (t top : Nat) (ok : Nat → Bool) : Nat → Nat → Option Nat
  | 0, nd => if ok (nd - 2 ^ top) then some (nd - 2 ^ top) else none
  | k + 1, nd =>
    let b := (t.testBit nd).toNat
    (plruLeaf t top ok k (2 * nd + b)).or (plruLeaf t top ok k (2 * nd + (1 - b)))

/-- The tree bits after an access to a way: every node above it leads away from it. -/
def plruTouch (t top way : Nat) : Nat :=
  (List.range top).foldl (fun t j =>
    let nd := (way + 2 ^ top) / 2 ^ (j + 1)
    let up := (way + 2 ^ top) / 2 ^ j % 2 == 0
    if t.testBit nd == up then t else t ^^^ 2 ^ nd) t

/-- R231: the way a new line takes: the lowest free one of those that may be used, else the one the tree leads to. -/
def plruWay (t top : Nat) (ok free : Nat → Bool) : Option Nat :=
  ((List.range (2 ^ top)).find? (fun w => ok w && free w)).or (plruLeaf t top ok top 1)

/-! ### Waiting -/

/-- What the command would do must wait. -/
def State.wait (s : State) (w : Wait) : State := { s with waiting := some (s.waiting.getD w) }

def State.waitIf (s : State) (b : Bool) : State := if b then s.wait .hold else s

/-! ### Plain storage -/

/-- Who made an access and how (R476, R477), for captures; `stream` is the Granary stream detector that a DMA read
trains, with the bounds of its buffer (R237). -/
structure Who where
  master : Nat
  acc : Nat
  parish : Option Nat
  stream : Option (Nat × Nat × Nat) := none
deriving DecidableEq, Repr

/-- R477: the access type of a write at home by master `m`. -/
def writeAcc (m : Nat) : Nat :=
  match m / 0x100 with
  | 0 => 2
  | 4 => 0xA
  | 5 => 0xB
  | 6 => 0xF
  | _ => 9

def Mem.word (m : Mem) (w : Nat) : Word := SMap.get Word.raw0 m.dram w

/-- R304: where a DRAM line is stored: its own place, or its spare line. -/
def Mem.place (m : Mem) (line : Nat) : Nat := (m.remapD.find line).getD line

/-- The eight words of a DRAM line. -/
def Mem.dramLine (m : Mem) (line : Nat) : List Word := (List.range 8).map (fun i => m.word (8 * m.place line + i))

/-- A DRAM line is stored with the errors `e` in its bits. -/
def Mem.setBurst (m : Mem) (line : Nat) (ws : List Word) (e : BurstErr) : Mem :=
  { m with
    dram := (List.range 8).foldl (fun d i => SMap.set Word.raw0 d (8 * m.place line + i) (ws.getD i Word.raw0)) m.dram
    dramErr := SMap.set [] m.dramErr (m.place line) e }

/-- A DRAM line is written with a new code. -/
def Mem.setDram (m : Mem) (line : Nat) (ws : List Word) : Mem := m.setBurst line ws []

/-- What home holds of a line, without any effect: the Granary's copy, else DRAM's. -/
def Mem.peekLine (m : Mem) (line : Nat) : List Word :=
  match m.gran.find line with
  | some g => g.data
  | none => m.dramLine line

/-- R318: word `k` (PA / 8) lies in one of the four Commons. -/
def inCommons (k : Nat) : Bool := decide (8 * k < commonsBase + 0x2000000)

/-- R304: where a Commons word is stored: its own cell, or its spare cell. -/
def Mem.cmnCell (m : Mem) (k : Nat) : Nat := (m.remapC.find k).getD k

def Mem.cmnWord (m : Mem) (k : Nat) : Word := SMap.get Word.raw0 m.cmn (m.cmnCell k)

/-- A Commons word is written with a new code, and its valid bit set (R302). -/
def Mem.setCmn (m : Mem) (k : Nat) (w : Word) : Mem :=
  ({ m with cmn := SMap.set Word.raw0 m.cmn (m.cmnCell k) w, cmnValid := m.cmnValid.ins k () }).setCell (m.cmnCell k) 0

/-- What home holds of a word of DRAM or a Commons, without any effect (R319: RAW 0 past the fourth Commons). -/
def Mem.peekWord (m : Mem) (w : Nat) : Word :=
  if isCommons (8 * w) then (if inCommons w then m.cmnWord w else Word.raw0)
  else (m.peekLine (w / 8)).getD (w % 8) Word.raw0

/-- A write of a line to DRAM (R258); counted (R519). -/
def State.dramWrite (s : State) (line : Nat) (ws : List Word) : State :=
  ({ s with mem := s.mem.setDram line ws }).tal 6 (s.channelOf (64 * line))

/-- R299: records an event of the line code. -/
def State.memFault (s : State) (src line : Nat) (w : Who) (e : BurstErr) : State :=
  s.fault { src := src, acc := w.acc, master := w.master, parish := s.ownerOf (64 * line),
            pa := some (64 * line), synd := rsSynd e }

/-- R487: channel `c`'s MEM_ECC bit `i`. -/
def State.memEccBit (s : State) (c i : Nat) : State := s.setEv (Reg.memEcc c) i (112 + c)

/-- R304, R305: a hard DRAM line is copied to a spare line of its channel, or finds the table full. -/
def State.remapLine (s : State) (line : Nat) (w : Who) : State :=
  let c := s.channelOf (64 * line)
  let used := s.fld (Reg.memEcc c) 24 7
  if (s.mem.remapD.find line).isSome then s
  else if used < 64 then
    let ws := s.mem.dramLine line
    let s := { s with mem := { s.mem with remapD := s.mem.remapD.ins line ((s.spareLines c).getD used line) } }
    ((s.dramWrite line ws).setFld (Reg.memEcc c) 24 7 (used + 1)).memFault 0x24 line w []
  else (s.memEccBit c 2).memFault 0x25 line w []

/-- R304: a location read again after a scrub, without an error. -/
def State.unscrub (s : State) (k : Nat) : State :=
  { s with mem := { s.mem with scrubbed := s.mem.scrubbed.filter (· ≠ k) } }

/-- A line of eight POIS words. -/
def poisLine : List Word := List.replicate 8 Word.pois

/-- The line's words with those of `mask` replaced. -/
def maskWords (mask : BitVec 8) (new old : List Word) : List Word :=
  (List.range 8).map (fun i => if mask.getLsbD i then new.getD i Word.raw0 else old.getD i Word.raw0)

/-! ### The partner (R42, R458, R459) -/

/-- R307, R309: the partner can be asked to mend the line. -/
def State.canMend (s : State) (line : Nat) : Bool := s.mirroredPa (64 * line) && s.partnered

/-- R42: a change of a mirrored line leaves for the partner; a standby sends none. -/
def State.mirrorOut (s : State) (line : Nat) (mask : BitVec 8) (ws : List Word) : State :=
  if s.role = 2 then s
  else s.sendFrame (.mirror [{ mend := false, line := BitVec.ofNat 46 line, wmask := mask, words := ws, time := s.ts }])

/-- R267, R458: home sends a change of a mirrored line, or of a mirrored parish's table, to the partner. -/
def State.mirrorWords (s : State) (line : Nat) (mask : BitVec 8) (ws : List Word) : State :=
  if s.mirroredLine (64 * line) then s.mirrorOut line mask ws else s

/-- The MIRROR records a frame carries. -/
def FrameBody.mirrors (b : FrameBody) : Nat :=
  match b with
  | .mirror recs => recs.length
  | _ => 0

/-- R459: the MIRROR-record credits in use: records sent and not acknowledged, and those that retired stores and merge
entries will send. -/
def State.mirrorUsed (s : State) : Nat :=
  (((s.pair.tx ++ s.pair.queue).map (fun f => f.body.mirrors)).sum) +
    ((s.cores.map (fun e => (e.2.sq.filter (fun x => s.mirroredPa (8 * x.word))).length +
      (e.2.nt.filter (fun x => s.mirroredPa (64 * x.line))).length)).sum) +
    (s.mem.merge.filter (fun e => s.mirroredPa (8 * e.word))).length

/-- R459: a write to a mirrored line is held while no credit is left. -/
def State.mirrorFull (s : State) (line : Nat) : Bool :=
  s.mirroredLine (64 * line) && s.partnered && s.role != 2 && decide (1024 ≤ s.mirrorUsed)

/-! ### Card logs and page logs: claiming and publishing (R138, R441-R443) -/

/-- R443: where slot `n` of a ring at parish-0 address `base` with 2^k entries lies. -/
def State.ringSlot (s : State) (base k n : Nat) : Region × Nat := s.translate 0 (base * 0x80 + 8 * (n % 2 ^ k))

/-- R138, R443: HEAD, at bit 32 of the register, passes each slot that is written, in order. -/
def State.headOn (off : Nat) : Nat → State → List Nat → State × List Nat
  | 0, s, w => (s, w)
  | k + 1, s, w =>
    let h := s.fld off 32 32
    if h ∈ w then State.headOn off k (s.setFld off 32 32 (h + 1)) (w.filter (· ≠ h)) else (s, w)

/-- R138: a slot of parish `p`'s card log is written. -/
def State.cardDone (s : State) (p slot : Nat) : State :=
  let c := SMap.get ClogState.reset s.clog p
  let (s, w) := State.headOn (Reg.gcClogp p) (c.written.length + 1) s (c.written ++ [slot])
  { s with clog := s.clog.set ClogState.reset p { c with written := w } }

/-- R443: a slot of parish `p`'s page log is written. -/
def State.pageDone (s : State) (p slot : Nat) : State :=
  let l := SMap.get PageLog.reset s.plog p
  let (s, w) := State.headOn (Reg.dlPtr p) (l.ring.written.length + 1) s (l.ring.written ++ [slot])
  let s := { s with plog := s.plog.set PageLog.reset p { l with ring := { l.ring with written := w } } }
  s.countSat (Reg.dlStat p) 32 32

/-- R443: the line lies in some parish's page-log ring. -/
def State.inPageRing (s : State) (line : Nat) : Bool :=
  (List.range 16).any (fun p =>
    let k := s.fld (Reg.dlRing p) 48 5
    k != 0 &&
      (let (r, pa) := s.translate 0 (s.fld (Reg.dlRing p) 7 41 * 0x80)
       r != .none && decide (pa ≤ 64 * line ∧ 64 * line < pa + 8 * 2 ^ k)))

/-- R442: the pages of the filter that share a set with `page` (8 ways; 8,192 sets by the low bits). -/
def filterMates (f : List Nat) (page : Nat) : List Nat := f.filter (fun q => q % 8192 == page % 8192)

/-- R441-R443: parish `p` logs the page of one write by master kind `kind`: a slot is claimed, and its entry waits to be
written. -/
def State.claimPage (s : State) (p page kind m : Nat) : State :=
  let l := SMap.get PageLog.reset s.plog p
  if l.halted || !s.flag (Reg.dlCtl p) 0 || decide (page ∈ l.filter) then s
  else
    let k := s.fld (Reg.dlRing p) 48 5
    let slot := l.ring.claimed.toNat
    let cap := if k = 0 then 0 else 2 ^ k
    if cap ≤ (slot + 2 ^ 32 - s.fld (Reg.dlPtr p) 0 32) % 2 ^ 32 then
      let s := { s with plog := s.plog.set PageLog.reset p { l with halted := true } }
      s.setEv (Reg.dlStat p) 0 370
    else
      let filter := if (filterMates l.filter page).length < 8 then l.filter ++ [page] else l.filter
      let s := { s with plog := s.plog.set PageLog.reset p
                          { l with filter := filter, ring := { l.ring with claimed := l.ring.claimed + 1 } } }
      let (r, pa) := s.ringSlot (s.fld (Reg.dlRing p) 7 41) k slot
      let w := Word.raw (BitVec.ofNat 64 (kind * 2 ^ 56 + page))
      if r ≠ .wb ∧ r ≠ .uc then s.pageDone p slot
      else { s with coh := { s.coh with late := s.coh.late ++ [⟨pa, w, m, p, some slot, false, true⟩] } }

/-- R441: every logging parish that maps the line claims an entry for the write's page. -/
def State.claimPages (s : State) (line m : Nat) : State :=
  if (List.range 16).all (fun p => !s.flag (Reg.dlCtl p) 0) then s
  else if s.inPageRing line then s
  else (s.mapping (64 * line)).foldl (fun s r => s.claimPage r.parish (r.parishAddr (64 * line) / 4096) (m / 0x100) m) s

/-! ### The Granary (R254-R258, R297, R298) -/

/-- R256: the ways granted to a line's owner in its slice. -/
def State.granWays (s : State) (line : Nat) : Nat :=
  let sl := sliceOf (64 * line)
  match s.ownerOf (64 * line) with
  | some p => s.fld (Reg.grnWays sl p) 0 24
  | none => s.fld (Reg.grnDways sl) 0 24

/-- R186, R257: the way of the set of `line` in which the control-store copy is pinned: the lowest device way of sets
0-95 (log 75). -/
def State.pinnedWay (s : State) (line : Nat) : Option Nat :=
  if s.mem.pinned && decide (granSet (64 * line) < 96) then
    (List.range 24).find? (fun w => s.flag (Reg.grnDways (sliceOf (64 * line))) w)
  else none

/-- The key of a line's Granary set. -/
def granKey (line : Nat) : Nat := 4096 * sliceOf (64 * line) + granSet (64 * line)

/-- The line held in a way of the Granary set of `line`. -/
def Mem.granAt (m : Mem) (line way : Nat) : Option (Nat × GranLine) :=
  m.gran.find? (fun e => sameGranSet e.1 line && e.2.way == way)

/-- R304: the cell of word `w` of a Granary line: in its way, or a spare one. -/
def Mem.granCellOf (m : Mem) (line w : Nat) : Nat :=
  let cell := granCell (sliceOf (64 * line)) (granSet (64 * line)) (((m.gran.find line).map (·.way)).getD 0) w
  (m.remapG.find cell).getD cell

/-- The words of `mask` of a Granary line are written with a new code. -/
def Mem.granClean (m : Mem) (line : Nat) (mask : BitVec 8) : Mem :=
  if m.sramErr = [] then m
  else (List.range 8).foldl (fun m i => if mask.getLsbD i then m.setCell (m.granCellOf line i) 0 else m) m

/-- A capture about an SRAM word at `pa` (R299). -/
def State.sramFault (s : State) (src pa : Nat) (w : Who) (e : SramErr) : State :=
  s.fault { src := src, acc := w.acc, master := w.master, parish := s.ownerOf pa, pa := some pa, synd := hsiaoSynd e }

/-- The way of the Granary set and the word's cell, before any redirection. -/
def Mem.granHome (m : Mem) (line w : Nat) : Nat :=
  granCell (sliceOf (64 * line)) (granSet (64 * line)) (((m.gran.find line).map (·.way)).getD 0) w

/-- R304, R316: a hard Granary word takes a word entry of its slice; its corrected data is copied to the spare cell. -/
def State.remapGran (s : State) (line w : Nat) (who : Who) : State :=
  let sl := sliceOf (64 * line)
  let cell := s.mem.granHome line w
  let used := s.fld (Reg.grnEcc sl) 8 5
  if (s.mem.remapG.find cell).isSome then s
  else if used < 16 then
    let spare := spareCell sl used
    let s := { s with mem := ({ s.mem with remapG := s.mem.remapG.ins cell spare }).setCell spare 0 }
    (s.setFld (Reg.grnEcc sl) 8 5 (used + 1)).sramFault 0x24 (64 * line + 8 * w) who 0
  else (s.setEv (Reg.grnEcc sl) 1 (48 + sl)).sramFault 0x25 (64 * line + 8 * w) who 0

/-- R291: a write of `line` by master `m` ends the home reservations other cores hold on it. -/
def State.loseHome (s : State) (line : Nat) (m : Nat) : State :=
  { s with cores := s.cores.map (fun e =>
      match e.2.resv with
      | some r =>
        if r.home ∧ r.line = line ∧ masterId 0 (s.physOf e.1) ≠ m then (e.1, { e.2 with resv := none }) else e
      | none => e) }

/-- R298: a dirty Granary line with a class UE word: POIS in every word, here and in DRAM. -/
def State.granLost (s : State) (line w : Nat) (who : Who) (err : SramErr) : State :=
  let sl := sliceOf (64 * line)
  let s := (s.countSat (Reg.grnEcc sl) 40 8).setEv (Reg.grnEcc sl) 0 (48 + sl)
  let s := s.dramWrite line poisLine
  let s := match s.mem.gran.find line with
    | some g =>
      { s with mem := ({ s.mem with gran := s.mem.gran.ins line { g with dirty := false, data := poisLine },
                                    granDirty := s.mem.granDirty.filter (· ≠ line) }).granClean line 0xFF#8 }
    | none => s
  let s := ((s.loseHome line who.master).mirrorWords line 0xFF#8 poisLine).claimPages line who.master
  (s.sramFault 0x27 (64 * line + 8 * w) who err).remapGran line w who

/-- R298, R304: a clean Granary line with a class UE word is dropped, to be read again from DRAM; the word is hard. -/
def State.granDrop (s : State) (line w : Nat) (who : Who) (err : SramErr) : State :=
  let s := (s.countSat (Reg.grnEcc (sliceOf (64 * line))) 48 16).sramFault 0x26 (64 * line + 8 * w) who err
  let s := s.remapGran line w who
  { s with mem := { s.mem.granClean line 0xFF#8 with gran := s.mem.gran.del line } }

/-- R297, R298, R304: home reads word `w` of a Granary line through its code. -/
def State.granRead (s : State) (line w : Nat) (who : Who) : State :=
  match s.mem.gran.find line with
  | none => s
  | some g =>
    let cell := s.mem.granCellOf line w
    let err := s.mem.cellErr cell
    let put (s : State) (x : Word) (e : SramErr) : State :=
      { s with mem := ({ s.mem with
          gran := s.mem.gran.ins line { g with data := g.data.mapIdx (fun i y => if i = w then x else y) } }).setCell cell e }
    let x := flipWord (g.data.getD w Word.raw0) err
    match hsiaoDecode err with
    | .clean => (if err = 0 then s else put s x 0).unscrub (s.mem.granHome line w)
    | .ce b =>
      let s := put s (flipWord x (bitErr b)) (bitErr b)
      let s := (s.countSat (Reg.grnEcc (sliceOf (64 * line))) 48 16).sramFault 0x26 (64 * line + 8 * w) who err
      if s.mem.scrubbed.contains (s.mem.granHome line w) then s.remapGran line w who else s
    | .ue => if g.dirty then s.granLost line w who err else s.granDrop line w who err

/-- Home reads the words of `mask` of a Granary line. -/
def State.granCheck (s : State) (line : Nat) (mask : BitVec 8) (who : Who) : State :=
  if s.mem.sramErr = [] ∧ s.mem.scrubbed = [] then s
  else (List.range 8).foldl (fun s i => if mask.getLsbD i then s.granRead line i who else s) s

/-- R258, R298: a dirty Granary line is written to DRAM and kept clean. -/
def State.granWriteBack (s : State) (line : Nat) : State :=
  let dirty (s : State) : Bool := ((s.mem.gran.find line).map (·.dirty)).getD false
  let s := if dirty s then s.granCheck line 0xFF#8 { master := masterId 4 0, acc := 0xD, parish := none } else s
  match s.mem.gran.find line with
  | none => { s with mem := { s.mem with granDirty := s.mem.granDirty.filter (· ≠ line) } }
  | some g =>
    let s := if g.dirty then s.dramWrite line g.data else s
    { s with mem := { s.mem with gran := s.mem.gran.ins line { g with dirty := false },
                                 granDirty := s.mem.granDirty.filter (· ≠ line) } }

/-- R258: a line leaves its Granary way; a dirty one is written to DRAM. -/
def State.granEvict (s : State) (line : Nat) : State :=
  let s := s.granWriteBack line
  { s with mem := { s.mem.granClean line 0xFF#8 with gran := s.mem.gran.del line } }

/-- R256: room in the ways granted to the owner of `line`, and the way it takes; none where every one is pinned. -/
def State.granRoom (s : State) (line : Nat) : State × Option Nat :=
  let ok (w : Nat) : Bool := (s.granWays line).testBit w && s.pinnedWay line != some w
  let mates := s.mem.gran.filter (fun e => sameGranSet e.1 line)
  match plruWay (SMap.get 0 s.mem.granPlru (granKey line)) 5 ok (fun w => !mates.any (fun e => e.2.way == w)) with
  | none => (s, none)
  | some w =>
    match mates.find? (fun e => e.2.way == w) with
    | none => (s, some w)
    | some (v, _) => (s.granEvict v, some w)

/-- R256: an access to a Granary line moves the tree bits of its set. -/
def State.granTouch (s : State) (line : Nat) : State :=
  match s.mem.gran.find line with
  | none => s
  | some g =>
    let k := granKey line
    { s with mem := { s.mem with
        granPlru := SMap.set 0 s.mem.granPlru k (plruTouch (SMap.get 0 s.mem.granPlru k) 5 g.way) } }

/-- R534: a slice with more than 6,144 dirty lines writes its oldest dirty line to DRAM. -/
def State.granTrim (s : State) (line : Nat) : State :=
  let mine := s.mem.granDirty.filter (fun l => sliceOf (64 * l) == sliceOf (64 * line))
  match mine with
  | [] => s
  | v :: _ =>
    if mine.length ≤ 6144 then s
    else s.granWriteBack v

/-- R256: words of a line are written in the Granary, `ws` standing for the whole line; where its owner has no way for
it, it goes to DRAM. -/
def State.granEnter (s : State) (line : Nat) (mask : BitVec 8) (ws : List Word) (dirty : Bool) : State :=
  match s.mem.gran.find line with
  | some g =>
    { s with mem := ({ s.mem with
        gran := s.mem.gran.ins line { g with dirty := g.dirty || dirty, data := ws },
        granDirty := if dirty && !g.dirty then s.mem.granDirty ++ [line] else s.mem.granDirty }).granClean line mask }
  | none =>
    match s.granRoom line with
    | (s, none) => if dirty then s.dramWrite line ws else s
    | (s, some w) =>
      { s with mem := ({ s.mem with
          gran := s.mem.gran.ins line { dirty := dirty, data := ws, way := w },
          granDirty := if dirty then s.mem.granDirty ++ [line] else s.mem.granDirty }).granClean line 0xFF#8 }

/-- R256, R534: a line enters the Granary, whose dirty lines stay within bounds. -/
def State.granPut (s : State) (line : Nat) (mask : BitVec 8) (ws : List Word) (dirty : Bool) : State :=
  ((s.granEnter line mask ws dirty).granTouch line).granTrim line

/-! ### Reads of DRAM and the line code (R294, R299, R301, R304, R308) -/

/-- R301, R307, R308: the line is lost: POIS in every word, DEFERRED, and a line entry. -/
def State.poisonLine (s : State) (line src : Nat) (w : Who) (e : BurstErr) : State :=
  let s := s.dramWrite line poisLine
  let s := match s.mem.gran.find line with
    | some _ => s.granPut line 0xFF#8 poisLine false
    | none => s
  (((s.mirrorWords line 0xFF#8 poisLine).claimPages line w.master).memFault src line w e).remapLine line w

/-- R299, R313: a burst of class UE (bit 0) or ADDR (bit 1) is counted. -/
def State.burstLost (s : State) (line bit : Nat) : State :=
  let c := s.channelOf (64 * line)
  (s.countSat (Reg.memEcc c) 40 8).memEccBit c bit

/-- What a burst that home reads turns out to be (R294): its words, or its source, after the counts and corrections. -/
inductive BurstOut where
  | words (ws : List Word)
  | lost (src : Nat) (e : BurstErr)
deriving DecidableEq, Repr

/-- The errors in the stored bits of a line's burst. -/
def Mem.burstErr (m : Mem) (line : Nat) : BurstErr := SMap.get [] m.dramErr (m.place line)

/-- R294: a burst without an error, but for one that its code does not see. -/
def State.burstClean (s : State) (line : Nat) (e : BurstErr) : State :=
  let s := if e = [] then s else { s with mem := s.mem.setBurst line (flipLine (s.mem.dramLine line) e) [] }
  if s.mem.scrubbed = [] then s else s.unscrub line

/-- R294, R299, R304: a burst of class CE: its words corrected; hard where a scrub had corrected it before. -/
def State.burstCorrect (s : State) (line : Nat) (w : Who) (e f : BurstErr) : State :=
  let s := { s with mem := s.mem.setBurst line (flipLine (flipLine (s.mem.dramLine line) e) f) f }
  let s := (s.countSat (Reg.memEcc (s.channelOf (64 * line))) 48 16).memFault 0x20 line w e
  if s.mem.scrubbed.contains line then s.remapLine line w else s

/-- R294, R304: home reads and decodes the burst of a line. -/
def State.burstDecode (s : State) (line : Nat) (w : Who) : State × BurstOut :=
  let s := s.tal 5 (s.channelOf (64 * line))
  let e := s.mem.burstErr line
  match rsDecode e with
  | .clean =>
    let s := s.burstClean line e
    (s, .words (s.mem.dramLine line))
  | .ce f =>
    let s := s.burstCorrect line w e f
    (s, .words (s.mem.dramLine line))
  | .addr => (s.burstLost line 1, .lost 0x22 e)
  | .ue => (s.burstLost line 0, .lost 0x21 e)

/-- R309: a mend of the line begins. -/
def State.openMend (s : State) (line src : Nat) (w : Who) (e : BurstErr) : State :=
  let m : MendErr := { src := src, master := w.master, acc := w.acc, err := e }
  ({ s with mem := { s.mem with mends := s.mem.mends ++ [(line, m)] } }).sendFrame
    (.mendq (BitVec.ofNat 46 line))

/-- R294, R307, R308: a demand read of a DRAM line: its words, or nothing while its mend is open (R309). -/
def State.burstRead (s : State) (line : Nat) (w : Who) : State × Option (List Word) :=
  match s.burstDecode line w with
  | (s, .words ws) => (s, some ws)
  | (s, .lost src e) =>
    if s.canMend line then (s.openMend line src w e, none) else (s.poisonLine line src w e, some poisLine)

/-- R301, R308: what the read of a read-modify-write leaves in the line: its words corrected, or POIS. -/
def State.burstModify (s : State) (line : Nat) (w : Who) : State :=
  match s.burstDecode line w with
  | (s, .words _) => s
  | (s, .lost src e) => s.poisonLine line src w e

/-! ### Merge buffers (R300) -/

/-- R29, R300: the word after the merge. -/
def mergeBytes (old : Word) (bytes : List Byte) (mask : BitVec 8) : Word :=
  let v := (List.range 8).foldl (fun (v : BitVec 64) i =>
    if mask.getLsbD i then putBits v (8 * i) 8 (bytes.getD i 0).toNat else v) old.val
  ⟨Tag.raw, v⟩

/-- R29, R300, R312: bytes laid over a word: a POIS word stays POIS. -/
def overlay (old : Word) (bytes : List Byte) (mask : BitVec 8) : Word :=
  if old.poisoned then old else mergeBytes old bytes mask

/-! ### After a write at home -/

/-- Home applies whole words to a line of DRAM: what stays of an absent line is read first (R301), the Granary's copy
becomes dirty, reservations of others end, and a mirrored line's change goes to the partner. No page is logged here. `acc` is the access
type of the write (R477). -/
def State.applied (s : State) (line : Nat) (mask : BitVec 8) (ws : List Word) (m : Nat) (acc : Nat := writeAcc m) : State :=
  let who : Who := { master := m, acc := acc, parish := none }
  let s := if mask = 0xFF#8 ∨ (s.mem.gran.find line).isSome then s else s.burstModify line who
  let old := s.mem.peekLine line
  let s := s.granPut line mask (maskWords mask ws old) true
  (s.loseHome line m).mirrorWords line mask ws

/-! ### Snoops at home (R267, R268) -/

/-- R252: LCK_STAT.LOST. -/
def State.lockLost (s : State) (p : Nat) : State := s.countMod (Reg.lckStat p) 48 16

/-- A line leaves an L1. -/
def L1.drop (c : L1) (line : Nat) : L1 := { c with lines := c.lines.del line }

/-- R229, R239: a line leaves an L2 and with it both L1 caches; a locked entry stays locked and its emptying is
counted. -/
def State.l2Drop (s : State) (p line : Nat) : State :=
  let c := s.physCore p
  match c.l2.find line with
  | none => s
  | some l =>
    let s := s.setPhys p { c with l2 := c.l2.del line, l1i := c.l1i.drop line, l1d := c.l1d.drop line,
                                  dirty := c.dirty.filter (· ≠ line) }
    let s := if s.mem.sramErr = [] then s
      else { s with mem := (List.range 8).foldl (fun m i => m.setCell (l2Cell p line i) 0) s.mem }
    if 12 ≤ l.way.val ∧ 4 * l2Set (64 * line) + (l.way.val - 12) ∈ c.locks then s.lockLost p else s

def State.l2Put (s : State) (p line : Nat) (l : L2Line) : State :=
  let c := s.physCore p
  let dirty := if l.st = .m then (if line ∈ c.dirty then c.dirty else c.dirty ++ [line])
    else c.dirty.filter (· ≠ line)
  s.setPhys p { c with l2 := c.l2.ins line l, dirty := dirty }

/-- R287: the reservation the core on `p` holds in its L1 on the granule of `line` ends. -/
def State.loseL1 (s : State) (p line : Nat) : State :=
  match s.logicalOf p with
  | none => s
  | some n =>
    let c := s.core n
    match c.resv with
    | some r => if !r.home && r.line / 2 == line / 2 then s.setCore n { c with resv := none } else s
    | none => s

/-- R289: the core on `p` delays its answer to a snoop of a line of its reserved granule that it holds. -/
def State.heldOff (s : State) (p line : Nat) : Bool :=
  match s.logicalOf p with
  | none => false
  | some n =>
    match (s.core n).resv with
    | some r => r.hold && !r.home && r.line / 2 == line / 2 && ((s.physCore p).l2.find line).isSome
    | none => false

/-- R297, R230: word `w` of an L2 line is read through its code: the state, and whether it is uncorrectable. -/
def State.l2Decode (s : State) (p line w acc : Nat) : State × Bool :=
  let err := s.mem.cellErr (l2Cell p line w)
  match (s.physCore p).l2.find line with
  | none => (s, false)
  | some l =>
    let put (s : State) (x : Word) (e : SramErr) : State :=
      let s := s.l2Put p line { l with data := l.data.mapIdx (fun i y => if i = w then x else y) }
      { s with mem := s.mem.setCell (l2Cell p line w) e }
    let x := flipWord (l.data.getD w Word.raw0) err
    match hsiaoDecode err with
    | .clean => (if err = 0 then s else put s x 0, false)
    | .ce b =>
      ((put s (flipWord x (bitErr b)) (bitErr b)).sramFault 0x10 (64 * line + 8 * w)
        { master := masterId 0 p, acc := acc, parish := none } err, false)
    | .ue => (s, true)

/-- R297: the error of the first word of an L2 line that cannot be read; none where every word can. -/
def Mem.l2Bad (m : Mem) (p line : Nat) : SramErr :=
  if m.sramErr = [] then 0
  else
    (((List.range 8).map (fun i => m.cellErr (l2Cell p line i))).find? (fun e => hsiaoDecode e == .ue)).getD 0

/-- R230, R250: the words of a dirty L2 line as it leaves for home: POIS in every word where one cannot be read. -/
def State.l2Out (s : State) (p line : Nat) : State × List Word :=
  let data (s : State) : List Word := (((s.physCore p).l2.find line).map (·.data)).getD poisLine
  if s.mem.sramErr = [] then (s, data s)
  else
    let r := (List.range 8).foldl (fun (r : State × Bool) i =>
      let d := r.1.l2Decode p line i 0xD
      (d.1, r.2 || d.2)) (s, false)
    if r.2 then
      let s := r.1.sramFault 0x11 (64 * line) { master := masterId 0 p, acc := 0xD, parish := none } (s.mem.l2Bad p line)
      ({ s with mem := (List.range 8).foldl (fun m i => m.setCell (l2Cell p line i) 0) s.mem }, poisLine)
    else (r.1, data r.1)

/-- R266, R268: core `p` answers a snoop of `line` from its L2: the dirty words it gives back, if any. -/
def State.snooped (s : State) (p line : Nat) (inval : Bool) : State × Option (List Word) :=
  match (s.physCore p).l2.find line with
  | none => (if inval then s.loseL1 p line else s, none)
  | some l =>
    let (s, out) := if l.st = .m then
        (let r := s.l2Out p line
         (r.1, some r.2))
      else (s, none)
    if inval then ((s.l2Drop p line).loseL1 p line, out)
    else (s.l2Put p line { l with st := .s, data := (out.getD l.data) }, out)

def State.sfEntry (s : State) (line : Nat) : SfEntry := (s.coh.sf.find line).getD ⟨0, false, 0⟩

/-- R261: an entry whose vector becomes empty is freed. -/
def State.setSf (s : State) (line : Nat) (e : SfEntry) : State :=
  { s with coh := { s.coh with sf := if e.pres = 0 then s.coh.sf.del line else s.coh.sf.ins line e } }

/-- R261: the presence bit of core `p` is cleared. -/
def State.sfClear (s : State) (line p : Nat) : State :=
  let e := s.sfEntry line
  s.setSf line { e with pres := e.pres &&& ~~~(BitVec.ofNat 48 (2 ^ p)), excl := false }

/-- R261: the holders of a line other than `but`. -/
def State.holders (s : State) (line : Nat) (but : Option Nat) : List Nat :=
  (List.range 48).filter (fun p => (s.sfEntry line).pres.getLsbD p && but != some p)

/-- R267: snoops each of `ps` in turn; dirty words go home through `put`. -/
def State.snoopAll (put : State → Nat → List Word → State) (line : Nat) (inval : Bool) :
    List Nat → State → State
  | [], s => s
  | p :: ps, s =>
    let (s, out) := s.snooped p line inval
    let s := match out with
      | some ws => put s line ws
      | none => s
    let held := ((s.physCore p).l2.find line).isSome
    let s := if held then s.setSf line { s.sfEntry line with excl := false } else s.sfClear line p
    State.snoopAll put line inval ps s

/-- R259: the line has an open transaction, as its own line or as a victim. -/
def State.lineBusy (s : State) (line : Nat) : Bool :=
  (s.coh.txns.find line).isSome || s.coh.txns.any (fun t => t.2.victim == some line)

/-- R291: another core's reservation at home holds writes to the line by master `m` back. -/
def State.writeBarred (s : State) (line m : Nat) : Bool :=
  s.cores.any (fun e =>
    match e.2.resv with
    | some v => v.hold && v.home && v.line == line && masterId 0 (s.physOf e.1) != m
    | none => false)

/-- R259, R289, R291: home can write the line for master `m` now: nothing is open on it or waits for it, and no reservation
holds the write or a snoop back. -/
def State.lineFree (s : State) (line m : Nat) : Bool :=
  isCommons (64 * line) && !s.writeBarred line m ||
    !s.lineBusy line && !s.mirrorFull line && !s.coh.retryQ.any (fun r => r.line == line) && !s.mem.mends.any (fun x => x.1 == line) &&
      !s.writeBarred line m && !(s.holders line none).any (fun p => s.heldOff p line)

/-! ### Commons words (R297-R302, R319, R328) -/

/-- R304, R320, R329: a hard Commons word takes a word entry of its bank group; the Commons copies its data to the spare
cell. -/
def State.remapCmn (s : State) (k : Nat) (who : Who) : State :=
  let cn := (8 * k - commonsBase) / 0x800000
  let g := k % 64 / 8
  let used := s.fld (Reg.cmnRmp cn) (5 * g) 5
  let who : Who := { who with master := masterId 7 cn }
  if (s.mem.remapC.find k).isSome then s
  else if used < 16 then
    let x := s.mem.cmnWord k
    let s := { s with mem := ({ s.mem with remapC := s.mem.remapC.ins k (spareCell (64 + 8 * cn + g) used) }).setCmn k x }
    (s.setFld (Reg.cmnRmp cn) (5 * g) 5 (used + 1)).sramFault 0x24 (8 * k) who 0
  else (s.setEv (Reg.cmnRmp cn) (40 + g) (124 + cn)).sramFault 0x25 (8 * k) who 0

/-- R297, R298, R302, R304: a Commons reads a word: no check on one never written. -/
def State.cmnRead (s : State) (k : Nat) (who : Who) : State × Word :=
  let cn := (8 * k - commonsBase) / 0x800000
  if !inCommons k || (s.mem.cmnValid.find k).isNone then (s, Word.raw0)
  else
    let cell := s.mem.cmnCell k
    let err := s.mem.cellErr cell
    let x := flipWord (s.mem.cmnWord k) err
    let put (s : State) (x : Word) (e : SramErr) : State := { s with mem := (s.mem.setCmn k x).setCell cell e }
    match hsiaoDecode err with
    | .clean =>
      let s := if err = 0 then s else put s x 0
      (if s.mem.scrubbed = [] then s else s.unscrub k, x)
    | .ce b =>
      let x := flipWord x (bitErr b)
      let s := ((put s x (bitErr b)).countSat (Reg.cmnEcc cn) 48 16).sramFault 0x28 (8 * k) who err
      (if s.mem.scrubbed.contains k then s.remapCmn k who else s, x)
    | .ue =>
      let s := ((put s Word.pois 0).countSat (Reg.cmnEcc cn) 40 8).setEv (Reg.cmnEcc cn) 0 (124 + cn)
      ((((s.loseHome (k / 8) who.master).claimPages (k / 8) who.master).sramFault 0x29 (8 * k) who err).remapCmn k who,
       Word.pois)

/-! ### Page logs: the ring (R441-R443) -/

/-- R443: a word of a page-log ring is written at home, with the snoops of any write but no logging. -/
def State.ringWrite (s : State) (pa : Nat) (w : Word) (m : Nat) : State :=
  let line := pa / 64
  if isCommons pa then
    (if inCommons (pa / 8) then ({ s with mem := s.mem.setCmn (pa / 8) w }).loseHome line m else s)
  else
    let s := s.snoopAll (fun s l ws => s.applied l 0xFF#8 ws m) line true (s.holders line none)
    s.applied line (BitVec.ofNat 8 (2 ^ (pa / 8 % 8))) (List.replicate 8 w) m

/-- R138, R443: the page-log entries that wait are written, in order, each where its line is free. -/
def State.ringFlush (s : State) : State :=
  if s.coh.late = [] then s
  else
    let go (e : LateWrite) : Bool := e.log && !e.card && s.lineFree (e.pa / 64) e.m
    let es := s.coh.late.filter go
    es.foldl (fun s e =>
      let s := s.ringWrite e.pa e.w e.m
      match e.slot with
      | none => s
      | some n => s.pageDone e.parish n) { s with coh := { s.coh with late := s.coh.late.filter (fun e => !go e) } }

/-- R441: every logging parish that maps the line logs the write's page. -/
def State.logPages (s : State) (line m : Nat) : State := (s.claimPages line m).ringFlush

/-- Home applies whole words to a line, and logs the page. -/
def State.homePut (s : State) (line : Nat) (mask : BitVec 8) (ws : List Word) (m : Nat) (acc : Nat := writeAcc m) : State :=
  (s.applied line mask ws m acc).logPages line m

/-- Dirty words from core `p` reach home (R260, R267). -/
def State.wbkPut (p : Nat) (s : State) (line : Nat) (ws : List Word) : State :=
  s.homePut line 0xFF#8 ws (masterId 0 p)

/-- R475: slice bookkeeping with an error in its bits is read: true where it can be used. -/
def State.bookRead (s : State) (f : FaultArg) (err : SramErr) : State × Bool :=
  match hsiaoDecode err with
  | .clean => (s, true)
  | .ce _ => (s.fault { f with src := 0x2B, synd := hsiaoSynd err }, true)
  | .ue => (s.fault { f with src := 0x2A, synd := hsiaoSynd err }, false)

/-- R475: stored bits of the bookkeeping of `line` flip: its snoop-filter entry, its transaction's record or a waiting
request. -/
def State.bookFlip (s : State) (line : Nat) (err : SramErr) : State :=
  { s with coh := { s.coh with bookErr := SMap.set 0 s.coh.bookErr line (SMap.get 0 s.coh.bookErr line ^^^ err) } }

/-- R475: the bookkeeping of `line` is read for master `m`: an error that one bit explains is written back corrected, any other
stands. True where what was read can be used. -/
def State.bookMeet (s : State) (line m acc : Nat) : State × Bool :=
  match s.coh.bookErr.find line with
  | none => (s, true)
  | some err =>
    let (t, ok) := s.bookRead { src := 0x2B, acc := acc, master := m, parish := s.ownerOf (64 * line),
                                pa := some (64 * line), synd := 0 } err
    (if ok then { t with coh := { t.coh with bookErr := t.coh.bookErr.del line } } else t, ok)

/-- R475: the bookkeeping of `line` is read by a transaction that is under way. -/
def State.bookLook (s : State) (line m acc : Nat) : State := (s.bookMeet line m acc).1

/-- R267, R289: snoops the holders of a line, invalidating or downgrading; it waits for one that delays its answer. -/
def State.snoopHolders (s : State) (line : Nat) (inval : Bool) (but : Option Nat) : State :=
  let ps := if inval then s.holders line but
    else if (s.sfEntry line).excl then s.holders line but else []
  ps.foldl (fun s p => s.snoopAll (State.wbkPut p) line inval [p]) (s.waitIf (ps.any (fun p => s.heldOff p line)))

/-- R267: the snoops of an access at home by master `m`, none to a core that makes it; its own copy goes home, or is dropped,
without one. -/
def State.homeSnoop (s : State) (line : Nat) (inval : Bool) (m : Nat) : State :=
  let me := if m / 0x100 = 0 then some m else none
  let s := (s.bookLook line m (writeAcc m)).snoopHolders line inval me
  match me with
  | some p => if (s.sfEntry line).pres.getLsbD p then s.snoopAll (State.wbkPut p) line inval [p] else s
  | none => s

/-! ### Reads and writes at home by word -/

/-- R45: a reserved tag that home reads for a master is recorded. -/
def State.noteTag (s : State) (w : Nat) (m : Nat) (x : Word) : State :=
  if x.poisoned && x.tag != Tag.pois then
    s.fault { src := 0x13, acc := writeAcc m, master := m, parish := s.ownerOf (8 * w), pa := some (8 * w), synd := 0 }
  else s

/-- R299, R312: a write of part of a word by master `m` at home is lost in a POIS word; every master's is recorded
(log 76). -/
def State.partLost (s : State) (w m : Nat) : State :=
  s.fault { src := 0x14, acc := writeAcc m, master := m, pa := some (8 * w), synd := 0
            parish := if m / 0x100 = 0 then (s.logicalOf m).map s.parishOf else s.ownerOf (8 * w) }

/-- R45, R312: bytes that meet a POIS word when they drain are lost. -/
def State.drainLost (s : State) (w m : Nat) (old : Word) : State := (s.noteTag w m old).partLost w m

/-- R300, R320: the merge entry of a word, if there is one, is drained: home reads and checks the word, and writes it as
RAW; a Commons makes its own drains, as master kind 7. -/
def State.drainMerge (s : State) (w : Nat) : State :=
  match s.mem.merge.find? (fun e => e.word == w) with
  | none => s
  | some e =>
    let s := { s with mem := { s.mem with merge := s.mem.merge.filter (fun f => f.word ≠ w) } }
    let who : Who := { master := e.master, acc := writeAcc e.master, parish := none }
    if isCommons (8 * w) then
      let me := masterId 7 ((8 * w - commonsBase) / 0x800000)
      let (s, old) := s.cmnRead w { who with master := me }
      let new := overlay old e.bytes e.mask
      if old.poisoned then s.drainLost w e.master old
      else ({ s with mem := s.mem.setCmn w new }).logPages (w / 8) me
    else
      let s := s.granCheck (w / 8) (BitVec.ofNat 8 (2 ^ (w % 8))) who
      let s := if (s.mem.gran.find (w / 8)).isSome then s else s.burstModify (w / 8) who
      let old := s.mem.peekWord w
      if old.poisoned then s.drainLost w e.master old
      else s.homePut (w / 8) (BitVec.ofNat 8 (2 ^ (w % 8))) (List.replicate 8 (mergeBytes old e.bytes e.mask)) e.master

/-- Drains the merge entries of a line. -/
def State.drainLine (s : State) (line : Nat) : State :=
  ((s.mem.merge.filter (fun e => e.word / 8 == line)).map (·.word)).foldl State.drainMerge s

/-- R255, R267, R298: the words home supplies for a line: the Granary's, or DRAM's, which then enter the Granary. -/
def State.homeLine (s : State) (line : Nat) (w : Who) : State × Option (List Word) :=
  let s := (s.drainLine line).granCheck line 0xFF#8 w
  match s.mem.gran.find line with
  | some g => ((s.granTouch line).tal 2 (sliceOf (64 * line)), some g.data)
  | none =>
    let s := s.tal 3 (sliceOf (64 * line))
    match s.burstRead line w with
    | (s, some ws) => (s.granPut line 0xFF#8 ws false, some ws)
    | (s, none) => (s, none)

/-- A whole access reads a line at home; where the read opens a mend, the access waits for it (R309). -/
def State.homeWords (s : State) (line : Nat) (w : Who) : State × List Word :=
  match s.homeLine line w with
  | (s, some ws) => (s, ws)
  | (s, none) => (s.wait (.mend line w.master w.acc), poisLine)

/-- RDH of a word by a master that keeps no copy (R267), or a Commons read (R320). -/
def State.homeRead (s : State) (w : Nat) (who : Who) : State × Word :=
  if isCommons (8 * w) then (s.drainMerge w).cmnRead w who
  else
    let s := s.homeSnoop (w / 8) false who.master
    let (s, ws) := s.homeWords (w / 8) who
    (s, ws.getD (w % 8) Word.raw0)

/-- R291: a write to a line waits while another core's hold runs. -/
def State.writeGuard (s : State) (line m : Nat) : State := s.waitIf (s.writeBarred line m)

/-- WRH of whole words (R267): holders are invalidated, then the words are written. -/
def State.homeWrite (s : State) (line : Nat) (mask : BitVec 8) (ws : List Word) (m : Nat) (acc : Nat := writeAcc m) : State :=
  let s := s.writeGuard line m
  if isCommons (64 * line) then
    if !inCommons (8 * line) then s
    else
      let s := (List.range 8).foldl (fun s i =>
        if mask.getLsbD i then
          let s := s.drainMerge (8 * line + i)
          ({ s with mem := s.mem.setCmn (8 * line + i) (ws.getD i Word.raw0) }).loseHome line m
        else s) s
      s.logPages line m
  else
    let s := s.drainLine line
    let s := s.homeSnoop line true m
    s.homePut line mask ws m acc

/-- A whole word written at home. -/
def State.homeWriteWord (s : State) (w : Nat) (v : Word) (m : Nat) (acc : Nat := writeAcc m) : State :=
  s.homeWrite (w / 8) (BitVec.ofNat 8 (2 ^ (w % 8))) (List.replicate 8 v) m acc

/-- R300: home or the Commons that holds the merge buffer of a word. -/
def mergeHome (w : Nat) : Nat :=
  if isCommons (8 * w) then 64 + (8 * w - commonsBase) / 0x800000 % 4 else sliceOf (8 * w)

/-- R300, R312: a write of part of a word at home: into the merge buffer; into a POIS word it is lost, and the
answer is true. -/
def State.narrowWrite (s : State) (w : Nat) (bytes : List Byte) (mask : BitVec 8) (m : Nat) : State × Bool :=
  let s := s.writeGuard (w / 8) m
  let s := if isCommons (8 * w) then s else s.homeSnoop (w / 8) true m
  if isCommons (8 * w) && !inCommons w then (s, false)
  else
    if (s.mem.peekWord w).poisoned then (s.noteTag w m (s.mem.peekWord w), true)
    else
      let s := s.loseHome (w / 8) m
      let merged : MergeEntry :=
        match s.mem.merge.find? (fun e => e.word == w) with
        | some e =>
          { word := w, master := m, mask := e.mask ||| mask,
            bytes := (List.range 8).map (fun i => if mask.getLsbD i then bytes.getD i 0 else e.bytes.getD i 0) }
        | none => { word := w, master := m, mask := mask, bytes := bytes }
      let held := s.mem.merge.any (fun e => e.word == w)
      let mates := s.mem.merge.filter (fun e => mergeHome e.word == mergeHome w)
      let s := if !held ∧ 32 ≤ mates.length then
          match mates.head? with
          | some e => s.drainMerge e.word
          | none => s
        else s
      let s := { s with mem := { s.mem with
        merge := if held then s.mem.merge.map (fun e => if e.word = w then merged else e) else s.mem.merge ++ [merged] } }
      (if merged.mask = 0xFF#8 then s.drainMerge w else s, false)

end Sys2Proof.Machine
end

