-- ==== Sys2Proof/Machine/Coherence.lean ====
section
/-! DEFINITION. Coherence between home and the core caches (R254-R273): the snoop filters, the transactions and messages
of R265 one at a time, filling and replacing L2 and L1 lines. -/

namespace Sys2Proof.Machine

/-! ### Snoop filter (R261, R262, R271) -/

def sameSfSet (l m : Nat) : Bool := sliceOf (64 * l) == sliceOf (64 * m) && sfSet (64 * l) == sfSet (64 * m)

/-- The key of a line's snoop-filter set. -/
def sfKey (line : Nat) : Nat := 2048 * sliceOf (64 * line) + sfSet (64 * line)

/-- The request's line may come to need a new entry (R271). -/
def ReqKind.allocates (k : ReqKind) : Bool :=
  match k with
  | .rds => true
  | .rdo => true
  | .upg => true
  | _ => false

/-- R262: the request needs a snoop-filter way. -/
def State.needsWay (s : State) (r : Req) : Bool := r.kind.allocates || (s.coh.sf.find r.line).isSome

/-- R262: the ways of the set of `line` that open transactions hold. -/
def State.sfHeldWays (s : State) (line : Nat) : List Nat :=
  s.coh.txns.filterMap (fun t => if sameSfSet t.1 line then t.2.way else none)

def State.sfHeld (s : State) (line : Nat) : Nat := (s.sfHeldWays line).length

/-- R262: one more way of the set may be held. -/
def State.sfCap (s : State) (line : Nat) : Bool := decide (s.sfHeld line < 12)

/-- R262, R271: the way a line takes in its snoop-filter set: its own, a free one, or that of a victim among the ways
that no transaction holds; with the victim's line. -/
def State.sfPick (s : State) (line : Nat) : Option (Nat × Option Nat) :=
  match s.coh.sf.find line with
  | some e => some (e.way, none)
  | none =>
    let mates := s.coh.sf.filter (fun e => sameSfSet e.1 line)
    let held := s.sfHeldWays line
    (plruWay (SMap.get 0 s.coh.sfPlru (sfKey line)) 4 (fun w => !held.contains w)
      (fun w => !mates.any (fun e => e.2.way == w))).map
      (fun w => (w, (mates.find? (fun e => e.2.way == w)).map (·.1)))

/-- The way a new entry of `line` takes: that of its transaction, or the one picked. -/
def State.sfWay (s : State) (line : Nat) : Nat :=
  match s.coh.sf.find line, (s.coh.txns.find line).bind (·.way) with
  | some e, _ => e.way
  | none, some w => w
  | none, none => ((s.sfPick line).map (·.1)).getD 0

/-- R262: an access to a snoop-filter entry moves the tree bits of its set. -/
def State.sfTouch (s : State) (line way : Nat) : State :=
  { s with coh := { s.coh with
      sfPlru := SMap.set 0 s.coh.sfPlru (sfKey line) (plruTouch (SMap.get 0 s.coh.sfPlru (sfKey line)) 4 way) } }

/-- Core `p` is recorded as a holder. -/
def State.sfAdd (s : State) (line p : Nat) (excl : Bool) : State :=
  let w := s.sfWay line
  (s.setSf line { pres := (s.sfEntry line).pres ||| BitVec.ofNat 48 (2 ^ p), excl := excl, way := w }).sfTouch line w

/-- R267: core `p` becomes the only holder. -/
def State.sfOnly (s : State) (line p : Nat) : State :=
  let w := s.sfWay line
  (s.setSf line { pres := BitVec.ofNat 48 (2 ^ p), excl := true, way := w }).sfTouch line w

def State.sfHas (s : State) (line p : Nat) : Bool := (s.sfEntry line).pres.getLsbD p

/-! ### Atomics at home (R83, R280, R290) -/

/-- What an ATM does to the word it finds: the word home then holds, and whether it writes; poison is consumed, and
nothing written (R311). -/
def atmNew (op : AtmOp) (old a x : Word) : Word × Bool :=
  match op with
  | .xadd => if old.isFix && a.isFix then (Word.fix (old.val + a.val), true) else (old, false)
  | .xchg => if old.poisoned then (old, false) else (a, true)
  | .cas => if old.isFix ∧ old.val = x.val then (a, true) else (old, false)
  | .ldr => (old, false)
  | .stc => (a, true)

/-- The operation takes the word it finds. -/
def atmReads (op : AtmOp) : Bool := op != .stc

/-! ### Messages one at a time (R259-R271) -/

/-- The transaction key of a message that belongs to none: the ACK of a WBK (R260), the answer to an access at home. -/
def noTxn : Nat := 2 ^ 46

def State.send (s : State) (k : MsgKind) (p line txn : Nat) : State :=
  { s with coh := { s.coh with msgs := s.coh.msgs ++ [⟨k, p, line, txn⟩] } }

/-- Takes the first message in flight that fits. -/
def takeMsg (f : Msg → Bool) : List Msg → Option (Msg × List Msg)
  | [] => none
  | m :: ms => if f m then some (m, ms) else (takeMsg f ms).map (fun r => (r.1, m :: r.2))

def State.setTxn (s : State) (key : Nat) (t : Txn) : State :=
  { s with coh := { s.coh with txns := s.coh.txns.ins key t } }

/-- R267: home takes a WBK: the line is written, and the sender's bit cleared, or kept, with E where no other core holds the
line by then. -/
def State.wbkApply (s : State) (w : WbkHeld) : State :=
  let s := State.wbkPut w.p s w.line w.words
  if w.keep then s.setSf w.line { s.sfEntry w.line with excl := (s.holders w.line (some w.p)).isEmpty } else s.sfClear w.line w.p

/-- R138, R443, R458: a word that waited is written; for an entry of a log HEAD follows, unless the log has moved. -/
def State.lateApply (s : State) (e : LateWrite) : State :=
  if !e.log then s.homePut (e.pa / 64) (BitVec.ofNat 8 (2 ^ (e.pa / 8 % 8))) (List.replicate 8 e.w) e.m
  else
  let s := if e.card then s.homeWriteWord (e.pa / 8) e.w e.m else s.ringWrite e.pa e.w e.m
  match e.slot with
  | none => s
  | some n => if e.card then s.cardDone e.parish n else s.pageDone e.parish n

/-- R138, R443: the log entries that wait are written, in order, each where its line is free. -/
def State.sinkLate (s : State) (line : Nat) : State :=
  let es := s.coh.late.filter (fun e => e.pa / 64 == line && s.lineFree line e.m)
  let s := { s with coh := { s.coh with late := s.coh.late.filter (fun e => !(e.pa / 64 == line && s.lineFree line e.m)) } }
  es.foldl State.lateApply s

/-- R138, R443: every log entry whose line has become free is written. -/
def State.sinkLogs (s : State) : State := (s.coh.late.map (fun e => e.pa / 64)).foldl State.sinkLate s

/-- R259, R260: the line is free: what was sunk behind its transaction takes place, in order. -/
def State.sinkLine (s : State) (line : Nat) : State :=
  if s.lineBusy line then s
  else
    let ws := s.coh.wbks.filter (fun w => w.line == line)
    let s := { s with coh := { s.coh with wbks := s.coh.wbks.filter (fun w => w.line != line) } }
    (ws.foldl State.wbkApply s).sinkLate line

def State.closeTxn (s : State) (key : Nat) : State :=
  ({ s with coh := { s.coh with txns := s.coh.txns.del key } }).sinkLine key

/-- The physical core that made a request, where a core did. -/
def Req.coreOf (r : Req) : Option Nat := if r.master.toNat / 0x100 = 0 then some r.master.toNat else none

/-- R267: a snoop for this request leaves its holder a copy in S. -/
def ReqKind.shares (k : ReqKind) : Bool :=
  match k with
  | .rds => true
  | .rdh _ => true
  | _ => false

/-- R267, R271: the transaction's snoops now out invalidate. -/
def Txn.inval (t : Txn) : Bool := t.victim.isSome || !t.req.kind.shares

/-- R267: the snoops a request needs. -/
def Req.snoops (r : Req) (s : State) : List (MsgKind × Nat) :=
  let hs := s.holders r.line r.coreOf
  let sh := if (s.sfEntry r.line).excl then hs.map (fun p => (MsgKind.snpS, p)) else []
  let inv := hs.map (fun p => (MsgKind.snpI, p))
  match r.kind with
  | .rds => sh
  | .rdh _ => sh
  | .pfg => []
  | .wbk _ _ => []
  | _ => inv

/-- R521: the number of a message in the Messages table of R265. -/
def ReqKind.code : ReqKind → Nat
  | .rds => 0
  | .rdo => 1
  | .upg => 2
  | .rdh _ => 3
  | .atm _ _ _ _ => 4
  | .pfg => 5
  | .wrt _ => 6
  | .wrh _ => 7
  | .wrhDma _ _ => 7
  | .wbk _ _ => 8

/-- R477: the access type of a request, for captures and trace. -/
def ReqKind.acc (k : ReqKind) (core : Bool) : Nat :=
  match k with
  | .rds => 1
  | .rdo => 2
  | .upg => 2
  | .rdh _ => if core then 1 else 8
  | .atm .ldr _ _ _ => 4
  | .atm .stc _ _ _ => 4
  | .atm _ _ _ _ => 3
  | .pfg => 0xE
  | .wrt _ => 2
  | .wrh _ => 2
  | .wrhDma _ _ => 9
  | .wbk _ _ => 0xD

/-- R521: the FABRIC packet of one admission in 2^(FSHIFT + 4) at FSLICE. -/
def State.fabricTrace (s : State) (r : Req) : State :=
  if s.flag Reg.trcCtl 13 && sliceOf (64 * r.line) == s.fld Reg.trcCtl 18 6 then
    let k := s.trace.fabCount + 1
    let s := { s with trace := { s.trace with fabCount := k % 2 ^ (s.fld Reg.trcCtl 14 4 + 4) } }
    if k % 2 ^ (s.fld Reg.trcCtl 14 4 + 4) = 0 then
      s.emit 5 (sliceOf (64 * r.line))
        [BitVec.ofNat 64 (r.master.toNat * 2 ^ 52 + r.kind.acc (r.coreOf.isSome) * 2 ^ 48 + r.line % 2 ^ 46),
         BitVec.ofNat 64 r.kind.code]
    else s
  else s

/-- R291: the core on `p` holds its reservation at home on the line. -/
def State.homeResv (s : State) (p line : Nat) : Bool :=
  match s.logicalOf p with
  | none => false
  | some n =>
    match (s.core n).resv with
    | some r => r.home && r.line == line
    | none => false

/-- R291: an LDR or STC performed at home sets or ends the core's reservation. -/
def State.homeResvAfter (s : State) (p line : Nat) (op : AtmOp) : State :=
  match s.logicalOf p with
  | none => s
  | some n =>
    match op with
    | .ldr => s.setCore n { s.core n with resv := some { line := line, home := true, hold := true } }
    | .stc => s.setCore n { s.core n with resv := none }
    | _ => s

/-- R29, R312: what a store leaves in a word: a byte does not change a POIS word. -/
def StoreData.apply (d : StoreData) (old : Word) : Word :=
  match d with
  | .word v => v
  | .byte i b => overlay old (List.replicate 8 b) (BitVec.ofNat 8 (2 ^ i.val))

/-- R312: a byte of core `p` lost in a POIS word at home. -/
def State.byteLost (s : State) (p w : Nat) : State := s.partLost w (masterId 0 p)

/-- R31, R277, R312: a WRT is applied at home: the word as it then stands, with the store laid over it. -/
def State.applyWrt (s : State) (p : Nat) (e : StoreEntry) : State :=
  let line := e.word / 8
  let s := s.drainLine line
  let who : Who := { master := masterId 0 p, acc := 2, parish := none }
  let s := (s.granCheck line (BitVec.ofNat 8 (2 ^ (e.word % 8))) who)
  let s := match e.data with
    | .word _ => s
    | .byte _ _ => if (s.mem.gran.find line).isSome then s else s.burstModify line who
  let old := s.mem.peekWord e.word
  match e.data with
  | .word v => s.homePut line (BitVec.ofNat 8 (2 ^ (e.word % 8))) (List.replicate 8 v) (masterId 0 p)
  | .byte _ _ =>
    if old.poisoned then (s.noteTag e.word (masterId 0 p) old).byteLost p e.word
    else s.homePut line (BitVec.ofNat 8 (2 ^ (e.word % 8))) (List.replicate 8 (e.data.apply old)) (masterId 0 p)

/-- R277, R312: a WRH of a core's store is applied at home. -/
def State.applyWrh (s : State) (p : Nat) (e : StoreEntry) : State :=
  let m := masterId 0 p
  match e.data with
  | .word v => s.homeWriteWord e.word v m
  | .byte i b =>
    let (s, lost) := s.narrowWrite e.word (List.replicate 8 b) (BitVec.ofNat 8 (2 ^ i.val)) m
    if lost then s.byteLost p e.word else s

/-- R39, R300, R301: the bytes of a DMA master's WRH are written: whole words together, a part of a word each. -/
def State.dmaLine (s : State) (line : Nat) (mask : BitVec 64) (bytes : List Byte) (m : Nat) : State :=
  let part (i : Nat) : BitVec 8 := mask.extractLsb' (8 * i) 8
  let bs (i : Nat) : List Byte := (List.range 8).map (fun k => bytes.getD (8 * i + k) 0)
  let full : BitVec 8 := BitVec.ofNat 8 ((List.range 8).foldl (fun v i => if part i = 0xFF#8 then v + 2 ^ i else v) 0)
  let s := if full = 0#8 then s
    else (s.drainLine line).homePut line full ((List.range 8).map (fun i => mergeBytes Word.raw0 (bs i) 0xFF#8)) m
  (List.range 8).foldl (fun s i =>
    if part i = 0#8 ∨ part i = 0xFF#8 then s
    else
      let (s, lost) := s.narrowWrite (8 * line + i) (bs i) (part i) m
      if lost then s.partLost (8 * line + i) m else s) s

/-- R236: the core on `p` has asked for the line ahead of its accesses. -/
def State.prefetching (s : State) (p line : Nat) : Bool := (s.physCore p).streams.any (fun t => t.ahead.contains line)

/-- R477: the access type of a request: a core's own prefetch has its own. -/
def State.reqAcc (s : State) (r : Req) : Nat :=
  match r.kind, r.coreOf with
  | .rds, some p => if s.prefetching p r.line then 0xE else 1
  | k, c => k.acc c.isSome

/-- R45: the reserved tags among the words of `mask` of a line that a request reads at home are recorded. -/
def State.noteWords (s : State) (line : Nat) (mask : BitVec 8) (ws : List Word) (w : Who) : State :=
  (List.range 8).foldl (fun s i =>
    let x := ws.getD i Word.raw0
    if mask.getLsbD i && x.poisoned && x.tag != Tag.pois then s.sramFault 0x13 (64 * line + 8 * i) w 0 else s) s

/-- R267: what home does once every snoop answer is in. The transaction then waits for its response to reach a
core, or closes. -/
def State.perform (s : State) (key : Nat) (t : Txn) : State :=
  let r := t.req
  let line := r.line
  let who : Who := { master := r.master.toNat, acc := s.reqAcc r, parish := s.ownerOf (64 * line) }
  let reply (s : State) (k : MsgKind) : State := (s.setTxn key { t with answered := true }).send k r.master.toNat line key
  let answer (s : State) (k : MsgKind) : State := (s.send k r.master.toNat line noTxn).closeTxn key
  let p := r.coreOf.getD 0
  match r.kind with
  | .rds =>
    match s.homeLine line who with
    | (s, none) => s
    | (s, some ws) =>
      let excl := (s.holders line (some p)).isEmpty
      reply (s.sfAdd line p excl) (.data (if excl then .e else .s) ws)
  | .rdo =>
    match s.homeLine line who with
    | (s, none) => s
    | (s, some ws) => reply (s.sfOnly line p) (.data (if s.mirroredPa (64 * line) then .e else .m) ws)
  | .upg =>
    if s.sfHas line p then reply (s.sfOnly line p) .gnt
    else
      match s.homeLine line who with
      | (s, none) => s
      | (s, some ws) => reply (s.sfOnly line p) (.data .m ws)
  | .rdh mask =>
    match s.homeLine line who with
    | (s, none) => s
    | (s, some ws) => answer (s.noteWords line mask ws who) (.words mask ws)
  | .pfg =>
    match s.homeLine line who with
    | (s, none) => s
    | (s, some _) => s.closeTxn key
  | .atm op w a x =>
    match s.homeLine line who with
    | (s, none) => s
    | (s, some ws) =>
      let old := ws.getD (w % 8) Word.raw0
      let (new, wr) := atmNew op old a x
      let wr := wr && (op != .stc || s.homeResv p line)
      let s := if atmReads op && old.poisoned then s else s.homeResvAfter p line op
      let s := if wr then s.homePut line (BitVec.ofNat 8 (2 ^ (w % 8))) (List.replicate 8 new) r.master.toNat who.acc else s
      reply s (.ack false (some old))
  | .wrt e =>
    let s := s.applyWrt p e
    if s.sfHas line p then reply (s.sfOnly line p) (.ack true none) else reply s (.ack false none)
  | .wrh e => reply (s.applyWrh p e) (.ack false none)
  | .wrhDma mask bytes =>
    answer (s.dmaLine line mask bytes r.master.toNat) (.ack false none)
  | .wbk ws keep => (s.wbkApply ⟨p, line, ws, keep⟩).closeTxn key

/-- R271: step 4, or R267: moves a transaction whose answers are all in. -/
def State.advance : Nat → State → Nat → State
  | 0, s, _ => s
  | k + 1, s, key =>
    match s.coh.txns.find key with
    | none => s
    | some t =>
      if t.await ≠ [] ∨ t.wbp ≠ [] ∨ t.answered then s
      else
        match t.victim with
        | some v =>
          let s := s.setSf v ⟨0, false, 0⟩
          let sn := t.req.snoops s
          let s := (s.setTxn key { t with victim := none, await := sn.map (·.2), got := [] }).sinkLine v
          let s := sn.foldl (fun s m => s.send m.1 m.2 t.req.line key) s
          State.advance k s key
        | none => s.perform key t

/-- R259, R262, R271: the request is admitted: a transaction opens on its line. -/
def State.admitReq (s : State) (r : Req) : State :=
  let s := s.fabricTrace r
  let pick := if s.needsWay r then s.sfPick r.line else none
  let t : Txn := { req := r, way := pick.map (·.1), await := [], wbp := [], got := [], victim := none, answered := false }
  match pick.bind (·.2) with
  | some v =>
    let hs := s.holders v none
    let s := s.setTxn r.line { t with await := hs, victim := some v }
    let s := hs.foldl (fun s p => s.send .binv p v r.line) s
    State.advance 3 s r.line
  | none =>
    let sn := r.snoops s
    let s := s.setTxn r.line { t with await := sn.map (·.2) }
    let s := sn.foldl (fun s m => s.send m.1 m.2 r.line r.line) s
    State.advance 3 s r.line

/-- The request writes its line at home. -/
def ReqKind.writes (k : ReqKind) : Bool :=
  match k with
  | .wrt _ => true
  | .wrh _ => true
  | .wrhDma _ _ => true
  | .atm op _ _ _ => op != .ldr
  | _ => false

/-- R291: another core's reservation at home holds this write to the line back. -/
def State.homeHeld (s : State) (r : Req) : Bool := r.kind.writes && s.writeBarred r.line r.master.toNat

/-- R259, R262, R291: the request could be admitted now. -/
def State.admissible (s : State) (r : Req) : Bool :=
  !s.lineBusy r.line && !s.homeHeld r && (!s.needsWay r || s.sfCap r.line)

/-- R263, R291: `q`, older, keeps `r` waiting: for the same line or for a way of the same set, unless a hold keeps `q` back.
DESIGN CHOICE (log 82): this holds for a request that arrives while `q` waits, too. -/
def State.waitsFor (s : State) (r q : Req) : Bool :=
  !s.homeHeld q && (q.line == r.line || (sameSfSet q.line r.line && s.needsWay r && s.needsWay q))

/-- R263: the waiting requests of a slice. -/
def State.retryAt (s : State) (slice : Nat) : List Req := s.coh.retryQ.filter (fun r => sliceOf (64 * r.line) == slice)

/-- R263, R273: a request waits in its slice's retry queue. -/
def State.enqueue (s : State) (r : Req) : State :=
  let sl := sliceOf (64 * r.line)
  let s := { s with coh := { s.coh with retryQ := s.coh.retryQ ++ [r] } }
  let now := (s.retryAt sl).length
  let s := s.tal 4 sl
  let s := if s.fld (Reg.grnStat sl) 48 8 < now then s.setFld (Reg.grnStat sl) 48 8 now else s
  let s := if !s.lineBusy r.line && s.needsWay r && !s.sfCap r.line then s.setEv (Reg.grnStat sl) 1 (48 + sl) else s
  if now = 96 then s.setEv (Reg.grnStat sl) 0 (48 + sl) else s

/-- R263: the retry queue of a line's slice is full: it takes no request. -/
def State.queueFull (s : State) (line : Nat) : Bool := decide (96 ≤ (s.retryAt (sliceOf (64 * line))).length)

/-- R259, R262, R263: nothing keeps the request waiting. -/
def State.admitsNow (s : State) (r : Req) : Bool := s.admissible r && !(s.coh.retryQ.any (s.waitsFor r))

/-- A request reaches its slice: admitted, or waiting (R263), or, while the queue is full, still at its sender.
A PFG is dropped instead of waiting. A request whose bookkeeping cannot be read stays at its sender (R475). -/
def State.request (s : State) (r : Req) : State :=
  match s.bookMeet r.line r.master.toNat (r.kind.acc r.coreOf.isSome) with
  | (t, false) => t
  | (s, true) =>
    if s.queueFull r.line then s
    else if s.admitsNow r then s.admitReq r
    else
      match r.kind with
      | .pfg => s
      | _ => s.enqueue r

/-- R262, R273: a request of the slice waits under R262. -/
def State.noteCap (s : State) (sl : Nat) : State :=
  if !s.flag (Reg.grnStat sl) 1 &&
      (s.retryAt sl).any (fun r => !s.lineBusy r.line && !s.homeHeld r && s.needsWay r && !s.sfCap r.line) then
    s.setEv (Reg.grnStat sl) 1 (48 + sl)
  else s

/-- R263: the oldest waiting request of the list that may be admitted. -/
def pickReq (s : State) : List Req → List Req → Option (Req × List Req)
  | _, [] => none
  | older, r :: rs =>
    if s.admissible r && !(older.any (s.waitsFor r)) then some (r, older ++ rs)
    else pickReq s (older ++ [r]) rs

/-- R259: admits the oldest admissible waiting request of a slice. -/
def State.admitNext (s : State) (slice : Nat) : State :=
  match pickReq s [] (s.retryAt slice) with
  | none => s
  | some (r, rest) =>
    let others := s.coh.retryQ.filter (fun q => sliceOf (64 * q.line) != slice)
    ({ s with coh := { s.coh with retryQ := others ++ rest } }).admitReq r

/-! ### Write-backs (R260, R270) -/

/-- R260: a WBK from `p` is unacknowledged at the core: it, or its ACK, is in flight. -/
def State.wbkOut (s : State) (p line : Nat) : Bool :=
  s.coh.msgs.any (fun m => m.p == p && m.line == line &&
    (match m.kind with
     | .wbk _ _ => true
     | .ack _ _ => m.txn == noTxn
     | _ => false))

/-- R260, R270: home takes a WBK. While a transaction has snooped the sender, its data is the snoop's data; behind any
other open transaction it is sunk, and takes the next place. -/
def State.homeWbk (s : State) (w : WbkHeld) : State :=
  match s.coh.txns.find? (fun t => (t.1 == w.line || t.2.victim == some w.line) &&
    (t.2.await.contains w.p || t.2.wbp.contains w.p)) with
  | some (key, t) =>
    let s := State.wbkPut w.p s w.line w.words
    let s := if w.keep && (!t.inval || !t.wbp.contains w.p) then
        (if t.inval then s else s.setSf w.line { s.sfEntry w.line with excl := false })
      else s.sfClear w.line w.p
    let t := if t.wbp.contains w.p then { t with wbp := t.wbp.filter (· ≠ w.p) } else { t with got := t.got ++ [w.p] }
    State.advance 3 (s.setTxn key t) key
  | none =>
    if s.lineBusy w.line then { s with coh := { s.coh with wbks := s.coh.wbks ++ [w] } }
    else
      let r : Req := { kind := .wbk w.words w.keep, master := BitVec.ofNat 12 (masterId 0 w.p), line := w.line }
      (s.fabricTrace r).wbkApply w

/-- R260: a WBK reaches home: sunk and acknowledged at once. -/
def State.deliverWbk (s : State) (p line : Nat) (ws : List Word) (keep : Bool) : State :=
  (s.send (.ack false none) p line noTxn).homeWbk ⟨p, line, ws, keep⟩

/-! ### The L2 and the L1 caches of a core (R227-R232, R238) -/

/-- The lines of `p`'s L2 in the set of `line`. -/
def l2Mates (c : PhysCore) (line : Nat) : List (Nat × L2Line) :=
  c.l2.filter (fun e => l2Set (64 * e.1) == l2Set (64 * line))

/-- R238: way `w` of the set of `line` is locked. -/
def PhysCore.locked (c : PhysCore) (line w : Nat) : Bool :=
  decide (12 ≤ w ∧ 4 * l2Set (64 * line) + (w - 12) ∈ c.locks)

/-- R231, R250: replacement may use way `w` of the set of `line`: it is not locked, and no fill under way holds it. -/
def PhysCore.usable (c : PhysCore) (line w : Nat) : Bool :=
  !c.locked line w && !c.fills.any (fun f => l2Set (64 * f.1) == l2Set (64 * line) && f.2.val == w)

/-- R231: the way a new line takes: none where every usable entry is busy. -/
def PhysCore.wayFor (c : PhysCore) (line : Nat) : Option Nat :=
  plruWay (SMap.get 0 c.l2Plru (l2Set (64 * line))) 4 (c.usable line)
    (fun w => !(l2Mates c line).any (fun e => e.2.way.val == w))

/-- R231: an access to a line of the L2 moves the tree bits of its set. -/
def State.l2Touch (s : State) (p line : Nat) : State :=
  let c := s.physCore p
  match c.l2.find line with
  | none => s
  | some l =>
    let k := l2Set (64 * line)
    s.setPhys p { c with l2Plru := SMap.set 0 c.l2Plru k (plruTouch (SMap.get 0 c.l2Plru k) 4 l.way.val) }

/-- R227, R231: an L1 after an access to a line that the L2 holds: the line is in it. -/
def L1.access (c : L1) (line : Nat) : L1 :=
  let k := l1Set (64 * line)
  let t := SMap.get 0 c.plru k
  let mates := c.lines.filter (fun e => l1Set (64 * e.1) == k)
  match c.lines.find line with
  | some w => { c with plru := SMap.set 0 c.plru k (plruTouch t 3 w) }
  | none =>
    let w := (plruWay t 3 (fun _ => true) (fun w => !mates.any (fun e => e.2 == w))).getD 0
    let kept := match mates.find? (fun e => e.2 == w) with
      | some e => c.lines.del e.1
      | none => c.lines
    { lines := kept.ins line w, plru := SMap.set 0 c.plru k (plruTouch t 3 w) }

/-- R227, R229: a load or store of core `p` brings the line into the L1D, where the L2 holds it. -/
def State.l1dAccess (s : State) (p line : Nat) : State :=
  let c := s.physCore p
  if (c.l2.find line).isNone then s else s.setPhys p { c with l1d := c.l1d.access line }

/-- R287: the reservation a core holds in its L1 on this very line ends with the line's replacement. -/
def State.loseLine (s : State) (p line : Nat) : State :=
  match s.logicalOf p with
  | none => s
  | some n =>
    let c := s.core n
    match c.resv with
    | some r => if !r.home && r.line == line then s.setCore n { c with resv := none } else s
    | none => s

/-- R266, R267: a dirty line goes home; KEEP leaves it in the L2, exclusive and clean. -/
def State.writeBack (s : State) (p line : Nat) (keep : Bool) : State :=
  match (s.physCore p).l2.find line with
  | none => s
  | some l =>
    if l.st = .m then
      let (s, ws) := s.l2Out p line
      let s := if keep then s.l2Put p line { l with st := .e, data := ws } else s.l2Drop p line
      s.homeWbk ⟨p, line, ws, keep⟩
    else if keep then s
    else s.l2Drop p line

/-- R534: before a line beyond the 1,024th becomes dirty in an L2, the oldest dirty line is written home and kept. -/
def State.dirtyRoom (s : State) (p line : Nat) : State :=
  let d := (s.physCore p).dirty
  match d with
  | v :: _ => if d.contains line || decide (d.length < 1024) then s else s.writeBack p v true
  | [] => s

/-- R232: room for a line in its L2 set: a dirty victim is written home first, a clean one dropped silently. -/
def State.l2Room (s : State) (p line : Nat) : State × Option Nat :=
  match (s.physCore p).fills.find line with
  | some w => (s, some w.val)
  | none =>
    match (s.physCore p).wayFor line with
    | none => (s, none)
    | some w =>
      match (l2Mates (s.physCore p) line).find? (fun e => e.2.way.val == w) with
      | none => (s, some w)
      | some (v, _) => ((s.writeBack p v false).loseLine p v, some w)

/-- A line is installed in way `way` of the L2, with good codes. -/
def State.l2Install (s : State) (p line : Nat) (st : L2St) (ws : List Word) (way : Nat) : State :=
  let s := if s.mem.sramErr = [] then s
    else { s with mem := (List.range 8).foldl (fun m i => m.setCell (l2Cell p line i) 0) s.mem }
  let s := s.setPhys p { s.physCore p with fills := (s.physCore p).fills.del line }
  (s.l2Put p line { st := st, data := ws, way := Fin.ofNat 16 way }).l2Touch p line

/-- A line is installed in the L2, where an entry of its set can take it. -/
def State.l2Fill (s : State) (p line : Nat) (st : L2St) (ws : List Word) : State :=
  match (s.physCore p).l2.find line with
  | some l => s.l2Install p line st ws l.way.val
  | none =>
    match s.l2Room p line with
    | (s, some w) => s.l2Install p line st ws w
    | (s, none) => s

/-! ### Arrivals at a core and at home -/

/-- R219, R247: the core on `p` takes fills: its caches are on and it is not failing. -/
def State.takesFills (s : State) (p : Nat) : Bool :=
  match s.logicalOf p with
  | some n => s.cachesOn p && (s.core n).run != .paused
  | none => false

/-- R268, R270: a snoop reaches core `p`, which answers from its present state. -/
def State.deliverSnoop (s : State) (m : Msg) : State :=
  let inval := match m.kind with
    | .snpS => false
    | _ => true
  let inFlight := s.coh.msgs.any (fun x => x.p == m.p && x.line == m.line &&
    (match x.kind with
     | .wbk _ _ => true
     | _ => false))
  let taken := match s.coh.txns.find m.txn with
    | some t => t.got.contains m.p && s.wbkOut m.p m.line
    | none => false
  let held := ((s.physCore m.p).l2.find m.line).isSome
  let (s, d) := s.snooped m.p m.line inval
  match d with
  | some ws => s.send (.sdata ws) m.p m.line m.txn
  | none =>
    if inFlight || taken then s.send .ndataWbp m.p m.line m.txn
    else if held then s.send (.sack (if inval then none else some .s)) m.p m.line m.txn
    else s.send .miss m.p m.line m.txn

/-- R267, R270: a snoop answer reaches home. -/
def State.deliverAnswer (s : State) (m : Msg) : State :=
  match s.coh.txns.find m.txn with
  | none => s
  | some t =>
    let s := match m.kind with
      | .sdata ws => State.wbkPut m.p s m.line ws
      | _ => s
    let gone := match m.kind with
      | .sack none => true
      | .sdata _ => t.inval
      | .ndataWbp => t.inval
      | .miss => true
      | _ => false
    let s := if gone then s.sfClear m.line m.p else s.setSf m.line { s.sfEntry m.line with excl := false }
    let wait := match m.kind with
      | .ndataWbp => !(t.got.contains m.p)
      | _ => false
    let t := { t with await := t.await.filter (· ≠ m.p), wbp := if wait then t.wbp ++ [m.p] else t.wbp }
    State.advance 3 (s.setTxn m.txn t) m.txn

/-- The way held for a fill is free again. -/
def State.endFill (s : State) (p line : Nat) : State :=
  s.setPhys p { s.physCore p with fills := (s.physCore p).fills.del line }

/-- R266: DATA reaches the requester and is installed; the transaction completes. -/
def State.deliverData (s : State) (m : Msg) : State :=
  match m.kind with
  | .data st ws =>
    let s := if s.takesFills m.p then
        (if st = .m then s.dirtyRoom m.p m.line else s).l2Fill m.p m.line st ws
      else s
    (s.endFill m.p m.line).closeTxn m.txn
  | _ => s

/-- R266: GNT: the S copy becomes M. -/
def State.deliverGnt (s : State) (m : Msg) : State :=
  let s := if s.takesFills m.p then
      (let s := s.dirtyRoom m.p m.line
       match (s.physCore m.p).l2.find m.line with
       | some l => s.l2Put m.p m.line { l with st := .m }
       | none => s)
    else s
  s.closeTxn m.txn

end Sys2Proof.Machine
end

