-- ==== Sys2Proof/Machine/Cap.lean ====
section
/-! DEFINITION. Capability words, the capability table, currency, permissions (R144-R164). -/

namespace Sys2Proof.Machine

/-! ### The word (R144) -/

def capKind (w : Word) : Nat := bits w.val 60 4
def capPerm (w : Word) : Nat := bits w.val 52 8
def capGen (w : Word) : Nat := bits w.val 36 16
def capIndex (w : Word) : Nat := bits w.val 0 28

/-- R144: a CAP word from its fields. -/
def capWord (kind perm gen index : Nat) : Word :=
  Word.cap (BitVec.ofNat 64 (kind % 16 * 2 ^ 60 + perm % 256 * 2 ^ 52 + gen % 2 ^ 16 * 2 ^ 36 + index % 2 ^ 28))

/-- A CAP word with another KIND. -/
def withKind (w : Word) (k : Nat) : Word := Word.cap (putBits w.val 60 4 k)

/-- R145: permission bits, bit n for word bit 52 + n. -/
def pR : Nat := 0
def pW : Nat := 1
def pX : Nat := 2
def pCapld : Nat := 3
def pCapst : Nat := 4
def pDisc : Nat := 5
def pDev : Nat := 6
def pSeal : Nat := 7

/-! ### The table (R146, R147) -/

/-- R146: a table entry. -/
structure CapEntry where
  base : BitVec 64
  length : BitVec 64
  info : BitVec 64
  word3 : BitVec 64
deriving DecidableEq, Repr, Inhabited



def CapEntry.perm (e : CapEntry) : Nat := bits e.info 0 8
def CapEntry.otype (e : CapEntry) : Nat := bits e.info 16 16
def CapEntry.gen (e : CapEntry) : Nat := bits e.info 32 16
def CapEntry.valid (e : CapEntry) : Bool := bit e.info 48
def CapEntry.rvkok (e : CapEntry) : Bool := bit e.info 49
def CapEntry.retired (e : CapEntry) : Bool := bit e.info 50
def CapEntry.skind (e : CapEntry) : Nat := bits e.info 51 1
def CapEntry.isReturn (e : CapEntry) : Bool := bit e.info 52
def CapEntry.lo (e : CapEntry) : Nat := e.base.toNat
def CapEntry.len (e : CapEntry) : Nat := e.length.toNat



/-- R146: word 2 of an entry: FLAGS, GEN, OTYPE, PERM. -/
def entryMeta (flags gen otype perm : Nat) : BitVec 64 :=
  BitVec.ofNat 64 (flags % 2 ^ 16 * 2 ^ 48 + gen % 2 ^ 16 * 2 ^ 32 + otype % 2 ^ 16 * 2 ^ 16 + perm % 256)

/-- The word index (PA / 8) of word 0 of entry `ix` of parish `p`'s table (R146, R149). -/
def State.capAt (s : State) (p ix : Nat) : Nat := s.fld (Reg.captBase p) 5 47 * 4 + 4 * ix

/-- R146: the entry, as home holds it. -/
def State.capEntry (s : State) (p ix : Nat) : CapEntry :=
  let w := s.capAt p ix
  { base := (s.mem.peekWord w).val, length := (s.mem.peekWord (w + 1)).val, info := (s.mem.peekWord (w + 2)).val,
    word3 := (s.mem.peekWord (w + 3)).val }

/-- R294, R297: home reads the line of a word's entry through its code, where an error stands anywhere. -/
def State.tableMeet (s : State) (p : Nat) (w : Word) (who : Who) : State :=
  if (s.mem.sramErr = [] ∧ s.mem.dramErr = []) ∨ w.isCap = false ∨ s.fld (Reg.captSize p) 0 29 ≤ capIndex w then s
  else (s.homeWords (s.capAt p (capIndex w) / 8) who).1

/-- The device writes an entry (R146); a mirrored parish's table is mirrored (R458), and without a credit the write is held
(R459). -/
def State.setCapEntry (s : State) (p ix m : Nat) (e : CapEntry) : State :=
  let w := s.capAt p ix
  let ws := [Word.raw e.base, Word.raw e.length, Word.raw e.info, Word.raw e.word3]
  let hi := w % 8 == 4
  let line := if hi then List.replicate 4 Word.raw0 ++ ws else ws ++ List.replicate 4 Word.raw0
  let mask : BitVec 8 := if hi then 0xF0#8 else 0x0F#8
  (s.waitIf (s.mirrorFull (w / 8))).applied (w / 8) mask line m

/-- R154: the word names its entry's present generation. -/
def State.capCurrent (s : State) (p : Nat) (w : Word) : Bool :=
  let e := s.capEntry p (capIndex w)
  w.isCap && decide (1 ≤ capIndex w ∧ capIndex w < s.fld (Reg.captSize p) 0 29 ∧ capKind w ≤ 3) &&
    e.valid && !e.retired && decide (capGen w = e.gen)

/-- R156: the effective permissions of a current word. -/
def effPerm (w : Word) (e : CapEntry) : Nat :=
  let b := capPerm w &&& e.perm
  if capKind w = 1 then b &&& 0xED else if capKind w = 2 then 0 else b

def State.capPerms (s : State) (p : Nat) (w : Word) : Nat := effPerm w (s.capEntry p (capIndex w))

def hasPerm (perms bit : Nat) : Bool := perms.testBit bit

/-- R158: a current kind-3 word whose entry names one of the authorities. -/
def State.authority (s : State) (p : Nat) (w : Word) (ots : List Nat) : Bool :=
  s.capCurrent p w && capKind w == 3 && ots.contains (s.capEntry p (capIndex w)).otype

/-- R160: takes the first free entry; none, with CAPT_STAT.FULL, where the list is empty. -/
def State.capAlloc (s : State) (p : Nat) : State × Option Nat :=
  let h := s.fld (Reg.captFree p) 0 28
  if h = 0 then (s.setFlag (Reg.captStat p) 0 true, none)
  else
    let nx := (s.capEntry p h).lo % 2 ^ 28
    let s := s.setFld (Reg.captFree p) 0 28 nx
    (s.setFld (Reg.captFree p) 28 29 (s.fld (Reg.captFree p) 28 29 - 1), some h)

/-- R162: the entry's generation ends: retired at 0xFFFE, else released to the head of the free list. -/
def State.capRelease (s : State) (p ix m : Nat) : State :=
  let e := s.capEntry p ix
  if e.gen = 0xFFFE then
    (s.setCapEntry p ix m { e with info := putBits (putBits (putBits e.info 48 1 0) 32 16 0xFFFF) 50 1 1 }).setFlag
      (Reg.captStat p) 1 true
  else
    let h := s.fld (Reg.captFree p) 0 28
    let s := s.setCapEntry p ix m { e with base := BitVec.ofNat 64 h,
                                            info := putBits (putBits e.info 48 1 0) 32 16 (e.gen + 1) }
    let s := s.setFld (Reg.captFree p) 0 28 ix
    s.setFld (Reg.captFree p) 28 29 (s.fld (Reg.captFree p) 28 29 + 1)

end Sys2Proof.Machine
end

