-- ==== Sys2Proof/Machine/Access.lean ====
section
/-! DEFINITION. A core's data accesses: its L2, its store queue and combining buffer, the card log, and the
transactions an instruction completes (R136-R138, R229-R234, R266-R271, R277-R282). -/

namespace Sys2Proof.Machine

/-- Logical core `n` as the master of an access (R476, R477). -/
def State.coreWho (s : State) (n acc : Nat) : Who :=
  { master := masterId 0 (s.physOf n), acc := acc, parish := some (s.parishOf n) }

/-! ### The card log (R131-R138) -/

/-- R133: the capacity of a parish's card log. -/
def State.cardCap (s : State) (p : Nat) : Nat :=
  let k := s.fld (Reg.gcClog p) 48 5
  if 4 ≤ k ∧ k ≤ 16 then 2 ^ k else 0

def State.clogOf (s : State) (p : Nat) : ClogState := SMap.get ClogState.reset s.clog p

/-- R136: every slot below TAIL plus the capacity is claimed. -/
def State.cardFull (s : State) (p : Nat) : Bool :=
  decide (s.cardCap p ≤ ((s.clogOf p).claimed.toNat + 2 ^ 32 - s.fld (Reg.gcClogp p) 0 32) % 2 ^ 32)

/-- R131, R137: the parish address of a slot of a parish's card log. -/
def State.cardAddr (s : State) (p slot : Nat) : Nat :=
  s.fld (Reg.gcClog p) 7 41 * 0x80 + 8 * (slot % 2 ^ (s.fld (Reg.gcClog p) 48 5))

/-- R136: claims the next slot for an entry. -/
def State.cardClaim (s : State) (p : Nat) (w : BitVec 64) : State × Card :=
  let c := s.clogOf p
  let slot := c.claimed.toNat
  ({ s with clog := s.clog.set ClogState.reset p { c with claimed := c.claimed + 1 } },
   { slot := some slot, addr := s.cardAddr p slot, word := w })

/-- R82: a slot just claimed is given back, where its store is not made. -/
def State.cardUnclaim (s : State) (p : Nat) (k : Option Card) : State :=
  let c := s.clogOf p
  if k.isSome then { s with clog := s.clog.set ClogState.reset p { c with claimed := c.claimed - 1 } } else s

/-- R137: the entry of a store by logical core `n` to parish address `a`. -/
def cardWord (n acc a : Nat) : BitVec 64 :=
  BitVec.ofNat 64 (n * 2 ^ 52 + acc * 2 ^ 48 + a % 2 ^ 48 / 512 * 512)

/-- R138: a claimed entry is written at home, and HEAD follows, unless the log has moved; where its line is not free for the
write, once it is (R259, R291). -/
def State.cardWrite (s : State) (n : Nat) (card : Option Card) : State :=
  match card with
  | none => s
  | some k =>
    let p := s.parishOf n
    let m := masterId 0 (s.physOf n)
    let s := s.pmc (s.physOf n) 0xB
    let done (s : State) : State :=
      match k.slot with
      | some slot => s.cardDone p slot
      | none => s
    match s.translate p k.addr with
    | (.wb, pa) =>
      if s.lineFree (pa / 64) m then done (s.homeWriteWord (pa / 8) (Word.raw k.word) m)
      else { s with coh := { s.coh with late := s.coh.late ++ [⟨pa, Word.raw k.word, m, p, k.slot, true, true⟩] } }
    | _ => done s

/-! ### Completing what is in flight on a line -/

/-- A WRT, WRH or ATM of a core is acknowledged (R266, R279): the store leaves its queue, and its own copy follows. -/
def State.deliverAck (s : State) (m : Msg) : State :=
  match m.kind, s.coh.txns.find m.txn with
  | .ack grantE _, some t =>
    let pop (s : State) (e : StoreEntry) : State :=
      match s.logicalOf m.p with
      | none => s
      | some n =>
        let c := s.core n
        match c.sq with
        | h :: rest =>
          if h.path = e.path ∧ h.word = e.word ∧ h.data = e.data then (s.setCore n { c with sq := rest }).cardWrite n h.card
          else s
        | [] => s
    match t.req.kind with
    | .wrt e =>
      let s := match (s.physCore m.p).l2.find m.line with
        | some l =>
          if grantE then
            s.l2Put m.p m.line { l with st := .e, data := l.data.mapIdx (fun k x => if k = e.word % 8 then e.data.apply x else x) }
          else s.l2Drop m.p m.line
        | none => s
      pop (s.closeTxn m.txn) e
    | .wrh e => pop (s.closeTxn m.txn) e
    | .atm _ _ _ _ => (s.l2Drop m.p m.line).closeTxn m.txn
    | _ => s.closeTxn m.txn
  | _, _ => s

/-- R475: a message that reaches home makes the slice read its record of the line, for the requester of the transaction. -/
def State.homeLook (s : State) (m : Msg) : State :=
  let look (s : State) : State :=
    match s.coh.txns.find m.txn with
    | some t => s.bookLook t.req.line t.req.master.toNat (t.req.kind.acc t.req.coreOf.isSome)
    | none => s
  match m.kind with
  | .sack _ => look s
  | .sdata _ => look s
  | .miss => look s
  | .ndataWbp => look s
  | .wbk _ _ => s.bookLook m.line (masterId 0 m.p) 0xD
  | _ => s

/-- A message reaches its receiver. -/
def State.deliver (s : State) (m : Msg) : State :=
  let s := s.homeLook m
  match m.kind with
  | .snpS => s.deliverSnoop m
  | .snpI => s.deliverSnoop m
  | .binv => s.deliverSnoop m
  | .sack _ => s.deliverAnswer m
  | .sdata _ => s.deliverAnswer m
  | .miss => s.deliverAnswer m
  | .ndataWbp => s.deliverAnswer m
  | .data _ _ => s.deliverData m
  | .words _ _ => s
  | .gnt => s.deliverGnt m
  | .ack _ _ => s.deliverAck m
  | .wbk ws keep => s.deliverWbk m.p m.line ws keep

/-- The first message in flight that fits reaches its receiver. -/
def State.deliverFirst (s : State) (f : Msg → Bool) : State :=
  match takeMsg f s.coh.msgs with
  | none => s
  | some (m, rest) => ({ s with coh := { s.coh with msgs := rest } }).deliver m

/-- The message is a snoop. -/
def isSnoop (m : Msg) : Bool :=
  match m.kind with
  | .snpS => true
  | .snpI => true
  | .binv => true
  | _ => false

/-- R268, R289: the message can arrive now: no hold-off delays the answer to it. -/
def State.arrives (s : State) (m : Msg) : Bool := !(isSnoop m && s.heldOff m.p m.line)

/-- Everything in flight that concerns a line, and every request waiting for it, comes to its end, in order; where a
hold (R289, R291), a mend (R309) or the cap of R262 keeps one back, the command waits. -/
def State.settleLine : Nat → State → Nat → State
  | 0, s, _ => s
  | k + 1, s, line =>
    let mine (m : Msg) : Bool :=
      m.line == line || (m.txn != noTxn && (m.txn == line ||
        (match s.coh.txns.find m.txn with
         | some t => t.victim == some line
         | none => false)))
    if s.coh.msgs.any (fun m => mine m && s.arrives m) then
      State.settleLine k (s.deliverFirst (fun m => mine m && s.arrives m)) line
    else if s.lineBusy line then s.wait .hold
    else
      match s.coh.retryQ.find? (fun r => r.line == line && !s.homeHeld r) with
      | none => s.sinkLate line
      | some r =>
        if !s.admissible r then s.wait .hold
        else
          State.settleLine k
            (({ s with coh := { s.coh with retryQ := s.coh.retryQ.erase r } }).admitReq r) line

/-- R259, R262, R263: an instruction's transaction on a line follows those before it, needs a way where the line has a
snoop-filter entry, and waits at its sender while the slice's queue is full. -/
def State.settle (s : State) (line : Nat) : State :=
  if s.coh.msgs = [] ∧ s.coh.txns = [] ∧ s.coh.retryQ = [] ∧ s.coh.late = [] then s
  else
    let s := State.settleLine 512 s line
    let s := s.waitIf (s.queueFull line)
    if (s.coh.sf.find line).isSome && !s.sfCap line then s.wait (.cap line) else s

/-! ### The L2 from the core's side (R266) -/

/-- R262, R271: a snoop-filter way for a line, and room in its set. -/
def State.sfRoom (s : State) (line : Nat) : State :=
  let s := if s.sfCap line then s else s.wait (.cap line)
  match (s.sfPick line).bind (·.2) with
  | none => s
  | some v => (s.settle v).snoopHolders v true none |>.setSf v ⟨0, false, 0⟩

/-- R266, R267: an RDS of core `n` by access type: the state and words its L2 takes. -/
def State.rdsFor (s : State) (n line acc : Nat) : State × L2St × List Word :=
  let p := s.physOf n
  let s := (s.bookLook line (masterId 0 p) acc).sfRoom line
  let s := s.snoopHolders line false (some p)
  let (s, ws) := s.homeWords line { master := masterId 0 p, acc := acc, parish := some (s.parishOf n) }
  let excl := (s.holders line (some p)).isEmpty
  (s.sfAdd line p excl, (if excl then L2St.e else L2St.s), ws)

/-- R519: an L1D miss is counted. -/
def State.l1dMiss (s : State) (p line : Nat) : State :=
  if ((s.physCore p).l1d.lines.find line).isSome then s else s.pmc p 3

/-- R232, R266: a line for reading: RDS where the L2 does not hold it, after its victim has gone home. -/
def State.coreShare (s : State) (n line acc : Nat) : State :=
  let p := s.physOf n
  let s := s.l1dMiss p line
  match (s.physCore p).l2.find line with
  | some _ => (s.l2Touch p line).l1dAccess p line
  | none =>
    let s := (s.pmc p 5).settle line
    match (s.physCore p).l2.find line with
    | some _ => (s.l2Touch p line).l1dAccess p line
    | none =>
      match s.l2Room p line with
      | (s, none) => s.wait .hold
      | (s, some w) =>
        let (s, st, ws) := s.rdsFor n line acc
        (s.l2Install p line st ws w).l1dAccess p line

/-- R266: a line for writing, by access type: RDO or UPG; M, or E for a mirrored line. A line whose WBK is on its way to home
is not written before the WBK is there (R260, R270). -/
def State.coreOwn (s : State) (n line : Nat) (acc : Nat := 2) : State :=
  let p := s.physOf n
  let st : L2St := if s.mirroredPa (64 * line) then .e else .m
  let s := s.l1dMiss p line
  let s := match (s.physCore p).l2.find line with
    | some l => if l.st = L2St.s || s.wbkOut p line then s.settle line else s
    | none => (s.pmc p 5).settle line
  let s := match (s.physCore p).l2.find line with
    | some l =>
      if l.st = L2St.s then
        let s := s.bookLook line (masterId 0 p) acc
        let s := (if s.sfCap line then s else s.wait (.cap line)).snoopHolders line true (some p)
        s.sfOnly line p
      else s
    | none =>
      match s.l2Room p line with
      | (s, none) => s.wait .hold
      | (s, some w) =>
        let s := ((s.bookLook line (masterId 0 p) acc).sfRoom line).snoopHolders line true (some p)
        let (s, ws) := s.homeWords line { master := masterId 0 p, acc := acc, parish := some (s.parishOf n) }
        (s.sfOnly line p).l2Install p line .e ws w
  let s := if st = .m then s.dirtyRoom p line else s
  match (s.physCore p).l2.find line with
  | some l => ((s.l2Put p line { l with st := st }).l2Touch p line).l1dAccess p line
  | none => s

/-- A word of the L2's copy of its line. -/
def State.l2Word (s : State) (p w : Nat) : Word :=
  match (s.physCore p).l2.find (w / 8) with
  | some l => l.data.getD (w % 8) Word.raw0
  | none => Word.raw0

/-- One word of the L2's copy of a line is replaced. -/
def State.l2Write (s : State) (p w : Nat) (v : Word) : State :=
  match (s.physCore p).l2.find (w / 8) with
  | some l =>
    let s := if s.mem.sramErr = [] then s else { s with mem := s.mem.setCell (l2Cell p (w / 8) (w % 8)) 0 }
    s.l2Put p (w / 8) { l with data := l.data.mapIdx (fun k x => if k = w % 8 then v else x) }
  | none => s

/-- R230: an uncorrectable word of a dirty line sends the line home as POIS, and it is read again; one of a clean line
drops it, and the instruction is retried. -/
def State.l2Check (s : State) (n w acc : Nat) (again : State → State) : State :=
  if s.mem.sramErr = [] then s
  else
    let p := s.physOf n
    let line := w / 8
    let (s, bad) := s.l2Decode p line (w % 8) acc
    if !bad then s
    else if ((s.physCore p).l2.find line).map (·.st) = some .m then
      again ((s.writeBack p line false).loseLine p line)
    else s.wait (.l2 p line)

/-- The L1D of core `p` holds the line. -/
def State.l1dHolds (s : State) (p line : Nat) : Bool := ((s.physCore p).l1d.lines.find line).isSome

/-- R230, R266: the line of a word for writing, by access type; the L2's word is read through its code unless the L1D holds
a copy. -/
def State.ownWord (s : State) (n w acc : Nat) : State :=
  let hit := s.l1dHolds (s.physOf n) (w / 8)
  let s := s.coreOwn n (w / 8) acc
  if hit then s else s.l2Check n w acc (fun s => s.coreOwn n (w / 8) acc)

/-! ### Performing a store (R277, R279) -/

/-- R279: a store of core `p` has been sent to home and waits there for its line. -/
def State.storeSent (s : State) (p line : Nat) : Bool :=
  s.coh.retryQ.any (fun r => r.line == line && r.master.toNat == masterId 0 p && (match r.kind with
    | .wrt _ => true
    | .wrh _ => true
    | _ => false))

/-- R45, R312: a byte of core `p` meets a POIS word. -/
def State.byteMet (s : State) (p w : Nat) (old : Word) : State := (s.noteTag w (masterId 0 p) old).byteLost p w

/-- R277, R312: a store of core `n` is performed, and its card log entry written; one that home holds back (R291) is waited
for. -/
def State.performStore (s : State) (n : Nat) (e : StoreEntry) : State :=
  let p := s.physOf n
  let line := e.word / 8
  let s := s.waitIf (s.storeSent p line)
  let path := if s.cachesOn p then e.path else .wrh
  let s := match path with
    | .l2 =>
      match e.data with
      | .word v => (s.coreOwn n line).l2Write p e.word v
      | .byte _ _ =>
        let s := s.ownWord n e.word 2
        let old := s.l2Word p e.word
        if old.poisoned then s.byteMet p e.word old else s.l2Write p e.word (e.data.apply old)
    | .wrt =>
      let s := (((s.settle line).writeGuard line (masterId 0 p)).coreOwn n line).applyWrt p e
      s.l2Write p e.word (s.mem.peekWord e.word)
    | .wrh => (if isCommons (8 * e.word) then s else s.settle line).applyWrh p e
  s.cardWrite n e.card

/-- R279: performs stores in order. -/
def State.drainList (n : Nat) : List StoreEntry → State → State
  | [], s => s
  | e :: es, s => State.drainList n es (s.performStore n e)

/-- R279: performs the queued stores, after the one already on its way to home. -/
def State.drainStores (s : State) (n : Nat) : State :=
  let s := match (s.core n).sq with
    | e :: _ => if isCommons (8 * e.word) then s else s.settle (e.word / 8)
    | [] => s
  let c := s.core n
  State.drainList n c.sq (s.setCore n { c with sq := [] })

/-! ### The combining buffer (R282) -/

/-- A combining entry goes home, and its card log entries follow. -/
def State.ntSend (s : State) (n : Nat) (e : NtEntry) : State :=
  let s := (s.settle e.line).homeWrite e.line e.mask e.words (masterId 0 (s.physOf n)) 5
  e.cards.foldl (fun s c => s.cardWrite n (some c)) s

/-- Sends the entries that fit. -/
def State.ntFlush (s : State) (n : Nat) (f : NtEntry → Bool) : State :=
  let c := s.core n
  (c.nt.filter f).foldl (fun s e => s.ntSend n e) (s.setCore n { c with nt := c.nt.filter (fun e => !f e) })

/-- R282, R459: a non-temporal store of one word. -/
def State.ntStore (s : State) (n w : Nat) (v : Word) (card : Option Card) : State :=
  let line := w / 8
  let s := s.waitIf (!(s.core n).nt.any (fun e => e.line == line) && s.mirrorFull line)
  let s := if (s.core n).sq.any (fun e => e.word / 8 == line) then s.drainStores n else s
  let c := s.core n
  let s :=
    if c.nt.any (fun e => e.line == line) then s
    else
      let s := match c.nt with
        | e :: _ => if 16 ≤ c.nt.length then s.ntFlush n (fun x => x.line == e.line) else s
        | [] => s
      let s := (s.settle line).writeBack (s.physOf n) line false
      let c := s.core n
      s.setCore n { c with nt := c.nt ++ [{ line := line, mask := 0, words := List.replicate 8 Word.raw0, cards := [] }] }
  let c := s.core n
  let s := s.setCore n { c with nt := c.nt.map (fun e =>
    if e.line = line then
      { e with mask := e.mask ||| BitVec.ofNat 8 (2 ^ (w % 8)),
               words := e.words.mapIdx (fun k x => if k = w % 8 then v else x),
               cards := match card with
                 | some k => e.cards ++ [k]
                 | none => e.cards }
    else e) }
  s.ntFlush n (fun e => e.line == line && e.mask == 0xFF#8)

/-! ### Loads and stores of a core (R278) -/

/-- The word as its own older stores have left it. -/
def Core.forward (c : Core) (w : Nat) (base : Word) : Word :=
  let v := match c.nt.find? (fun e => e.line == w / 8) with
    | some e => if e.mask.getLsbD (w % 8) then e.words.getD (w % 8) Word.raw0 else base
    | none => base
  c.sq.foldl (fun v e => if e.word = w then e.data.apply v else v) v

/-- R249: WB memory is served by the core's caches. -/
def State.cached (s : State) (n : Nat) (r : Region) : Bool := r == .wb && s.cachesOn (s.physOf n)

/-- R278: a load of a word of normal memory; R230: one that the L1D serves reads no word of the L2. -/
def State.coreRead (s : State) (n : Nat) (r : Region) (w : Nat) : State × Word :=
  if s.cached n r then
    let hit := s.l1dHolds (s.physOf n) (w / 8)
    let s := s.coreShare n (w / 8) 1
    let s := if hit then s else s.l2Check n w 1 (fun s => s.coreShare n (w / 8) 1)
    let base := s.l2Word (s.physOf n) w
    (s, (s.core n).forward w base)
  else
    let who : Who := { master := masterId 0 (s.physOf n), acc := 1, parish := some (s.parishOf n) }
    let (s, base) := (if isCommons (8 * w) then s else s.settle (w / 8)).homeRead w who
    (s, (s.core n).forward w base)

/-- R235: the next state of a detector whose instruction accesses parish address `a`; `used` where the line had been
fetched ahead. -/
def Stream.step (t : Stream) (a line lo hi : Nat) (used : Bool) : Stream :=
  let d : Int := (a : Int) - t.last
  let near := decide (d ≠ 0 ∧ -4096 ≤ d ∧ d ≤ 4096)
  let hits := if near && d == t.stride then min 2 (t.hits + 1) else if near then 1 else 0
  { t with last := a, stride := d, hits := hits, lo := lo, hi := hi, ahead := t.ahead.filter (· ≠ line),
           dist := if hits < 2 then 4 else if used then min 32 (2 * t.dist) else t.dist }

/-- R235: the parish addresses ahead of a trained stream, nearest first. DESIGN CHOICE (log 92): by strides, or by lines where
the stride is shorter. -/
def Stream.ahead? (t : Stream) : List Int :=
  (List.range t.dist).map (fun (k : Nat) =>
    if t.stride.natAbs < 64 then (t.last : Int) + (if t.stride < 0 then -64 else 64) * ((k : Int) + 1)
    else (t.last : Int) + t.stride * ((k : Int) + 1))

/-- R236, R237: the line that a stream of parish `p` may fetch for an address ahead: inside its bounds, and in WB memory
for a core's stream, in DRAM for a Granary stream. -/
def State.aheadLine (s : State) (p : Nat) (core : Bool) (t : Stream) (a : Int) : Option Nat :=
  let l := a.toNat / 64 * 64
  if a < 0 ∨ t.hi ≤ l ∨ l + 64 ≤ t.lo then none
  else match s.translate p l with
    | (.wb, pa) => some (pa / 64)
    | (.uc, pa) => if core || isCommons pa then none else some (pa / 64)
    | _ => none

/-- R235: a load or store by the instruction at `ins` reaches parish address `a` of WB memory: its detector moves, and
one that misses takes a detector. -/
def State.streamTouch (s : State) (n ins a pa lo hi : Nat) : State :=
  let p := s.physOf n
  let c := s.physCore p
  if !s.cachesOn p || !s.flag (Reg.cctl p) 2 then s
  else
    let hit := (c.l1d.lines.find (pa / 64)).isSome
    let rest := c.streams.filter (fun t => t.ins ≠ ins)
    match c.streams.find? (fun t => t.ins == ins) with
    | some t =>
      let used := (c.l2.find (pa / 64)).isSome && t.ahead.contains (pa / 64)
      let t := t.step a (pa / 64) lo hi used
      let s := s.setPhys p { c with streams := if hit then c.streams.map (fun u => if u.ins = ins then t else u)
                                               else t :: rest }
      if used then s.pmc p 0xE else s
    | none =>
      if hit then s
      else s.setPhys p { c with streams := ({ ins := ins, last := a, stride := 0, hits := 0, dist := 4, lo := lo,
                                              hi := hi, ahead := [] } :: rest).take 32 }

/-- R287: the core's own store to the reserved granule. -/
def State.ownStoreResv (s : State) (n line : Nat) : State :=
  let c := s.core n
  match c.resv with
  | some r => if r.line / 2 = line / 2 then s.setCore n { c with resv := none } else s
  | none => s

/-- R277, R566: the path of a store to normal memory. -/
def State.storePath (s : State) (n : Nat) (r : Region) (pa : Nat) : StorePath :=
  if s.cached n r then (if s.mirroredPa pa then .wrt else .l2) else .wrh

/-- A retired store: performed at once in the core's own L2 where nothing older waits, else queued (R279); without a
mirror credit it does not retire (R459). -/
def State.coreStore (s : State) (n : Nat) (r : Region) (w : Nat) (d : StoreData) (card : Option Card) :
    State :=
  let s := (s.waitIf (s.mirrorFull (w / 8))).ntFlush n (fun e => e.line == w / 8)
  let e : StoreEntry := { path := s.storePath n r (8 * w), word := w, data := d, card := card }
  let c := s.core n
  if e.path = .l2 ∧ c.sq = [] then s.performStore n e else s.setCore n { c with sq := c.sq ++ [e] }

/-- R280: everything the core has stored is performed. -/
def State.drainAll (s : State) (n : Nat) : State := (s.drainStores n).ntFlush n (fun _ => true)

/-- R280, R290: an atomic of core `n`, by access type: the old value, and the word written where `f` gives one from the
state and the value as they then stand; the answer tells whether it wrote. -/
def State.coreAtomic (s : State) (n : Nat) (r : Region) (w acc : Nat) (f : State → Word → Option Word) :
    State × Word × Bool :=
  let p := s.physOf n
  let line := w / 8
  if s.cached n r && !s.mirroredPa (8 * w) then
    let s := s.ownWord n w acc
    let old := s.l2Word p w
    match f s old with
    | some v => (s.l2Write p w v, old, true)
    | none => (s, old, false)
  else
    let who : Who := { master := masterId 0 p, acc := acc, parish := some (s.parishOf n) }
    let s := if isCommons (8 * w) then s else
      let s := ((s.settle line).bookLook line (masterId 0 p) acc).snoopHolders line true (some p)
      (s.l2Drop p line).sfClear line p
    let (s, old) := s.homeRead w who
    match f s old with
    | some v => ((s.waitIf (s.mirrorFull line)).homeWriteWord w v (masterId 0 p) acc, old, true)
    | none => (s, old, false)

/-- R140: ownership of the line of word `w` for a self-healing write, after the core's older stores; the answer tells
whether the word is `old`. -/
def State.healOwn (s : State) (n : Nat) (r : Region) (w : Nat) (old : Word) : State × Bool :=
  let s := (s.waitIf (s.mirrorFull (w / 8))).drainStores n |>.ntFlush n (fun e => e.line == w / 8)
  match s.storePath n r (8 * w) with
  | .wrh =>
    let who : Who := { master := masterId 0 (s.physOf n), acc := 1, parish := some (s.parishOf n) }
    if isCommons (8 * w) then
      let (s, v) := s.homeRead w who
      (s, v == old)
    else
      let (s, ws) := ((((s.settle (w / 8)).bookLook (w / 8) who.master who.acc).snoopHolders (w / 8) true none)).homeWords (w / 8) who
      (s, ws.getD (w % 8) Word.raw0 == old)
  | _ =>
    let s := s.coreOwn n (w / 8)
    (s, s.l2Word (s.physOf n) w == old)

/-- R140: the write of a heal whose word is owned. -/
def State.healWrite (s : State) (n : Nat) (r : Region) (w : Nat) (new : Word) (card : Option Card) : State :=
  s.performStore n { path := s.storePath n r (8 * w), word := w, data := .word new, card := card }

end Sys2Proof.Machine
end

