-- ==== Sys2Proof/Machine/Dma.lean ====
section
/-! DEFINITION. DMA by channel ports and engines (R39, R40, R45, R311, R312), and the rings of queues (R336-R342). -/

namespace Sys2Proof.Machine

/-! ### Reads and writes at home by a DMA master -/

/-- A word read by a master that keeps no copy, at a parish address; RAW 0 where no WB or UC run maps it. -/
def State.fetchWord (s : State) (p a : Nat) (w : Who) : State × Word :=
  match s.translate p a with
  | (.wb, pa) => (if isCommons pa then s else s.settle (pa / 64)).homeRead (pa / 8) w
  | (.uc, pa) => (if isCommons pa then s else s.settle (pa / 64)).homeRead (pa / 8) w
  | _ => (s, Word.raw0)

/-- R45: a reserved tag that a DMA master reads is recorded. -/
def State.noteReserved (s : State) (p a : Nat) (w : Who) (x : Word) : State :=
  if x.poisoned && x.tag != Tag.pois then
    s.fault { src := 0x13, acc := w.acc, master := w.master, parish := some p, pa := some ((s.translate p a).2 / 8 * 8),
              synd := 0 }
  else s

/-- R40, R311: the payload a DMA master takes from a word, and whether the word is poisoned. -/
def dmaPayload (w : Word) : BitVec 64 × Bool :=
  if w.poisoned then (0#64, true) else if w.isCap then (0#64, false) else (w.val, false)

def bytesOf (v : BitVec 64) : List Byte := (List.range 8).map (fun i => v.extractLsb' (8 * i) 8)

/-- The little-endian value of up to eight bytes. -/
def ofBytes (bs : List Byte) : BitVec 64 :=
  (List.range 8).foldl (fun v i => v ||| ((bs.getD i 0).setWidth 64 <<< (8 * i))) 0#64

/-- R237, R265: a line of DRAM is fetched into the Granary for master `m`. -/
def State.pfg (s : State) (m line : Nat) : State :=
  if decide (64 * line < s.dramEnd) then s.request { kind := .pfg, master := BitVec.ofNat 12 m, line := line } else s

/-- R237: a DMA read of the line at parish address `a` by master `m` trains its Granary stream, and a trained stream
fetches the lines ahead that the Granary lacks. -/
def State.granStream (s : State) (p a m key lo hi : Nat) : State :=
  let line := (s.translate p a).2 / 64
  let t : Stream := match s.mem.gstreams.find key with
    | some t => t.step a line lo hi (t.ahead.contains line && (s.mem.gran.find line).isSome)
    | none => { ins := m, last := a, stride := 0, hits := 0, dist := 4, lo := lo, hi := hi, ahead := [] }
  let lines := if t.hits < 2 then []
    else (t.ahead?.filterMap (s.aheadLine p false t)).filter (fun l => (s.mem.gran.find l).isNone)
  let t := { t with ahead := t.ahead ++ lines }
  lines.foldl (fun s l => s.pfg m l) { s with mem := { s.mem with gstreams := s.mem.gstreams.ins key t } }

/-- R237: the line of a DMA read at parish address `a` trains the stream of its master, before it is read. -/
def State.trainStream (s : State) (p a : Nat) (w : Who) : State :=
  match w.stream with
  | none => s
  | some (key, lo, hi) => s.granStream p (64 * (a / 64)) w.master key lo hi

/-- The tagged words of `n` consecutive word addresses from `a`; each line after the first trains the stream as it is
reached. -/
def State.fetchWords (s : State) (p a : Nat) (w : Who) : Nat → State × List Word
  | 0 => (s, [])
  | n + 1 =>
    let s := if a % 64 = 0 then s.trainStream p a w else s
    let (s, x) := s.fetchWord p a w
    let s := s.noteReserved p a w x
    let (s, xs) := s.fetchWords p (a + 8) w n
    (s, x :: xs)

/-- R40: bytes `a` to `a + len - 1` of parish `p`, and where the first poisoned word begins among them. -/
def State.dmaReadAt (s : State) (p a len : Nat) (w : Who) : State × List Byte × Option Nat :=
  if len = 0 then (s, [], none)
  else
    let lo := a / 8 * 8
    let s := if lo % 64 = 0 then s else s.trainStream p lo w
    let (s, ws) := s.fetchWords p lo w ((a + len - 1) / 8 - a / 8 + 1)
    let bs := ws.flatMap (fun x => bytesOf (dmaPayload x).1)
    (s, (bs.drop (a - lo)).take len, (ws.findIdx? (fun x => (dmaPayload x).2)).map (fun i => 8 * i - (a - lo)))

/-- R40: bytes `a` to `a + len - 1` of parish `p`, and whether a word was poisoned. -/
def State.dmaRead (s : State) (p a len : Nat) (w : Who) : State × List Byte × Bool :=
  let r := s.dmaReadAt p a len w
  (r.1, r.2.1, r.2.2.isSome)

/-- R39, R312, R459: one word of a DMA write: whole or in part; the answer tells a part lost in a POIS word. -/
def State.dmaWord (s : State) (p a : Nat) (mask : BitVec 8) (bs : List Byte) (m : Nat) : State × Bool :=
  let put (pa : Nat) : State × Bool :=
    let s := if isCommons pa then s else (s.waitIf (s.mirrorFull (pa / 64))).settle (pa / 64)
    if mask = 0xFF#8 then (s.homeWriteWord (pa / 8) (Word.raw (ofBytes bs)) m, false)
    else
      let (s, lost) := s.narrowWrite (pa / 8) bs mask m
      (if lost then s.partLost (pa / 8) m else s, lost)
  match s.translate p a with
  | (.wb, pa) => put pa
  | (.uc, pa) => put pa
  | _ => (s, false)

/-- R39, R301: `n` whole words of one line from word-aligned parish address `a`, in one write. -/
def State.dmaWords (s : State) (p a n : Nat) (bs : List Byte) (m : Nat) : State :=
  let i := a / 8 % 8
  let put (pa : Nat) : State :=
    let s := if isCommons pa then s else (s.waitIf (s.mirrorFull (pa / 64))).settle (pa / 64)
    s.homeWrite (pa / 64) (BitVec.ofNat 8 ((2 ^ n - 1) * 2 ^ i))
      ((List.range 8).map (fun k => Word.raw (ofBytes ((bs.drop (8 * (k - i))).take 8)))) m
  match s.translate p a with
  | (.wb, pa) => put pa
  | (.uc, pa) => put pa
  | _ => s

/-- R39: bytes written from parish address `a`, whole words of a line together; `k` bounds the writes. The answer
counts the bytes lost in POIS words. -/
def State.dmaWrite (m p : Nat) : Nat → State → Nat → List Byte → State × Nat
  | 0, s, _, _ => (s, 0)
  | k + 1, s, a, bs =>
    if bs = [] then (s, 0)
    else if a % 8 = 0 ∧ 8 ≤ bs.length then
      let n := min ((64 - a % 64) / 8) (bs.length / 8)
      State.dmaWrite m p k (s.dmaWords p a n bs m) (a + 8 * n) (bs.drop (8 * n))
    else
      let off := a % 8
      let n := min (8 - off) bs.length
      let word := List.replicate off 0 ++ bs.take n
      let mask := BitVec.ofNat 8 ((2 ^ n - 1) * 2 ^ off)
      let (s, lost) := s.dmaWord p (a - off) mask (word ++ List.replicate (8 - word.length) 0) m
      let (s, rest) := State.dmaWrite m p k s (a - off + 8) (bs.drop n)
      (s, (if lost then n else 0) + rest)

/-- R39: a DMA write, and how many of its bytes were lost (R312). -/
def State.dmaPutN (s : State) (p a : Nat) (bs : List Byte) (m : Nat) : State × Nat :=
  State.dmaWrite m p (bs.length / 8 + 2) s a bs

/-- R39: a DMA write, and whether some of its bytes were lost (R312). -/
def State.dmaPut (s : State) (p a : Nat) (bs : List Byte) (m : Nat) : State × Bool :=
  let r := s.dmaPutN p a bs m
  (r.1, r.2 != 0)

/-- R336, R345: every byte of the range lies in WB or UC runs of the parish. -/
def State.spanOk (s : State) (p a len : Nat) : Bool :=
  if len = 0 then true
  else
    (List.range ((a + len - 1) / 2 ^ 30 - a / 2 ^ 30 + 1)).all (fun i =>
      match (s.translate p ((a / 2 ^ 30 + i) * 2 ^ 30)).1 with
      | .wb => true
      | .uc => true
      | _ => false)

/-! ### Queues (R336-R342) -/

/-- The offset of the queue's CFG register. -/
def queueCfg : QueueId → Nat
  | .chan c => Reg.chCfg c.val
  | .comp i => Reg.ciCfg i.val
  | .ciph i => Reg.cxCfg i.val

def queueSqb (q : QueueId) : Nat := queueCfg q + 0x8
def queueCqb (q : QueueId) : Nat := queueCfg q + 0x10
def queueSqp (q : QueueId) : Nat := queueCfg q + 0x18
def queueCqp (q : QueueId) : Nat := queueCfg q + 0x20

/-- CH_STAT, CI_STAT or CX_STAT. -/
def queueStat : QueueId → Nat
  | .chan c => Reg.chStat c.val
  | .comp i => Reg.ciStat i.val
  | .ciph i => Reg.cxStat i.val

/-- R487: the queue's event source. -/
def queueEvent : QueueId → Nat
  | .chan c => 128 + c.val / 4
  | .comp i => 260 + i.val
  | .ciph i => 196 + i.val

def State.chan (s : State) (c : Nat) : ChanState := SMap.get ChanState.reset s.io.chans c

def State.setChan (s : State) (c : Nat) (v : ChanState) : State :=
  { s with io := { s.io with chans := s.io.chans.set ChanState.reset c v } }

def State.compInst (s : State) (i : Nat) : InstState := SMap.get InstState.reset s.io.comp i

def State.setCompInst (s : State) (i : Nat) (v : InstState) : State :=
  { s with io := { s.io with comp := s.io.comp.set InstState.reset i v } }

def State.ciphInst (s : State) (i : Nat) : InstState := SMap.get InstState.reset s.io.ciph i

def State.setCiphInst (s : State) (i : Nat) (v : InstState) : State :=
  { s with io := { s.io with ciph := s.io.ciph.set InstState.reset i v } }

def State.qAssigned (s : State) (q : QueueId) : Bool := s.flag (queueCfg q) 32

def State.qParish (s : State) (q : QueueId) : Nat := s.fld (queueCfg q) 28 4

def State.qEnabled (s : State) (q : QueueId) : Bool := s.flag (queueCfg q) 0

def State.sqHead (s : State) (q : QueueId) : Nat := s.fld (queueSqp q) 32 32

def State.sqTail (s : State) (q : QueueId) : Nat := s.fld (queueSqp q) 0 32

def State.cqTail (s : State) (q : QueueId) : Nat := s.fld (queueCqp q) 32 32

def State.cqHead (s : State) (q : QueueId) : Nat := s.fld (queueCqp q) 0 32

/-- The completion slots reserved (R340). -/
def State.qReserved (s : State) (q : QueueId) : Nat :=
  match q with
  | .chan c => (s.chan c.val).reserved
  | .comp i => (s.compInst i.val).reserved
  | .ciph i => (s.ciphInst i.val).reserved

/-- R340: one more completion slot can be reserved. -/
def State.qRoom (s : State) (q : QueueId) : Bool :=
  decide ((s.cqTail q + s.qReserved q + 2 ^ 32 - s.cqHead q) % 2 ^ 32 < 2 ^ s.fld (queueCfg q) 16 5)

/-- R318, R336: a span of UC memory in the granule of the Commons lies in the four Commons. -/
def State.commonsOk (s : State) (p base len : Nat) : Bool :=
  let pa := (s.translate p base).2
  !isCommons pa || decide (pa + len ≤ commonsBase + 0x2000000)

/-- R336: a ring at word-aligned base register value with 2^k entries of `size` bytes. -/
def State.ringOk (s : State) (p base k size : Nat) : Bool :=
  decide (4 ≤ k ∧ k ≤ 16) && decide (base % (size * 2 ^ k) = 0) && s.spanOk p base (size * 2 ^ k) &&
    s.commonsOk p base (size * 2 ^ k)

def ringBase (v : Reg64) : Nat := bits v 6 42 * 64

/-- R337, R338, R340: sets a status bit of the queue and raises its event. -/
def State.qFlag (s : State) (q : QueueId) (i : Nat) : State := s.setEv (queueStat q) i (queueEvent q)

/-- R337: work of the queue that is still open: accepted orders, or descriptors begun that HEAD has not passed. -/
def State.qBusy (s : State) (q : QueueId) : Bool :=
  match q with
  | .chan c => decide (s.fld (Reg.chSeq c.val) 48 11 ≠ 0) || decide ((s.chan c.val).waiting ≠ []) || (s.chan c.val).prog.isSome
  | .comp i => decide ((s.compInst i.val).comp ≠ [])
  | .ciph i => decide ((s.ciphInst i.val).ciph ≠ [])

/-- R10: a ring size of a CFG write; a reserved encoding keeps the previous value. -/
def sizeField (old new : Nat) : Nat := if 4 ≤ new ∧ new ≤ 16 then new else old

/-- R337: SQK and CQK that a CFG write asks for. -/
def State.cfgSizes (s : State) (q : QueueId) (v : Reg64) : Nat × Nat :=
  (sizeField (s.fld (queueCfg q) 8 5) (bits v 8 5), sizeField (s.fld (queueCfg q) 16 5) (bits v 16 5))

/-- R337: a write of CH_CFG, CI_CFG or CX_CFG is refused: it would change a ring's size while EN is 1, or set EN where
a ring breaks R336 or work is still open. -/
def State.cfgRefused (s : State) (q : QueueId) (v : Reg64) : Bool :=
  let (sqk, cqk) := s.cfgSizes q v
  let p := s.qParish q
  if s.qEnabled q then sqk != s.fld (queueCfg q) 8 5 || cqk != s.fld (queueCfg q) 16 5
  else bit v 0 && !(s.ringOk p (ringBase (s.reg (queueSqb q))) sqk 64 &&
    s.ringOk p (ringBase (s.reg (queueCqb q))) cqk 32 && !s.qBusy q)

/-- R337, R398, R422: a write of CH_CFG, CI_CFG or CX_CFG, FLUSH aside. -/
def State.qConfig (s : State) (q : QueueId) (v : Reg64) : State :=
  let cfg := queueCfg q
  let (sqk, cqk) := s.cfgSizes q v
  let put (s : State) : State := ((s.setFld cfg 8 5 sqk).setFld cfg 16 5 cqk).setFlag cfg 0 (bit v 0)
  if s.cfgRefused q v then s.qFlag q 2
  else if !s.qEnabled q && bit v 0 then
      let s := ((put s).setReg (queueSqp q) 0#64).setReg (queueCqp q) 0#64
      match q with
      | .chan c => s.setChan c.val { s.chan c.val with begun := 0, retake := 0 }
      | .comp i => s.setCompInst i.val { s.compInst i.val with flush := 0 }
      | .ciph i => s.setCiphInst i.val { s.ciphInst i.val with flush := 0, wait := .reset }
  else put s

/-- R337: a write of a ring base. -/
def State.qBase (s : State) (q : QueueId) (off : Nat) (v : Reg64) : State :=
  if s.qEnabled q then s.qFlag q 2 else s.setReg off (v &&& 0xFFFFFFFFFFC0#64)

/-- R338: a doorbell. -/
def State.qDoorbell (s : State) (q : QueueId) (t : Nat) : State :=
  let h := s.sqHead q
  let new := (t + 2 ^ 32 - h) % 2 ^ 32
  let old := (s.sqTail q + 2 ^ 32 - h) % 2 ^ 32
  if s.qEnabled q && decide (new ≤ 2 ^ s.fld (queueCfg q) 8 5 ∧ old ≤ new) then s.setFld (queueSqp q) 0 32 t
  else (s.countSat (queueStat q) 32 16).qFlag q 1

/-- R340: a write of the completion ring's HEAD; past TAIL or backward it is refused. -/
def State.qHead (s : State) (q : QueueId) (h : Nat) : State :=
  let old := s.cqHead q
  if (h + 2 ^ 32 - old) % 2 ^ 32 ≤ (s.cqTail q + 2 ^ 32 - old) % 2 ^ 32 then s.setFld (queueCqp q) 0 32 h
  else s.qFlag q 2

/-- R340: writes a completion entry at TAIL; `w3` lacks PHASE. -/
def State.qEntryAt (s : State) (q : QueueId) (t m : Nat) (w0 w1 w2 w3 : BitVec 64) : State :=
  let k := s.fld (queueCfg q) 16 5
  let a := ringBase (s.reg (queueCqb q)) + 32 * (t % 2 ^ k)
  let phase := !(t.testBit k)
  let ws := [w0, w1, w2, putBit w3 63 phase].map Word.raw
  let put (s : State) (pa : Nat) : State :=
    let half := pa / 32 % 2
    let line := if half = 0 then ws ++ List.replicate 4 Word.raw0 else List.replicate 4 Word.raw0 ++ ws
    (if isCommons pa then s else (s.waitIf (s.mirrorFull (pa / 64))).settle (pa / 64)).homeWrite (pa / 64) (if half = 0 then 0x0F#8 else 0xF0#8) line m
  match s.translate (s.qParish q) a with
  | (.wb, pa) => put s pa
  | (.uc, pa) => put s pa
  | _ => s

/-- R355: the completion ring's TAIL has become `t`: where it enters a new line, the next two lines of the ring are
fetched into the Granary for master `m`. -/
def State.ringAhead (s : State) (q : QueueId) (t m : Nat) : State :=
  let size := 32 * 2 ^ s.fld (queueCfg q) 16 5
  if t % 2 = 1 then s
  else
    [1, 2].foldl (fun s i =>
      match s.translate (s.qParish q) (ringBase (s.reg (queueCqb q)) + (32 * t + 64 * i) % size) with
      | (.wb, pa) => s.pfg m (pa / 64)
      | (.uc, pa) => s.pfg m (pa / 64)
      | _ => s) s

/-- R340: the next completion entry. -/
def State.qEntry (s : State) (q : QueueId) (m : Nat) (w0 w1 w2 w3 : BitVec 64) : State :=
  let t := s.cqTail q
  let s := (s.qEntryAt q t m w0 w1 w2 w3).setFld (queueCqp q) 32 32 (t + 1)
  match q with
  | .chan c => (s.tal 9 c.val).ringAhead q (t + 1) m
  | _ => s

end Sys2Proof.Machine
end

