-- ==== Sys2Proof/Machine/RootPort.lean ====
section
/-! DEFINITION. The configuration space of a root port: the type 1 header and the AER capability (R332, R333). The spec
names them and gives no layout: PRESUMED (log 78), that of PCI Express, with its reset values. -/

namespace Sys2Proof.Machine

/-- Where the configuration word of a link's root port stands in `ecam`. -/
def rootWord (pl off : Nat) : Nat := 512 * pl + off % 0x1000 / 8

/-- Where the AER capability stands: at the start of extended configuration space. -/
def aerBase : Nat := 0x100

/-- The reset value of configuration word `off`: header type 1, class 0x060400, 64-bit prefetchable window, the AER
capability's identity, its severities and its correctable masks; the identity of the vendor is left out. -/
def rootReset (off : Nat) : Reg64 :=
  if off = 0x08 then 0x0001000006040000#64
  else if off = 0x20 then 0x0001000100000000#64
  else if off = aerBase then 0x0000000000010001#64
  else if off = aerBase + 0x08 then 0x0046203000000000#64
  else if off = aerBase + 0x10 then 0x0000E00000000000#64
  else 0#64

/-- The bits of configuration word `off` that a write sets. -/
def rootRw (off : Nat) : Reg64 :=
  if off = 0 then 0x0000054700000000#64
  else if off = 0x08 then 0x000000FF00000000#64
  else if off = 0x18 then 0x0000000000FFFFFF#64
  else if off = 0x20 then 0xFFF0FFF0FFF0FFF0#64
  else if off = 0x28 then 0xFFFFFFFFFFFFFFFF#64
  else if off = 0x38 then 0x004300FF00000000#64
  else if off = aerBase + 0x08 then 0x047FF030047FF030#64
  else if off = aerBase + 0x10 then 0x0000F1C100000000#64
  else if off = aerBase + 0x28 then 0x0000000700000000#64
  else 0#64

/-- The bits of configuration word `off` that a write of 1 clears. -/
def rootW1c (off : Nat) : Reg64 :=
  if off = 0 ∨ off = 0x18 then 0xF900000000000000#64
  else if off = aerBase then 0x047FF03000000000#64
  else if off = aerBase + 0x10 then 0x000000000000F1C1#64
  else if off = aerBase + 0x30 then 0x000000000000007F#64
  else 0#64

/-- A word of a root port's configuration space; the map holds what differs from its reset value. -/
def State.header (s : State) (pl reg : Nat) : Reg64 :=
  SMap.get 0#64 s.io.ecam (rootWord pl reg) ^^^ rootReset (8 * (reg % 0x1000 / 8))

def State.putHeader (s : State) (pl reg : Nat) (v : Reg64) : State :=
  { s with io := { s.io with ecam := s.io.ecam.set 0#64 (rootWord pl reg) (v ^^^ rootReset (8 * (reg % 0x1000 / 8))) } }

/-- R333: what a load of configuration word `reg` reads: with the free identity of the vendor in the first. -/
def State.readHeader (s : State) (pl reg : Nat) : Reg64 :=
  if reg % 0x1000 / 8 = 0 then s.header pl reg ||| Config.rootId.setWidth 64 else s.header pl reg

/-- R333: a store of configuration word `reg`: two consecutive 32-bit registers. -/
def State.writeHeader (s : State) (pl reg : Nat) (v : Reg64) : State :=
  let off := 8 * (reg % 0x1000 / 8)
  s.putHeader pl reg (((s.header pl reg &&& ~~~rootRw off) &&& ~~~(rootW1c off &&& v)) ||| (v &&& rootRw off))

/-- What an error leaves in the AER capability: bits of Uncorrectable Error Status and of Root Error Status. -/
structure AerBits where
  unc : Nat
  root : Nat
deriving DecidableEq, Repr

/-- R332: bit 19, ECRC Error Status. -/
def aerEcrc : AerBits := { unc := 2 ^ 19, root := 0 }

/-- R333: bit 14, Completion Timeout Status. -/
def aerTimeout : AerBits := { unc := 2 ^ 14, root := 0 }

/-- R333: bit 15, Completer Abort Status. -/
def aerAbort : AerBits := { unc := 2 ^ 15, root := 0 }

/-- R333: bit 20, Unsupported Request Error Status. -/
def aerUnsupported : AerBits := { unc := 2 ^ 20, root := 0 }

/-- R332: a message received: ERR_COR Received; else ERR_FATAL/NONFATAL Received with the severity's own bit. -/
def aerMessageBits : AerSev → AerBits
  | .cor => { unc := 0, root := 1 }
  | .nonfatal => { unc := 0, root := 4 + 2 ^ 5 }
  | .fatal => { unc := 0, root := 4 + 2 ^ 4 + 2 ^ 6 }

/-- The bits of Root Error Status after a message: a second one of its kind also sets Multiple, and only the first
uncorrectable one can set First Uncorrectable Fatal. -/
def rootStatus (old new : Nat) : Nat :=
  let multi := (if old.testBit 0 && new.testBit 0 then 2 else 0) + (if old.testBit 2 && new.testBit 2 then 8 else 0)
  let new := if old.testBit 2 then new &&& 0x6F else new
  old ||| new ||| multi

/-- R332, R333: an error is logged in the AER capability of a link's root port. -/
def State.logAer (s : State) (pl : Nat) (b : AerBits) : State :=
  let s := s.putHeader pl aerBase (s.header pl aerBase ||| BitVec.ofNat 64 (b.unc * 2 ^ 32))
  let r := s.header pl (aerBase + 0x30)
  s.putHeader pl (aerBase + 0x30) ((r &&& 0xFFFFFFFFFFFFFF80#64) ||| BitVec.ofNat 64 (rootStatus (bits r 0 7) b.root))

end Sys2Proof.Machine
end

