-- ==== Sys2Proof/Machine/Ledger.lean ====
section
/-! DEFINITION. The ledger and the life of an order (R343-R353, R365-R373). -/

namespace Sys2Proof.Machine

/-! ### Entries (R365-R367) -/

def chanQ (c : Nat) : QueueId := .chan (Fin.ofNat 256 c)

def State.ledgerAt (s : State) (c slot : Nat) : LedgerEntry :=
  SMap.get LedgerEntry.reset s.io.ledger (1024 * c + slot)

/-- R383: the entry is neither FREE nor CLOSED. -/
def LedgerEntry.outstanding (e : LedgerEntry) : Bool :=
  match e.st with
  | .free => false
  | .closed => false
  | _ => true

/-- Stores an entry; OUTST of its channel follows. -/
def State.setLedger (s : State) (c slot : Nat) (e : LedgerEntry) : State :=
  let old := (s.ledgerAt c slot).outstanding
  let s := { s with io := { s.io with ledger := s.io.ledger.set LedgerEntry.reset (1024 * c + slot) e } }
  let n := s.fld (Reg.chSeq c) 48 11
  s.setFld (Reg.chSeq c) 48 11 (n + e.outstanding.toNat - old.toNat)

/-- The entries of a channel that fit, lowest SEQ first. -/
def State.ledgerOf (s : State) (c : Nat) (f : LedgerEntry → Bool) : List (Nat × LedgerEntry) :=
  let mine := (s.io.ledger.filter (fun e => decide (e.1 / 1024 = c) && f e.2)).map (fun e => (e.1 % 1024, e.2))
  sortBy (fun a b => decide (a.2.seq.toNat ≤ b.2.seq.toNat)) mine

def LedgerSt.code : LedgerSt → Nat
  | .free => 0
  | .accepted => 1
  | .released => 2
  | .done => 3
  | .closed => 4

def ledgerStOf (n : Nat) : LedgerSt :=
  match n with
  | 1 => .accepted
  | 2 => .released
  | 3 => .done
  | 4 => .closed
  | _ => .free

/-- R366: the words of an entry. -/
def LedgerEntry.words (e : LedgerEntry) : List (BitVec 64) :=
  [BitVec.ofNat 64 (e.seq.toNat * 2 ^ 16 + e.epoch.toNat),
   BitVec.ofNat 64 (e.opc.toNat * 2 ^ 56 + e.st.code * 2 ^ 53 + e.halt.toNat * 2 ^ 49 + e.irq.toNat * 2 ^ 48 +
     e.reln.toNat * 2 ^ 40 + e.count.toNat),
   e.paddr.setWidth 64, e.param, e.user,
   BitVec.ofNat 64 (e.desc.toNat * 2 ^ 32 + e.ordidx.toNat * 2 ^ 20),
   BitVec.ofNat 64 (e.adet.toNat * 2 ^ 32 + e.status.toNat * 2 ^ 24 + e.xfer.toNat),
   BitVec.ofNat 64 (e.cqidx.toNat * 2 ^ 32 + e.trel.toNat)]

/-- R366: the entry words spell. -/
def ledgerOfWords (ws : List (BitVec 64)) : LedgerEntry :=
  let w (i : Nat) := ws.getD i 0#64
  let f (i lo n : Nat) := bits (w i) lo n
  { LedgerEntry.reset with
    st := ledgerStOf (f 1 53 3), seq := BitVec.ofNat 48 (f 0 16 48), epoch := BitVec.ofNat 16 (f 0 0 16),
    opc := BitVec.ofNat 8 (f 1 56 8), halt := f 1 49 1 == 1, irq := f 1 48 1 == 1, reln := BitVec.ofNat 8 (f 1 40 8),
    count := BitVec.ofNat 24 (f 1 0 24), paddr := BitVec.ofNat 48 (f 2 0 48), param := w 3, user := w 4,
    desc := BitVec.ofNat 32 (f 5 32 32), ordidx := BitVec.ofNat 12 (f 5 20 12), adet := BitVec.ofNat 32 (f 6 32 32),
    status := BitVec.ofNat 8 (f 6 24 8), xfer := BitVec.ofNat 24 (f 6 0 24), cqidx := BitVec.ofNat 32 (f 7 32 32),
    trel := BitVec.ofNat 32 (f 7 0 32) }

/-- R382: a W1C bit of LDG_STAT, with the group event of channel `c`. -/
def State.ledgerFlag (s : State) (c i : Nat) : State := s.setEv Reg.ldgStat i (128 + c / 4)

def State.epoch (s : State) : Nat := s.fld Reg.ldgStat 48 16

/-! ### Ports and links -/

/-- The port and link of a channel. -/
def State.chanLink (s : State) (c : Nat) : Nat := 4 * s.fld (Reg.chCfg c) 26 2 + s.fld (Reg.chCfg c) 24 2

def State.linkUpBit (s : State) (pl : Nat) : Bool := s.flag (Reg.cpLstat (pl / 4)) (16 * (pl % 4))

def State.link (s : State) (pl : Nat) : Link := SMap.get Link.reset s.io.links pl

def State.setLink (s : State) (pl : Nat) (l : Link) : State :=
  { s with io := { s.io with links := s.io.links.set Link.reset pl l } }

/-- R519: the payload of a TLP in units of 64 bytes, a last part counting as one (log 80). -/
def payloadUnits (bytes : Nat) : Nat := (bytes + 63) / 64

def UpRsp.payload : UpRsp → Nat
  | .data bs _ => bs.length
  | .ur => 0
  | .posted => 0

def DownTlp.payload : DownTlp → Nat
  | .write _ _ => 8
  | .cfgWrite _ _ => 8
  | .read _ => 0
  | .cfgRead _ => 0

/-- What an upstream request is answered with. -/
def State.answer (s : State) (pl : Nat) (r : UpRsp) : State :=
  (s.setLink pl { s.link pl with rsp := some r }).talN 8 (pl / 4) (payloadUnits r.payload)

/-- A downstream request leaves on a link. -/
def State.downstream (s : State) (pl : Nat) (t : DownTlp) : State :=
  (s.setLink pl { s.link pl with down := (s.link pl).down ++ [t] }).talN 8 (pl / 4) (payloadUnits t.payload)

/-- R519: a TLP of `n` payload bytes arrives on a link. -/
def State.received (s : State) (pl n : Nat) : State := s.talN 7 (pl / 4) (payloadUnits n)

/-- The ports act: SERVICE, not a standby, not stopped, and no takeover has still to restore the ledger (R462). -/
def State.portsRun (s : State) : Bool :=
  s.phase == phService && s.role != 2 && s.stop == .running && s.pair.takeT0.isNone

/-- R331: bifurcation creates the link. -/
def State.linkExists (s : State) (pl : Nat) : Bool :=
  match s.fld (Reg.cpCfg (pl / 4)) 0 2 with
  | 0 => pl % 4 == 0
  | 1 => decide (pl % 4 < 2)
  | _ => true

/-- R332, R473: an error is logged under AER. -/
def State.aer (s : State) (pl src acc : Nat) (b : AerBits) : State :=
  ((s.logAer pl b).raise (192 + pl / 4)).fault
    { src := src, acc := acc, master := masterId 1 pl, parish := none, pa := none, synd := 0 }

/-- The assigned channels of a link, in ascending number. -/
def State.linkChans (s : State) (pl : Nat) : List Nat :=
  (List.range 256).filter (fun c => s.flag (Reg.chCfg c) 32 && s.chanLink c == pl)

/-- The master of a channel's accesses (R476). -/
def State.chanMaster (s : State) (c : Nat) : Nat := masterId 1 (s.chanLink c)

/-! ### Descriptors and orders (R343-R345) -/

/-- R343: the descriptor at the head of a channel's ring, as far as it passes. -/
structure ProgramRef where
  addr : Nat
  count : Nat
  user : BitVec 64
deriving DecidableEq, Repr

/-- R343: PROG of a channel, cipher or compression descriptor: a current CAP of kind 0 with the permissions. -/
def State.dataCap (s : State) (p need : Nat) (w : Word) : Bool :=
  s.capCurrent p w && capKind w == 0 && decide (s.capPerms p w &&& need = need)

/-- R343: the checks of a channel descriptor; the failure status where one fails. -/
def State.checkDesc (s : State) (p : Nat) (ws : List Word) : Except Nat ProgramRef :=
  let w (i : Nat) := ws.getD i Word.raw0
  let nm1 := bits (w 1).val 36 12
  let poff := bits (w 1).val 0 36
  if ws.any Word.poisoned then .error 0x04
  else if !s.dataCap p 9 (w 0) then .error 0x10
  else if !(w 1).isFixRaw ∨ bits (w 1).val 48 16 ≠ 0 ∨ (w 2).isCap ∨
      !([3, 4, 5, 6, 7].all (fun i => (w i).isFixRaw && (w i).val == 0#64)) then .error 0x09
  else
    let e := s.capEntry p (capIndex (w 0))
    let bytes := 32 * (nm1 + 1)
    if e.len < 8 * poff + bytes then .error 0x03
    else if !s.spanOk p (e.lo + 8 * poff) bytes then .error 0x10
    else .ok { addr := e.lo + 8 * poff, count := nm1 + 1, user := (w 2).val }

/-- R343: USER of a failure entry: 0 when word 2 is CAP or POIS. -/
def failUser (ws : List Word) : BitVec 64 :=
  let w := ws.getD 2 Word.raw0
  if w.isCap || w.poisoned then 0#64 else w.val

/-- R345: the checks of an order; 0 where it passes, and its parish address. -/
def State.checkOrder (s : State) (p : Nat) (ws : List Word) : Nat × Nat :=
  let w (i : Nat) := ws.getD i Word.raw0
  let opc := bits (w 0).val 56 8
  let count := bits (w 0).val 0 24
  if ws.any Word.poisoned then (0x04, 0)
  else if !(w 0).isFixRaw ∨ opc < 1 ∨ 3 < opc ∨ bits (w 0).val 50 6 ≠ 0 ∨ bits (w 0).val 24 24 ≠ 0 ∨
      !(w 2).isFix ∨ (w 3).isCap then (0x09, 0)
  else if opc = 3 ∧ count ≠ 0 then (0x09, 0)
  else if count = 0 then (0, 0)
  else if !s.capCurrent p (w 1) ∨ capKind (w 1) ≠ 0 then (0x10, 0)
  else
    let e := s.capEntry p (capIndex (w 1))
    if (w 2).int < 0 ∨ e.len < (w 2).val.toNat + count then (0x03, 0)
    else if !hasPerm (effPerm (w 1) e) (if opc = 1 then pR else pW) then (0x10, 0)
    else
      let a := e.lo + (w 2).val.toNat
      if !s.spanOk p a count then (0x10, 0) else (0, a)

/-- R377: the entry of the order of descriptor `desc` with index `i`. -/
def State.knownEntry (s : State) (c desc i : Nat) : Option LedgerEntry :=
  (s.io.ledger.find? (fun e => e.1 / 1024 == c && e.2.st != .free && e.2.desc == BitVec.ofNat 32 desc &&
    e.2.ordidx == BitVec.ofNat 12 i)).map (·.2)

/-- R346, R378: an order that has an entry is a HALT order that has ended with a failure. -/
def LedgerEntry.halted (e : LedgerEntry) : Bool :=
  e.halt && e.status != 0 && (e.st == .done || e.st == .closed)

/-- R344: the order that four words spell, with the status and parish address its checks gave. -/
def orderOf (r : ProgRun) (ws : List Word) (st a : Nat) : OrderWait :=
  let h := (ws.getD 0 Word.raw0).val
  { status := BitVec.ofNat 8 st, desc := BitVec.ofNat 32 r.desc, ordidx := BitVec.ofNat 12 r.next,
    opc := BitVec.ofNat 8 (bits h 56 8), halt := bit h 49, irq := bit h 48,
    count := BitVec.ofNat 24 (bits h 0 24), paddr := BitVec.ofNat 48 a, param := (ws.getD 3 Word.raw0).val,
    user := r.user, sent := none }

/-- R340: a completion slot of the channel is reserved for an order, or a failed descriptor, that waits. -/
def State.pushOrder (s : State) (c : Nat) (o : OrderWait) : State :=
  let ch := s.chan c
  s.setChan c { ch with waiting := ch.waiting ++ [o], reserved := ch.reserved + 1 }

def State.setProg (s : State) (c : Nat) (r : Option ProgRun) : State := s.setChan c { s.chan c with prog := r }

/-- R340, R344-R346: the orders of the program in hand are taken and checked in turn, each once a completion slot can be
reserved; a failed HALT order aborts those after it. Where a takeover takes the descriptor again, an order that has an entry
is skipped (R377). `k` bounds the orders. -/
def State.takeOrders (c : Nat) : Nat → State → State
  | 0, s => s
  | k + 1, s =>
    match (s.chan c).prog with
    | none => s
    | some r =>
      if r.count ≤ r.next then s.setProg c none
      else match if r.again then s.knownEntry c r.desc r.next else none with
      | some e => State.takeOrders c k (s.setProg c (some { r with next := r.next + 1, halted := r.halted || e.halted }))
      | none =>
        if !s.qRoom (chanQ c) then s
        else
          let p := s.qParish (chanQ c)
          let who : Who := { master := s.chanMaster c, acc := 0xF, parish := some p }
          let (s, ws) := s.fetchWords p (r.addr + 32 * r.next) who 4
          let (st, a) := s.checkOrder p ws
          let st := if r.halted then 0x0A else st
          let o := orderOf r ws st a
          State.takeOrders c k
            ((s.pushOrder c o).setProg c (some { r with next := r.next + 1, halted := r.halted || (o.halt && st != 0) }))

/-! ### Acceptance (R346, R368) -/

/-- R339: HEAD passes each descriptor whose orders are all accepted or have their entries. -/
def State.chanHead (s : State) (c : Nat) : State :=
  let h := match (s.chan c).waiting, (s.chan c).prog with
    | o :: _, _ => o.desc.toNat
    | [], some r => r.desc
    | [], none => (s.chan c).begun.toNat
  s.setFld (Reg.chSqp c) 32 32 h

/-- R345, R346, R461: writes the failure entries of waiting orders and descriptors that have failed. -/
def State.flushFailed (c : Nat) : List OrderWait → State → State
  | [], s => s
  | o :: os, s =>
    if o.status = 0 ∨ s.pair.lossHold then State.flushFailed c os s
    else
      let s := s.qEntry (chanQ c) (s.chanMaster c) o.user 0#64 0#64
        (BitVec.ofNat 64 ((if o.whole then 0x1FFF else o.ordidx.toNat) * 2 ^ 28 + c * 2 ^ 8 + o.status.toNat))
      let ch := s.chan c
      let s := s.setChan c { ch with waiting := ch.waiting.filter (fun w => w ≠ o), reserved := ch.reserved - 1 }
      State.flushFailed c os (if o.irq then s.qFlag (chanQ c) 0 else s)

/-- The orders that can be taken are, and failure entries are written, while the ports act. -/
def State.flushChan (s : State) (c : Nat) : State :=
  if !s.portsRun then s.chanHead c
  else
    let s := State.takeOrders c 8192 s
    (State.flushFailed c (s.chan c).waiting s).chanHead c

/-- R346, R368: the ledger entry of an order that is accepted with the channel's next SEQ. -/
def State.newEntry (s : State) (c : Nat) (o : OrderWait) : Nat × LedgerEntry :=
  let n := s.fld (Reg.chSeq c) 0 48
  (n % 1024,
   { LedgerEntry.reset with
     st := .accepted, seq := BitVec.ofNat 48 n, epoch := BitVec.ofNat 16 s.epoch, opc := o.opc, halt := o.halt,
     irq := o.irq, count := o.count, paddr := o.paddr, param := o.param, user := o.user, desc := o.desc,
     ordidx := o.ordidx })

/-- R346, R368, R373: the next order could be accepted. -/
def State.acceptable (s : State) (c : Nat) : Bool :=
  let slot := s.fld (Reg.chSeq c) 0 48 % 1024
  !(s.ledgerAt c slot).outstanding && !s.flag (Reg.chSeq c) 63

/-- R368: an order is accepted; its SEQ is used. -/
def State.accept (s : State) (c : Nat) (o : OrderWait) : State :=
  let (slot, e) := s.newEntry c o
  let n := s.fld (Reg.chSeq c) 0 48
  let s := s.setLedger c slot e
  let s := if n + 1 = 2 ^ 48 then s.setFlag (Reg.chSeq c) 63 true else s.setFld (Reg.chSeq c) 0 48 (n + 1)
  let ch := s.chan c
  (s.setChan c { ch with waiting := ch.waiting.filter (fun w => w ≠ o) }).flushChan c

/-- R451: the channel record: CH_CFG, CH_SQB, CH_CQB, CH_SQP, CH_CQP, CH_SEQ, CH_ADB and 0. -/
def State.chanRegs (s : State) (c : Nat) : List (BitVec 64) :=
  [s.reg (Reg.chCfg c), s.reg (Reg.chSqb c), s.reg (Reg.chCqb c), s.reg (Reg.chSqp c), s.reg (Reg.chCqp c),
   s.reg (Reg.chSeq c), s.reg (Reg.chAdb c), 0#64]

/-- R369: the channel record that an update carries: as it stands once the order whose entry has been sent is accepted. -/
def State.chanRecord (s : State) (c : Nat) : List (BitVec 64) :=
  match (s.chan c).waiting.find? (fun o => o.sent.isSome) with
  | some o => (s.accept c o).chanRegs c
  | none => s.chanRegs c

/-- R369: the update of an entry goes to the partner. -/
def State.ledgerSend (s : State) (c slot : Nat) : State :=
  s.sendFrame (.ledger [{ chan := Fin.ofNat 256 c, slot := Fin.ofNat 1024 slot, entry := (s.ledgerAt c slot).words,
                          crec := s.chanRecord c }])

/-! ### Completion entries (R341, R353, R367) -/

/-- R341: the words of an order's completion entry but PHASE. -/
def LedgerEntry.cqe (e : LedgerEntry) (c : Nat) : BitVec 64 × BitVec 64 × BitVec 64 × BitVec 64 :=
  (e.user, BitVec.ofNat 64 (e.seq.toNat * 2 ^ 16 + e.epoch.toNat),
   BitVec.ofNat 64 (e.adet.toNat * 2 ^ 32 + e.xfer.toNat),
   BitVec.ofNat 64 (e.ordidx.toNat * 2 ^ 28 + c * 2 ^ 8 + e.status.toNat))

/-- R367, R369: the completion entry of a DONE order is written, its slot no longer reserved, and IRQ raises CPL. -/
def State.writeDone (s : State) (c slot : Nat) : State :=
  let e := s.ledgerAt c slot
  if e.st ≠ .done ∨ e.written then s
  else
    let (w0, w1, w2, w3) := e.cqe c
    let f := s.pair.nextId
    let s := s.qEntry (chanQ c) (s.chanMaster c) w0 w1 w2 w3
    let s := s.setChan c { s.chan c with reserved := (s.chan c).reserved - 1 }
    let s := s.setLedger c slot { e with written := true,
                                         frame := if s.pair.nextId = f then none else some (s.pair.nextId - 1) }
    if e.irq then s.qFlag (chanQ c) 0 else s

/-- R461: while the 12 µs after the loss of a standby run, no completion entry is written. -/
def State.settleDone (s : State) (c slot : Nat) : State := if s.pair.lossHold then s else s.writeDone c slot

/-- R366: the CQ count at which the next completion entry of a channel goes: after those DONE and not yet written. -/
def State.nextCq (s : State) (c : Nat) : Nat :=
  s.cqTail (chanQ c) + (s.ledgerOf c (fun e => e.st == .done && !e.written)).length

/-- R367, R369: an order ends: DONE, the update sent, then its completion entry. -/
def State.finishOrder (s : State) (c slot status : Nat) (adet : BitVec 32) (xfer : Nat) : State :=
  let e := s.ledgerAt c slot
  let s := s.setLedger c slot { e with st := .done, status := BitVec.ofNat 8 status, adet := adet,
                                       xfer := BitVec.ofNat 24 xfer,
                                       cqidx := BitVec.ofNat 32 (s.nextCq c), written := false, frame := none }
  (s.ledgerSend c slot).settleDone c slot

/-- R369: what was sent of an order that is not accepted after all is undone at the partner: the slot of NEXT goes there as
it stands here. -/
def State.withdraw (s : State) (c : Nat) : State :=
  let slot := s.fld (Reg.chSeq c) 0 48 % 1024
  let ch := s.chan c
  if ch.waiting.any (fun o => o.sent.isSome) then
    (s.setChan c { ch with waiting := ch.waiting.map (fun (o : OrderWait) => { o with sent := none }) }).ledgerSend c slot
  else s

/-- R346: a HALT order has failed: later orders of its program end ABORTED. -/
def State.haltAfter (s : State) (c : Nat) (desc : BitVec 32) (ordidx : BitVec 12) : State :=
  let later := s.ledgerOf c (fun e => e.st == .accepted && e.desc == desc && decide (ordidx.toNat < e.ordidx.toNat))
  let s := later.foldl (fun s e => s.finishOrder c e.1 0x0A 0 0) s
  let ch := s.chan c
  let hit (o : OrderWait) : Bool := decide (o.desc = desc ∧ ordidx.toNat < o.ordidx.toNat) && o.status == 0
  let s := if ch.waiting.any (fun o => hit o && o.sent.isSome) then s.withdraw c else s
  let s := s.setChan c { s.chan c with
    waiting := (s.chan c).waiting.map (fun o => if hit o then { o with status := 0x0A } else o),
    prog := (s.chan c).prog.map (fun r => if r.desc = desc.toNat then { r with halted := true } else r) }
  s.flushChan c

/-- R346, R353: an order ends with a status; HALT aborts the rest of its program. -/
def State.endOrder (s : State) (c slot status : Nat) (adet : BitVec 32) (xfer : Nat) : State :=
  let e := s.ledgerAt c slot
  let s := s.finishOrder c slot status adet xfer
  if e.halt && status != 0 then s.haltAfter c e.desc e.ordidx else s

/-! ### Release (R346, R370) -/

/-- R349: the issue tail is written to the adapter's doorbell, where its link is up. -/
def State.issueTail (s : State) (c : Nat) : State :=
  let a := s.reg (Reg.chAdb c)
  if a = 0#64 ∨ !s.linkUpBit (s.chanLink c) then s
  else s.downstream (s.chanLink c) (.write a (BitVec.ofNat 64 (((s.chan c).lastRel + 1) % 2 ^ 32)))

/-- R346, R350, R370: an ACCEPTED order is released for the first time in the epoch. -/
def State.release (s : State) (c slot : Nat) : State :=
  let e := s.ledgerAt c slot
  let s := s.setLedger c slot { e with st := .released, epoch := BitVec.ofNat 16 s.epoch, reln := 1,
                                       trel := BitVec.ofNat 32 s.ts.toNat, poison := false, corrupt := false,
                                       overrun := false }
  let s := s.setChan c { s.chan c with lastRel := e.seq.toNat }
  (s.ledgerSend c slot).issueTail c

/-- R461, R465: orders are being released. -/
def State.releasing (s : State) : Bool := s.portsRun && !s.pair.lossHold && !s.pair.switching

/-- R346, R372: the order due for release: the ACCEPTED order with the lowest SEQ, where its link is up. -/
def State.due (s : State) (c : Nat) : Option Nat :=
  if s.releasing && !(s.chan c).spent && s.linkUpBit (s.chanLink c) then
    ((s.ledgerOf c (fun e => e.st == .accepted)).head?).map (·.1)
  else none

/-- R370: one RELEASED order is shown again: RELN, TREL, or RETRY_EXHAUSTED. -/
def State.republish (s : State) (c slot : Nat) : State :=
  let e := s.ledgerAt c slot
  if s.fld Reg.ldgCfg 16 8 < e.reln.toNat + 1 then (s.endOrder c slot 0x11 0 0).ledgerFlag c 1
  else
    let s := s.setLedger c slot { e with reln := e.reln + 1, trel := BitVec.ofNat 32 s.ts.toNat }
    (s.countSat Reg.ldgStat 16 16).ledgerSend c slot

/-- R370: a link has come up: its channels' RELEASED orders are republished and its held orders released. -/
def State.linkRelease (s : State) (c : Nat) : State :=
  let s := (s.ledgerOf c (fun e => e.st == .released)).foldl (fun s e => s.republish c e.1) s
  let s := if s.releasing && !(s.chan c).spent then
      (s.ledgerOf c (fun e => e.st == .accepted)).foldl (fun s e =>
        if (s.ledgerAt c e.1).st = .accepted then s.release c e.1 else s) s
    else s
  s.issueTail c

/-- R339, R343: the channel takes the descriptor at the head of its ring; one that fails its checks waits as a whole for
its entry. -/
def State.takeDesc (s : State) (c : Nat) : State :=
  let q := chanQ c
  let p := s.qParish q
  let d := (s.chan c).begun.toNat
  let who : Who := { master := s.chanMaster c, acc := 0xF, parish := some p }
  let a := ringBase (s.reg (queueSqb q)) + 64 * (d % 2 ^ s.fld (queueCfg q) 8 5)
  let (s, ws) := s.fetchWords p a who 8
  let again := decide ((s.chan c).retake ≠ 0)
  let s := s.setChan c { s.chan c with begun := (s.chan c).begun + 1, retake := (s.chan c).retake - 1 }
  let s := match s.checkDesc p ws with
    | .error st =>
      s.pushOrder c { whole := true, status := BitVec.ofNat 8 st, desc := BitVec.ofNat 32 d, ordidx := 0, opc := 0,
                      halt := false, irq := false, count := 0, paddr := 0, param := 0, user := failUser ws, sent := none }
    | .ok r =>
      s.setProg c (some { desc := d, addr := r.addr, count := r.count, next := 0, user := r.user, halted := false,
                          again := again })
  s.flushChan c

end Sys2Proof.Machine
end

