-- ==== Sys2Proof/Machine/Ops.lean ====
section
/-! DEFINITION. Waiting, retries of an instruction (R209-R216), taking an exception and the boundary events (R170-R184),
retirement (R70), and the frame every instruction runs in. -/

namespace Sys2Proof.Machine

/-! ### Retry (R209-R216) -/

/-- R211: what has not retired is discarded; the registers stand as the last checkpoint has them. -/
def State.rollBack (s : State) (n : Nat) : State :=
  s.setCore n { s.core n with resv := none, atLimit := false, routine := none }

/-- R216, R487: a transplant starts: the logical core pauses. -/
def State.startTransplant (s : State) (n bit : Nat) : State :=
  let s := s.rollBack n
  let s := s.setCore n { s.core n with run := .paused, target := none, thrHit := false }
  (s.setEv (Reg.rtyStat (s.physOf n)) bit (s.physOf n)).raise (s.physOf n)

/-- R215: the retries of a core in the last 600,000 SCLK cycles. -/
def State.recentRetries (s : State) (n : Nat) : List Nat :=
  (s.core n).retryTimes.filter (fun t => decide (s.ts.toNat < t + 600000))

/-- R215: RTY_CFG.THR is reached. -/
def State.rateReached (s : State) (n : Nat) : Bool :=
  let thr := s.fld (Reg.rtyCfg (s.physOf n)) 0 16
  thr != 0 && decide (thr ≤ (s.recentRetries n).length)

/-- R210, R215: a detector fires for an instruction that has not retired. DESIGN CHOICE (log 91): a rate that was reached goes
before three failed retries. -/
def State.retryOnce (s : State) (n det : Nat) : State :=
  let p := s.physOf n
  let s := (s.rollBack n).setFld (Reg.rtyStat p) 28 4 det
  let c := s.core n
  if c.thrHit then s.startTransplant n 25
  else if c.attempts = 3 then s.startTransplant n 24
  else
    let s := s.setCore n { c with attempts := c.attempts + 1, detector := BitVec.ofNat 4 det,
                                  retryTimes := s.recentRetries n ++ [s.ts.toNat] }
    let s := s.setCore n { s.core n with thrHit := s.rateReached n }
    (s.countSat (Reg.rtyStat p) 48 16).pmc p 9

/-! ### Waiting (log 64) -/

/-- R309: an access opens a mend of a line: it stands in the line's way until the partner answers. -/
def State.holdMend (s : State) (line master acc : Nat) : State :=
  if s.lineBusy line then s
  else
    let t : Txn := { req := { kind := .pfg, master := BitVec.ofNat 12 master, line := line }, way := none, await := [],
                     wbp := [], got := [], victim := none, answered := false }
    ((s.setTxn line t).burstRead line { master := master, acc := acc, parish := s.ownerOf (64 * line) }).1

/-- What a command that must wait leaves behind: nothing; GRN_STAT.CAPWAIT; the mend it opened; or the bad line dropped and
its instruction retried. -/
def State.resolve (s : State) : Wait → State
  | .hold => s
  | .cap line =>
    let sl := sliceOf (64 * line)
    if s.flag (Reg.grnStat sl) 1 then s else s.setEv (Reg.grnStat sl) 1 (48 + sl)
  | .mend line master acc => s.holdMend line master acc
  | .l2 p line =>
    let s := (s.l2Drop p line).loseLine p line
    match s.logicalOf p with
    | some n => s.retryOnce n 2
    | none => s

/-- What stands after `t` has been worked out from `s`: `t`, or, where it had to wait, what that leaves. -/
def State.settled (s t : State) : State :=
  match t.waiting with
  | none => t
  | some w => s.resolve w

/-- What does not wait takes place in spite of what stands in its way. -/
def State.forced (s : State) (f : State → State) : State := { f s with waiting := none }

/-- A command whose whole effect takes place at once, or waits. -/
def State.whole (s : State) (f : State → State) : State := s.settled (f s)

/-! ### Exceptions (R170-R177) -/

/-- What an exception carries: its vector, and the fields of the cause word (R173); `ea` where R172 places the
effective address in X; `a` and `x` where R120 or R141 name them. -/
structure Exc where
  vec : Nat
  acc : Nat := 0xF
  step : Nat := 0
  detail : Nat := 0
  ea : Option Int := none
  a : Word := Word.raw0
  x : Option Word := none
deriving DecidableEq, Repr

/-- R170. -/
def vDflt : Nat := 0x01
def vMchk : Nat := 0x02
def vCapf : Nat := 0x03
def vTagf : Nat := 0x04
def vGen : Nat := 0x05
def vOvf : Nat := 0x06
def vDz : Nat := 0x07
def vShc : Nat := 0x08
def vFpx : Nat := 0x09
def vAlloc : Nat := 0x0A
def vHedge : Nat := 0x0B
def vEvac : Nat := 0x0C
def vIll : Nat := 0x0D
def vAlgn : Nat := 0x0E
def vDevf : Nat := 0x0F
def vUcode : Nat := 0x10
def vLoopf : Nat := 0x11
def vRvk : Nat := 0x12

/-- R173. -/
def causeWord (e : Exc) (b : BankId) : Word :=
  Word.fix (BitVec.ofNat 64 (e.acc * 2 ^ 36 + e.step * 2 ^ 32 + e.detail * 2 ^ 16 + b.code * 2 ^ 8 + e.vec))

/-- R172: X at entry. An effective address beyond a FIX is a value the spec does not state (log 3). -/
def State.excX (s : State) (e : Exc) : State × Word :=
  match e.x, e.ea with
  | some w, _ => (s, w)
  | none, some a =>
    if -(2 ^ 63) ≤ a ∧ a < 2 ^ 63 then (s, Word.fix (BitVec.ofInt 64 a)) else (s.fresh, Word.fix s.freeVal)
  | none, none => (s, Word.fix 0)

/-- R172: the registers of the bank that is entered. -/
def Bank.enter (b : Bank) (vb : Word) (pc : Nat) (a x y : Word) : Bank :=
  { b with pcCap := vb, pc := BitVec.ofNat 48 pc, a := a, x := x, y := y, p := 1#8, lc := 0,
           st := putBit (putBit (putBits b.st 16 32 0) 3 false) 0 true }

/-- R170: the handler's address, where VB is current, of kind code, carries X and covers it. -/
def State.handler (s : State) (n vec : Nat) : Option Nat :=
  let p := s.parishOf n
  let vb := (s.core n).vb
  let e := s.capEntry p (capIndex vb)
  let a := e.lo + 0x100 * vec
  if s.capCurrent p vb ∧ capKind vb = 1 ∧ hasPerm (effPerm vb e) pX ∧ a + 4 ≤ e.lo + e.len then some a else none

/-- R177, R282: the core's retired stores and its combining buffer drain to home, and it stops; source 0x03, and the
event source of its physical core. -/
def State.checkstop (s : State) (n : Nat) : State :=
  let s := s.drainAll n
  let s := s.setCore n { s.core n with run := .checkstopped, resv := none, divider := none, atLimit := false, routine := none }
  (s.raise (s.physOf n)).coreFault n 0x03 0xF none

/-- R170: the address of a vector's handler, by VB's entry. -/
def State.handlerAt (s : State) (n vec : Nat) : Nat :=
  (s.capEntry (s.parishOf n) (capIndex (s.core n).vb)).lo + 0x100 * vec

/-- R176: entry to the double-fault bank at DFLT; the core checkstops in it where that handler's address fails the VB
checks. -/
def State.enterDouble (s : State) (n : Nat) (x y : Word) : State :=
  let ok := s.handler n vDflt
  let a := ok.getD (s.handlerAt n vDflt)
  let c := s.core n
  let s := s.setCore n { c with df := true, resv := none, dbl := c.dbl.enter c.vb a Word.raw0 x y }
  if ok.isSome then s.target n 5 vDflt a else s.checkstop n

/-- R172, R176: entry to the shadow bank. -/
def State.enterShadow (s : State) (n a : Nat) (e : Exc) (x y : Word) : State :=
  let c := s.core n
  s.setCore n { c with sb := true, resv := none, shad := c.shad.enter c.vb a e.a x y }

/-- R176: a core takes an exception; `sync` for a synchronous one. Where the shadow bank's handler fails the VB checks,
that bank has been entered, and the double-fault bank follows. The retries of R210 were those of the instruction that does
not retire: the handler's first has three of its own, and no NOTICE is recorded (log 34). -/
def State.takeExc (s : State) (n : Nat) (sync : Bool) (e : Exc) : State :=
  let s := s.settleDiv n
  let c := s.core n
  let s := s.setCore n { c with routine := none, attempts := 0 }
  if c.df then s.checkstop n
  else
    let y := causeWord e c.curId
    let (s, x) := s.excX e
    let s := s.pmc (s.physOf n) 7
    if sync && (c.sb || c.em) then s.enterDouble n x y
    else
      let ok := s.handler n e.vec
      let a := ok.getD (s.handlerAt n e.vec)
      let s := s.enterShadow n a e x y
      if ok.isSome then s.target n 5 e.vec a else s.enterDouble n x y

/-! ### Boundary events (R175, R179, R489) -/

/-- R496: an enabled route. -/
structure Route where
  src : Nat
  parish : Nat
  lcore : Nat
  vec : Nat
deriving DecidableEq, Repr

/-- R489, R475: the routes in force: EN, and good parity. -/
def State.routes (s : State) : List Route :=
  ((s.regs.filter (fun e => decide (Reg.evRoute 0 ≤ e.1 ∧ e.1 < Reg.evRoute 384 ∧ e.1 ∉ s.badRoutes) && bit e.2 16))).map
    (fun e => { src := (e.1 - Reg.evRoute 0) / 8, parish := bits e.2 12 4, lcore := bits e.2 6 6, vec := bits e.2 0 5 })

def State.pendBit (s : State) (src : Nat) : Bool := s.flag (Reg.evPend (src / 64)) (src % 64)

/-- R489, R179: the lowest vector of an interrupt pending at logical core `n`. -/
def State.irq (s : State) (n : Nat) : Option Nat :=
  ((s.routes.filter (fun r => r.lcore == n && s.pendBit r.src)).map (·.vec)).min?

/-- The events of R179. -/
inductive BEvent where
  | fpx
  | rvk (mask : BitVec 8)
  | mchk (m : MchkPend)
  | irq (vec : Nat)
deriving DecidableEq, Repr

/-- R175: the first deferrable event the core would take now; an instruction being retried takes none (R212), nor one in
the middle of a routine (R199). -/
def State.deferrable (s : State) (n : Nat) : Option BEvent :=
  let c := s.core n
  if c.em || c.sb || c.df || c.attempts != 0 || c.routine.isSome then none
  else match c.rvk, c.mchk, s.irq n with
    | some m, _, _ => some (.rvk m)
    | none, some m, _ => some (.mchk m)
    | none, none, some v => some (.irq v)
    | none, none, none => none

/-- R116, R179: the event taken at this boundary; `fp` where the next instruction delivers an FPX. DESIGN CHOICE (log 88): the
FPX goes before each of R179's events. -/
def State.boundary (s : State) (n : Nat) (fp : Bool) : Option BEvent :=
  let c := s.core n
  let d := s.deferrable n
  if c.fpx && !c.em && (fp || d.isSome) then some .fpx else d

/-- R179, R184, R485, R486: takes a boundary event. -/
def State.takeEvent (s : State) (n : Nat) : BEvent → State
  | .fpx => (s.setCore n { s.core n with fpx := false }).takeExc n true { vec := vFpx }
  | .rvk m => (s.setCore n { s.core n with rvk := none }).takeExc n false { vec := vRvk, detail := m.toNat }
  | .mchk m =>
    (s.setCore n { s.core n with mchk := none }).takeExc n false
      { vec := vMchk, acc := m.acc.toNat, detail := m.src.toNat * 256 + 1, x := some (Word.fix m.x) }
  | .irq v => s.takeExc n false { vec := 0x20 + v }

/-! ### Retirement (R70, R180, R202) -/

/-- R70: the next PC and LC of a bank after an instruction that transfers nothing; and whether LE looped back,
where a loop is active at LE (R521). -/
def Bank.loopNext (b : Bank) : Bank × Option Bool :=
  if b.lc ≠ 0 ∧ b.pc = b.le then
    if 1 < b.lc.toNat then ({ b with lc := b.lc - 1, pc := b.ls }, some true)
    else ({ b with lc := 0, pc := b.le + 4 }, some false)
  else ({ b with pc := b.pc + 4 }, none)

/-- R227, R229, R519: the line of the core's PC is brought into its L1I, where its L2 holds it; a miss is counted. -/
def State.fetchLine (s : State) (n : Nat) : State :=
  let p := s.physOf n
  match s.translate (s.parishOf n) (s.cur n).pc.toNat with
  | (.wb, pa) =>
    if s.cachesOn p then
      let s := if ((s.physCore p).l1i.lines.find (pa / 64)).isSome then s else s.pmc p 4
      let c := s.physCore p
      if (c.l2.find (pa / 64)).isSome then s.setPhys p { c with l1i := c.l1i.access (pa / 64) } else s
    else s
  | _ => s

/-- What every retirement does: counts, ends the bank's micro-save record, fetches what follows, records a retry that
succeeded, and starts a transplant that R215 has called for. -/
def State.retired (s : State) (n : Nat) : State :=
  let s := s.pmc (s.physOf n) 2
  let c := s.core n
  let s := s.setCore n { c.setSave c.curId .none with
    attempts := 0, atLimit := false, routine := none,
    devHeld := c.devHeld.filter (fun h => h.1.val != c.curId.code) }
  let s := s.fetchLine n
  let s := if c.attempts = 0 then s
    else s.fault { src := 0x01, acc := 0xF, master := masterId 0 (s.physOf n), parish := some (s.parishOf n),
                   pa := none, synd := c.detector.toNat }
  if c.thrHit then s.startTransplant n 25 else s

/-- An instruction retires without a control transfer. -/
def State.retire (s : State) (n : Nat) : State :=
  let (b, looped) := (s.cur n).loopNext
  let s := (s.setCur n b).retired n
  match looped with
  | some t => s.branchBit n t
  | none => s

/-- An instruction retires with a control transfer to `a` in the current code capability or through `cap`. -/
def State.retireTo (s : State) (n : Nat) (cap : Word) (a : Nat) : State :=
  (s.setCur n { s.cur n with pcCap := cap, pc := BitVec.ofNat 48 a }).retired n

/-! ### The instruction monad -/

/-- An instruction's effect: it answers, or raises an exception with the state as it then stands. -/
abbrev M := EStateM Exc State

def raiseExc {α : Type} (e : Exc) : M α := throw e

/-- Applies a state update. -/
def act (f : State → State) : M Unit := modify f

/-- Applies an update that answers. -/
def actGet {α : Type} (f : State → State × α) : M α := fun s => let (t, a) := f s; .ok a t

/-! ### Running one instruction (R47, R48, R50-R52, R179) -/

/-- Core `n` executes instructions: SERVICE, not a standby, nothing stopped, no DEV load outstanding, no sweep of its
caches (R248). -/
def State.runnable (s : State) (n : Nat) : Bool :=
  let c := s.core n
  s.phase == phService && s.role != 2 && s.stop == .running && c.run == .running && c.devLoad.isNone && !c.atLimit &&
    !s.flag (Reg.cctl (s.physOf n)) 1

/-- R270: the words of a WBK of the line that is on its way to home or waits there, the latest. -/
def State.wbkWords (s : State) (line : Nat) : Option (List Word) :=
  let flying := s.coh.msgs.reverse.findSome? (fun m =>
    match m.kind with
    | .wbk ws _ => if m.line = line then some ws else none
    | .sdata ws => if m.line = line then some ws else none
    | _ => none)
  flying.or (s.coh.wbks.reverse.findSome? (fun w => if w.line = line then some w.words else none))

/-- The word a core on `p` would find at a physical word address, without any effect: its own line, another core's dirty
line, dirty words on their way home, or home's (R246). -/
def State.viewBase (s : State) (p w : Nat) : Word :=
  let line := w / 8
  match (s.physCore p).l2.find line with
  | some l => l.data.getD (w % 8) Word.raw0
  | none =>
    match (s.phys.find? (fun e => match e.2.l2.find line with
      | some l => l.st == .m
      | none => false)).bind (fun e => e.2.l2.find line) with
    | some l => l.data.getD (w % 8) Word.raw0
    | none =>
      match s.wbkWords line, s.mem.merge.find? (fun e => e.word == w) with
      | some ws, _ => ws.getD (w % 8) Word.raw0
      | none, some e => overlay (s.mem.peekWord w) e.bytes e.mask
      | none, none => s.mem.peekWord w

/-- R47, R57, R169: the checks of the fetch at PC: its physical address. DESIGN CHOICE (log 73): a PC that has run on
outside its code capability faults here and not before (R63, R70), and one that is no multiple of 4 is fetched as it
stands (R47). -/
def State.fetchSite (s : State) (n : Nat) : Except Exc Nat :=
  let p := s.parishOf n
  let b := s.cur n
  let a := b.pc.toNat
  let e := s.capEntry p (capIndex b.pcCap)
  let f (step detail : Nat) : Except Exc Nat :=
    .error { vec := vCapf, acc := 0, step := step, detail := detail, ea := if 3 ≤ step then some (a : Int) else none }
  if !s.capCurrent p b.pcCap then f 2 0x02
  else if capKind b.pcCap ≠ 1 then f 2 0x03
  else if a < e.lo ∨ e.lo + e.len < a + 4 then f 3 0x04
  else if !hasPerm (effPerm b.pcCap e) pX then f 4 0x05
  else
    match s.translate p a with
    | (.none, _) => .error { vec := vDevf, acc := 0, step := 6, ea := some (a : Int) }
    | (.dev, _) => .error { vec := vDevf, acc := 0, step := 6, ea := some (a : Int) }
    | (_, pa) => .ok pa

/-- R47, R311: what the fetch at PC raises: the fault of its checks, or the MCHK of a poisoned word, with its address. -/
def State.fetchFault (s : State) (n : Nat) : Option (Exc × Option Nat) :=
  match s.fetchSite n with
  | .error e => some (e, none)
  | .ok pa =>
    let w := s.viewBase (s.physOf n) (pa / 8)
    if w.poisoned then
      let src := if w.tag = Tag.pois then 0x12 else 0x13
      some ({ vec := vMchk, acc := 0, detail := src * 256, ea := some ((s.cur n).pc.toNat : Int) }, some (pa / 8 * 8))
    else none

/-- R230, R294, R297, R308: the fetch at PC reads its capability's entry and its word through their codes, where an error
stands anywhere; a word that the L1I serves is not read. -/
def State.fetchMeet (s : State) (n : Nat) : State :=
  if s.mem.sramErr = [] ∧ s.mem.dramErr = [] then s
  else
    let p := s.physOf n
    let s := s.tableMeet (s.parishOf n) (s.cur n).pcCap (s.coreWho n 0)
    match s.fetchSite n with
    | .error _ => s
    | .ok pa =>
      if s.cachesOn p && ((s.physCore p).l1i.lines.find (pa / 64)).isSome then s
      else if ((s.physCore p).l2.find (pa / 64)).isSome then s.l2Check n (pa / 8) 0 id
      else ((if isCommons pa then s else s.settle (pa / 64)).homeRead (pa / 8) (s.coreWho n 0)).1

/-- R50, R51: the guard executes. -/
def Bank.guardOk (b : Bank) (g : Guard) : Bool := b.pred g.pred.toNat != g.sense

/-- Raises an exception at the instruction: an FPX that meets it is taken instead (R116). -/
def State.faultAt (before s : State) (n : Nat) (e : Exc) : State :=
  let c := before.core n
  if c.fpx && !c.em then before.takeEvent n .fpx else s.takeExc n true e

/-- R48, R68, R88, R181, R182: ILL that an instruction raises when it executes. -/
def raiseIll : M Unit := raiseExc { vec := vIll }

/-- One instruction: the boundary events first (R179), then its fetch, ILL (R48), its guard (R50-R52), and its
effect. `fp` tells whether it counts as an FP instruction for R116; `body` ends in a retirement; `skip` is what a
guarded-off instruction does beside retiring. -/
def State.instr (s : State) (n : Nat) (fp : State → Bool) (ill : State → Bool) (g : Guard) (body : M Unit)
    (skip : State → State := id) : State :=
  if !s.runnable n then s
  else
    s.whole (fun s =>
      match s.boundary n (fp s && (s.fetchFault n).isNone && !ill s) with
      | some e => s.takeEvent n e
      | none =>
        let s := s.fetchMeet n
        if s.waiting.isSome then s
        else
          match s.fetchFault n with
          | some (e, some pa) => State.faultAt s (s.coreFault n (e.detail / 256) 0 (some pa)) n e
          | some (e, none) => State.faultAt s s n e
          | none =>
            if ill s then State.faultAt s s n { vec := vIll }
            else if (s.cur n).guardOk g = false then (skip s).retire n
            else
              match body s with
              | .ok _ t => t
              | .error e t => if t.waiting.isSome then t else State.faultAt s t n e)

end Sys2Proof.Machine
end

