-- ==== Sys2Proof/Machine/Channel.lean ====
section
/-! DEFINITION. Channels seen from the adapters and the links: the aperture, windows, completion records, link and
session events (R331-R333, R346-R354, R367-R373, R576). -/

namespace Sys2Proof.Machine

/-- A port and link as one number. -/
def plOf (port link : Fin 4) : Nat := 4 * port.val + link.val

/-- R332, R364: an upstream request can reach the device only over a link that is up. -/
def State.upstream (s : State) (pl : Nat) (f : State → State) : State := if s.linkUpBit pl then f s else s

/-- R348: channel `c` is assigned to the link the request came in on, and the ports act. -/
def State.serves (s : State) (pl c : Nat) : Bool :=
  s.portsRun && s.flag (Reg.chCfg c) 32 && s.chanLink c == pl

/-! ### The issue entries (R348, R349) -/

/-- R348: the bus address of the window of slot `slot` of channel `c`. -/
def windowAddr (c slot : Nat) : Nat := 0x400000000000 + (1024 * c + slot) * 0x1000000

/-- R349: the issue entry; all zeros where the slot holds no RELEASED order (R370). -/
def State.issueEntry (s : State) (c slot : Nat) : List Byte :=
  let e := s.ledgerAt c slot
  if e.st ≠ .released then List.replicate 32 0
  else
    let w0 := BitVec.ofNat 64 (e.seq.toNat * 2 ^ 16 + e.epoch.toNat)
    let w1 := BitVec.ofNat 64 (e.opc.toNat * 2 ^ 56 + e.count.toNat)
    let w2 := BitVec.ofNat 64 (if e.count = 0 then 0 else windowAddr c slot)
    [w0, w1, w2, e.param].flatMap bytesOf

/-! ### Windows (R350) -/

/-- The channel and slot of a bus address in the window aperture. -/
def windowOf (addr : Nat) : Option (Nat × Nat × Nat) :=
  if addr < windowAddr 0 0 ∨ windowAddr 256 0 ≤ addr then none
  else
    let k := (addr - windowAddr 0 0) / 0x1000000
    some (k / 1024, k % 1024, addr % 0x1000000)

/-- R350: the order's window is open. -/
def LedgerEntry.isOpen (e : LedgerEntry) : Bool := e.st == .released && e.count != 0

/-- R350: the orders whose open windows a request touches are marked as overreached. -/
def State.overreach (s : State) (pl addr len : Nat) : State :=
  let mine := s.io.ledger.filter (fun e =>
    e.2.isOpen && s.chanLink (e.1 / 1024) == pl && s.flag (Reg.chCfg (e.1 / 1024)) 32 &&
      (let w := windowAddr (e.1 / 1024) (e.1 % 1024)
       decide (addr < w + e.2.count.toNat ∧ w < addr + len)))
  mine.foldl (fun s e => s.setLedger (e.1 / 1024) (e.1 % 1024) { s.ledgerAt (e.1 / 1024) (e.1 % 1024) with overrun := true }) s

/-- R350: the open window of the right direction that holds the whole request. -/
def State.windowHit (s : State) (pl addr len opc : Nat) : Option (Nat × Nat × Nat) :=
  match windowOf addr with
  | none => none
  | some (c, slot, off) =>
    let e := s.ledgerAt c slot
    if s.serves pl c && e.isOpen && e.opc.toNat == opc && decide (0 < len ∧ off + len ≤ e.count.toNat) then
      some (c, slot, off)
    else none

/-- WINDOW_READ: an MRd of an OUT window, of a size that R332 supports: R40, R350, R376. -/
def State.windowRead (s : State) (pl addr len : Nat) : State :=
  if len = 0 ∨ 4096 < len then s.answer pl .ur
  else match s.windowHit pl addr len 1 with
  | none => ((if s.portsRun then s.overreach pl addr len else s).answer pl .ur)
  | some (c, slot, off) =>
    let e := s.ledgerAt c slot
    let p := s.qParish (chanQ c)
    let who : Who := { master := masterId 1 pl, acc := 8, parish := some p,
                       stream := some (c, e.paddr.toNat, e.paddr.toNat + e.count.toNat) }
    let (s, bs, bad) := s.dmaRead p (e.paddr.toNat + off) len who
    let s := if bad then s.setLedger c slot { s.ledgerAt c slot with poison := true } else s
    s.answer pl (.data bs bad)

/-- WINDOW_WRITE: an MWr to an IN window, of a payload that R332 supports: R39, R312, R350. A larger one is not served, and
marks the orders it touches all the same. -/
def State.windowWrite (s : State) (pl addr : Nat) (bs : List Byte) (ep : Bool) : State :=
  if bs = [] ∨ 4096 < bs.length then s.answer pl .posted
  else match if 512 < bs.length then none else s.windowHit pl addr bs.length 2 with
  | none => (if s.portsRun then s.overreach pl addr bs.length else s).answer pl .posted
  | some (c, slot, off) =>
    let e := s.ledgerAt c slot
    if ep then (s.setLedger c slot { e with corrupt := true }).answer pl .posted
    else
      let p := s.qParish (chanQ c)
      let (s, lost) := s.dmaPut p (e.paddr.toNat + off) bs (masterId 1 pl)
      let s := if lost then s.setLedger c slot { s.ledgerAt c slot with poison := true } else s
      s.answer pl .posted

/-! ### Completion records (R351-R353) -/

/-- R352: a discarded record. -/
def State.badRecord (s : State) (c : Nat) : State := (s.countSat (Reg.chStat c) 48 16).qFlag (chanQ c) 3

/-- R353: the status an accepted record gives its order. -/
def recordStatus (e : LedgerEntry) (st xfer : Nat) : Nat :=
  if e.poison then 0x04
  else if e.corrupt then 0x05
  else if e.overrun ∨ e.count.toNat < xfer ∨ !([0x00, 0x09, 0x0B, 0x0D].contains st) then 0x0B
  else st

/-- R348: the channel of an address in the record area. -/
def recordChan (addr : Nat) : Nat := (addr - 0x3F0000000000) / 0x10000

/-- COMPLETION_RECORD: R351-R353: the record of a slot is accepted and ends its order, or is discarded. -/
def State.completionRecord (s : State) (pl addr : Nat) (bs : List Byte) (ep : Bool) : State :=
  let c := recordChan addr
  let off := addr % 0x10000
  if addr < 0x3F0000000000 ∨ 256 ≤ c ∨ off < 0x8000 ∨ 0xC000 ≤ off ∨ !s.serves pl c then s.answer pl .posted
  else
    let s := s.answer pl .posted
    let slot := (off - 0x8000) / 16
    let e := s.ledgerAt c slot
    let q0 := ofBytes (bs.take 8)
    let q1 := ofBytes (bs.drop 8)
    let fits := decide (bs.length = 16 ∧ off % 16 = 0) && !ep && e.st == .released &&
      decide (bits q0 16 48 = e.seq.toNat ∧ bits q0 0 16 = e.epoch.toNat)
    if !fits then s.badRecord c
    else
      let xfer := bits q1 0 24
      s.endOrder c slot (recordStatus e (bits q1 24 8) xfer) (BitVec.ofNat 32 (bits q1 32 32)) (min xfer e.count.toNat)

/-! ### Links (R332, R346, R370, R576) -/

/-- R332: a TLP of the link is discarded for its ECRC: logged, and open windows of the link are marked (R353). -/
def State.tlpDiscard (s : State) (pl : Nat) : State :=
  if !s.linkExists pl then s
  else
    let mine := s.io.ledger.filter (fun e => e.2.isOpen && s.chanLink (e.1 / 1024) == pl && s.flag (Reg.chCfg (e.1 / 1024)) 32)
    let s := mine.foldl (fun s e =>
      s.setLedger (e.1 / 1024) (e.1 % 1024) { s.ledgerAt (e.1 / 1024) (e.1 % 1024) with corrupt := true }) s
    (s.countSat (Reg.cpLstat (pl / 4)) (16 * (pl % 4) + 8) 8).aer pl 0x31 0xF aerEcrc

/-- R332: an AER message of the adapter. -/
def State.aerMessage (s : State) (pl : Nat) (sev : AerSev) : State :=
  if !s.linkExists pl then s
  else s.aer pl (match sev with
    | .cor => 0x30
    | .nonfatal => 0x31
    | .fatal => 0x32) 0xF (aerMessageBits sev)

/-- R332: the link can come up: that of a created root port, out of PERST, that is down. -/
def State.canLinkUp (s : State) (pl : Nat) (speed : BitVec 2) : Bool :=
  s.linkExists pl && (s.link pl).perst == .high && !s.linkUpBit pl && speed != 3#2

/-- LINK_UP: R332, R370. -/
def State.linkUp (s : State) (pl : Nat) (speed width : BitVec 2) : State :=
  if !s.canLinkUp pl speed then s
  else
    let off := Reg.cpLstat (pl / 4)
    let s := s.setFld off (16 * (pl % 4)) 5 (width.toNat * 8 + speed.toNat * 2 + 1)
    if s.portsRun then (s.linkChans pl).foldl (fun s c => s.linkRelease c) s else s

/-- LINK_DOWN: R364, R370: released orders stay released. -/
def State.linkDown (s : State) (pl : Nat) : State := s.setFlag (Reg.cpLstat (pl / 4)) (16 * (pl % 4)) false

/-- PERST_RELEASE: R576. -/
def State.perstRelease (s : State) (pl : Nat) : State :=
  let l := s.link pl
  if l.perst = .low then s.setLink pl { l with perst := .high } else s

/-- R346, R372, R373: every order of the list ends with `status`; then HALT aborts what is left of their programs. -/
def State.endAll (s : State) (c : Nat) (es : List (Nat × LedgerEntry)) (status : Nat) : State :=
  let s := es.foldl (fun s e => s.finishOrder c e.1 status 0 0) s
  es.foldl (fun s e => if e.2.halt then s.haltAfter c e.2.desc e.2.ordidx else s) s

/-- R373, R349: the session of a channel starts again: SEQ 1, an issue tail of 1, and nothing committed at the partner. -/
def State.newSession (s : State) (c : Nat) : State :=
  let moved := (s.chan c).lastRel != 0
  let slot := s.fld (Reg.chSeq c) 0 48 % 1024
  let s := s.setFlag (Reg.chSeq c) 63 false
  let s := s.setFld (Reg.chSeq c) 0 48 1
  let s := s.setChan c { s.chan c with
    lastRel := 0, spent := false, waiting := (s.chan c).waiting.map (fun (o : OrderWait) => { o with sent := none }) }
  let s := s.ledgerSend c slot
  if moved then s.issueTail c else s

/-- R373: a session reset of a link: its channels' orders that are not CLOSED end with ADAPTER_FAIL, and their
SEQ starts again; SESS tells that orders ended (R382). -/
def State.sessionReset (s : State) (pl : Nat) : State :=
  (s.linkChans pl).foldl (fun s c =>
    let open' := s.ledgerOf c (fun e => e.st == .accepted || e.st == .released)
    let s := (s.endAll c open' 0x0B).newSession c
    if open' = [] then s else s.ledgerFlag c 2) s

/-! ### The ledger's words (R365, R380) -/

/-- The keys of an entry and of a channel record among the errors that stand. -/
def entryKey (c slot : Nat) : Nat := 1024 * c + slot
def recordKey (c : Nat) : Nat := 262144 + c

/-- The channel of a key. -/
def keyChan (k : Nat) : Nat := if k < 262144 then k / 1024 else k - 262144

/-- R365: an error comes to stand in a word of an entry or record of channel `c`. -/
def State.strike (s : State) (c : Nat) (slot : Option Nat) (err : SramErr) : State :=
  let k := (slot.map (entryKey c)).getD (recordKey c)
  if err = 0 ∨ !s.flag (Reg.chCfg c) 32 then s
  else { s with io := { s.io with ledgerErr := s.io.ledgerErr.set 0 k (SMap.get 0 s.io.ledgerErr k ^^^ err) } }

/-- R309, R380: the partner holds a copy of the ledger that it can give: one that is in step and in SERVICE. -/
def State.ledgerCopy (s : State) : Bool := s.partnered && s.fld Reg.pairStat 6 2 == phService

/-- R365, R380: the word of the ledger in which an error stands is read: true where it can be used. A correctable error is
corrected; an uncorrectable word is mended from the partner, or is a GRAVE fault. -/
def State.ledgerMeet (s : State) (k : Nat) (err : SramErr) : State × Bool :=
  let c := keyChan k
  let f (src : Nat) : FaultArg := { src := src, acc := 0xF, master := s.chanMaster c, parish := some (s.qParish (chanQ c)),
                                    pa := none, synd := hsiaoSynd err }
  let mend : State := { s with io := { s.io with ledgerErr := s.io.ledgerErr.set 0 k 0 } }
  match hsiaoDecode err with
  | .clean => (mend, true)
  | .ce _ => (mend.fault (f 0x34), true)
  | .ue => if s.ledgerCopy then (mend.fault (f 0x35), true) else (s.fault (f 0x36), false)

/-- R365: every word among `ks` is read; false where one of them cannot be used. -/
def State.ledgerMeets : State → List (Nat × SramErr) → State × Bool
  | s, [] => (s, true)
  | s, e :: es =>
    let (s, ok) := s.ledgerMeet e.1 e.2
    let (s, oks) := s.ledgerMeets es
    (s, ok && oks)

/-- What a command does once the ledger's words that it reads have been read. -/
def State.onLedger (s : State) (reads : Nat → Bool) (f : State → State) : State :=
  s.whole (fun s =>
    let r := s.ledgerMeets (s.io.ledgerErr.filter (fun e => reads e.1))
    if r.2 then f r.1 else r.1)

/-- The entries that are not FREE or CLOSED of the channels that fit, and their records. -/
def State.openKeys (s : State) (f : Nat → Bool) (k : Nat) : Bool :=
  f (keyChan k) && (decide (262144 ≤ k) || (s.ledgerAt (k / 1024) (k % 1024)).outstanding)

/-- What ORDER_ACCEPT reads: the entry of NEXT and the channel record. -/
def State.acceptKeys (s : State) (c k : Nat) : Bool :=
  k == recordKey c || k == entryKey c (s.fld (Reg.chSeq c) 0 48 % 1024)

/-- What ORDER_RELEASE reads: the entry that is due and the channel record. -/
def State.releaseKeys (s : State) (c k : Nat) : Bool :=
  k == recordKey c || (s.due c).any (fun slot => k == entryKey c slot)

/-- What a window access reads: the entry of the window. -/
def windowKeys (addr k : Nat) : Bool := (windowOf addr).any (fun w => k == entryKey w.1 w.2.1)

/-! ### The commands -/

/-- ORDER_ACCEPT: R346, R368, R369: the channel's next checked order is accepted; in a pair it is first committed
at the partner. -/
def State.orderAccept (s : State) (c : Nat) : State :=
  if !s.portsRun ∨ !s.flag (Reg.chCfg c) 32 then s
  else
    let s := s.flushChan c
    match (s.chan c).waiting.find? (fun o => o.status == 0) with
    | none => s
    | some o =>
      if !s.acceptable c then s
      else if !s.partnered then s.accept c o
      else
        match o.sent with
        | some f => if s.unacked f then s else s.accept c o
        | none =>
          let (slot, e) := s.newEntry c o
          let f := s.pair.nextId
          let s := s.sendFrame (.ledger [{ chan := Fin.ofNat 256 c, slot := Fin.ofNat 1024 slot, entry := e.words,
                                           crec := (s.accept c o).chanRecord c }])
          s.setChan c { s.chan c with waiting := (s.chan c).waiting.map (fun w =>
            if w = o then { o with sent := some f } else w) }

/-- ORDER_RELEASE: R346. -/
def State.orderRelease (s : State) (c : Nat) : State :=
  if !s.flag (Reg.chCfg c) 32 then s
  else match s.due c with
    | some slot => s.release c slot
    | none => s

/-- ORDER_TIMEOUT: R371: TMO ms have passed since TREL without the order's record. -/
def State.orderTimeout (s : State) (c slot : Nat) : State :=
  if s.portsRun && (s.ledgerAt c slot).st == .released then (s.endOrder c slot 0x0C 0 0).ledgerFlag c 0 else s

/-- LEDGER_CLOSE: R367. -/
def State.ledgerClose (s : State) (c slot : Nat) : State :=
  let e := s.ledgerAt c slot
  let acked := match e.frame with
    | some f => !s.unacked f
    | none => true
  if s.stop == .running && e.st == .done && e.written && acked then (s.setLedger c slot { e with st := .closed }).ledgerSend c slot else s

/-- ORDER_ACCEPT. -/
def execOrderAccept (c : Fin 256) (s : State) : Host.Outcome State Fault Refusal :=
  .next (s.onLedger (fun k => s.portsRun && s.acceptKeys c k) (fun s => s.orderAccept c))

/-- ORDER_RELEASE. -/
def execOrderRelease (c : ChanRead) (s : State) : Host.Outcome State Fault Refusal :=
  let s := s.strike c.chan (c.slot.map Fin.val) c.err
  .next (s.onLedger (fun k => s.portsRun && s.releaseKeys c.chan k) (fun s => s.orderRelease c.chan))

/-- ISSUE_ENTRY_READ: R348, R349, R370. -/
def execIssueEntryRead (port link : Fin 4) (c : Fin 256) (k : SlotRead) (s : State) :
    Host.Outcome State Fault Refusal :=
  let pl := plOf port link
  let s := s.strike c (some k.slot.val) k.err
  .next (s.upstream pl (fun s =>
    if s.serves pl c then
      s.onLedger (· == entryKey c k.slot) (fun s => s.answer pl (.data (s.issueEntry c k.slot) false))
    else s.answer pl .ur))

/-- ISSUE_TAIL_READ: R348. -/
def execIssueTailRead (port link : Fin 4) (c : Fin 256) (s : State) : Host.Outcome State Fault Refusal :=
  let pl := plOf port link
  let tail := BitVec.ofNat 64 (((s.chan c).lastRel + 1) % 2 ^ 32)
  .next (s.upstream pl (fun s => s.answer pl (if s.serves pl c then .data (bytesOf tail) false else .ur)))

/-- WINDOW_READ. -/
def execWindowRead (port link : Fin 4) (addr : BitVec 64) (len : Nat) (s : State) :
    Host.Outcome State Fault Refusal :=
  .next (s.upstream (plOf port link) (fun s =>
    s.onLedger (windowKeys addr.toNat) (fun s => s.windowRead (plOf port link) addr.toNat len)))

/-- WINDOW_WRITE. -/
def execWindowWrite (port link : Fin 4) (addr : BitVec 64) (data : List Byte) (ep : Bool) (s : State) :
    Host.Outcome State Fault Refusal :=
  .next (s.upstream (plOf port link) (fun s => s.onLedger (windowKeys addr.toNat) (fun s =>
    (s.received (plOf port link) data.length).windowWrite (plOf port link) addr.toNat data ep)))

/-- COMPLETION_RECORD. -/
def execCompletionRecord (port link : Fin 4) (addr : BitVec 64) (data : List Byte) (e : RecordEnd) (s : State) :
    Host.Outcome State Fault Refusal :=
  let c := recordChan addr.toNat
  let slot := (addr.toNat % 0x10000 - 0x8000) / 16
  let s := if c < 256 ∧ slot < 1024 then s.strike c (some slot) e.err else s
  .next (s.upstream (plOf port link) (fun s =>
    s.onLedger (· == entryKey c slot) (fun s =>
      (s.received (plOf port link) data.length).completionRecord (plOf port link) addr.toNat data e.ep)))

/-- UPSTREAM_UR: R332, R348: a request outside the aperture or of an unsupported kind. -/
def execUpstreamUr (port link : Fin 4) (s : State) : Host.Outcome State Fault Refusal :=
  .next (s.upstream (plOf port link) (fun s => s.answer (plOf port link) .ur))

/-- TLP_DISCARD. -/
def execTlpDiscard (port link : Fin 4) (s : State) : Host.Outcome State Fault Refusal :=
  .next (s.tlpDiscard (plOf port link))

/-- AER_MESSAGE. -/
def execAerMessage (port link : Fin 4) (sev : AerSev) (s : State) : Host.Outcome State Fault Refusal :=
  .next (s.aerMessage (plOf port link) sev)

/-- LINK_UP. -/
def execLinkUp (port link : Fin 4) (speed width : BitVec 2) (s : State) : Host.Outcome State Fault Refusal :=
  let pl := plOf port link
  let reads (k : Nat) : Bool := s.portsRun && s.canLinkUp pl speed && s.openKeys (fun c => s.chanLink c == pl) k
  .next (s.onLedger reads (fun s => s.linkUp pl speed width))

/-- LINK_DOWN. -/
def execLinkDown (port link : Fin 4) (s : State) : Host.Outcome State Fault Refusal :=
  .next (s.linkDown (plOf port link))

/-- PERST_RELEASE. -/
def execPerstRelease (port link : Fin 4) (s : State) : Host.Outcome State Fault Refusal :=
  .next (s.perstRelease (plOf port link))

/-- ORDER_TIMEOUT. -/
def execOrderTimeout (c : Fin 256) (k : SlotRead) (s : State) : Host.Outcome State Fault Refusal :=
  let s := s.strike c (some k.slot.val) k.err
  .next (s.onLedger (· == entryKey c k.slot) (fun s => s.orderTimeout c k.slot))

/-- SECONDARY_BUS_RESET: R373: only device-control reaches the root port's bridge control register. -/
def execSecondaryBusReset (acc : Accessor) (port link : Fin 4) (s : State) : Host.Outcome State Fault Refusal :=
  let pl := plOf port link
  let can := acc.devctl && s.linkExists pl && s.stop == .running
  .next (s.onLedger (fun k => can && s.openKeys (fun c => s.chanLink c == pl) k) (fun s => if can then s.sessionReset pl else s))

/-- LEDGER_CLOSE. -/
def execLedgerClose (c : Fin 256) (k : SlotRead) (s : State) : Host.Outcome State Fault Refusal :=
  let s := s.strike c (some k.slot.val) k.err
  .next (s.onLedger (· == entryKey c k.slot) (fun s => s.ledgerClose c k.slot))

end Sys2Proof.Machine
end

