-- ==== Sys2Proof/Machine/Codec.lean ====
section
/-! DEFINITION. The stook's bitstream (R389-R394): CRC-32C, tokens, residues, sheaves and the saved state. -/

namespace Sys2Proof.Machine

/-! ### CRC-32C (R390, RFC 3720) -/

def crcBit (c : BitVec 32) : BitVec 32 := if c.getLsbD 0 then (c >>> 1) ^^^ 0x82F63B78#32 else c >>> 1

def crcByte (c : BitVec 32) (b : Byte) : BitVec 32 :=
  crcBit (crcBit (crcBit (crcBit (crcBit (crcBit (crcBit (crcBit (c ^^^ b.setWidth 32))))))))

def crc32c (bs : List Byte) : BitVec 32 := ~~~(bs.foldl crcByte 0xFFFFFFFF#32)

/-! ### Bits and bytes -/

/-- The `n` low bits of `v`, least significant first. -/
def bitsOf (n v : Nat) : List Bool := (List.range n).map v.testBit

/-- Takes `n` bits, least significant first. -/
def takeBits (n : Nat) (bs : List Bool) : Option (Nat × List Bool) :=
  if bs.length < n then none
  else some ((bs.take n).foldr (fun b a => 2 * a + b.toNat) 0, bs.drop n)

def byteBits (bs : List Byte) : List Bool := bs.flatMap (fun b => bitsOf 8 b.toNat)

/-- Bits as bytes, padded with 0 bits; `k` bounds the bytes. -/
def packBits : Nat → List Bool → List Byte
  | 0, _ => []
  | k + 1, bs =>
    if bs = [] then []
    else BitVec.ofNat 8 ((bs.take 8).foldr (fun b a => 2 * a + b.toNat) 0) :: packBits k (bs.drop 8)

def wordBytes (v : BitVec 64) : List Byte := (List.range 8).map (fun i => v.extractLsb' (8 * i) 8)

/-- The little-endian word at byte `i`. -/
def qword (bs : List Byte) (i : Nat) : BitVec 64 :=
  (List.range 8).foldl (fun v k => v ||| ((bs.getD (i + k) 0).setWidth 64 <<< (8 * k))) 0#64

/-! ### Tokens (R391, R392) -/

inductive Token where
  | pred (p n : Nat)
  | copy (d n : Nat)
  | stride (s : Nat)
deriving DecidableEq, Repr

/-- What carries from word to word: the restored match index, every word so far, newest first, S and k. -/
structure Coder where
  ix : List (BitVec 64)
  rev : List (BitVec 64)
  s : Nat
  k : Nat
deriving DecidableEq, Repr

/-- R392. -/
def Coder.predict (c : Coder) (p : Nat) : BitVec 64 :=
  let w (i : Nat) := c.rev.getD (i - 1) 0#64
  match p with
  | 0 => w 1
  | 1 => w c.s
  | 2 => 2#64 * w 1 - w 2
  | _ => 0#64

/-- R392: k after a residue of quotient `q`. -/
def nextK (k q : Nat) : Nat := if q = 0 ∧ 0 < k then k - 1 else if 2 ≤ q then min (k + 1) 60 else k

/-- R392: the code of a residue and the parameter after it. -/
def riceCode (k : Nat) (r : BitVec 64) : List Bool × Nat :=
  let u := ((r <<< 1) ^^^ r.sshiftRight 63).toNat
  let q := u / 2 ^ k
  if q < 24 then (List.replicate q true ++ [false] ++ bitsOf k u, nextK k q)
  else (List.replicate 24 true ++ bitsOf 64 u, nextK k q)

/-- R392: the signed residue of a coded value. -/
def unfold (u : Nat) : BitVec 64 :=
  let v := BitVec.ofNat 64 u
  (v >>> 1) ^^^ (if u % 2 = 1 then BitVec.allOnes 64 else 0#64)

/-- R392: reads a residue. -/
def riceRead (k : Nat) (bs : List Bool) : Option (BitVec 64 × Nat × List Bool) :=
  let q := (bs.takeWhile id).length
  if q < 24 then
    match takeBits k (bs.drop (q + 1)) with
    | some (low, rest) =>
      if bs.length ≤ q then none else
      let u := q * 2 ^ k + low
      if 2 ^ 64 ≤ u then none else some (unfold u, nextK k q, rest)
    | none => none
  else
    match takeBits 64 (bs.drop 24) with
    | some (u, rest) => some (unfold u, nextK k (u / 2 ^ k), rest)
    | none => none

/-- Codes `n` predicted words. -/
def Coder.predCode (p : Nat) : List (BitVec 64) → Coder → List Bool × Coder
  | [], c => ([], c)
  | w :: ws, c =>
    let (b, k) := riceCode c.k (w - c.predict p)
    let (bs, c) := Coder.predCode p ws { c with rev := w :: c.rev, k := k }
    (b ++ bs, c)

/-- Reads `n` predicted words. -/
def Coder.predRead (p : Nat) : Nat → Coder → List Bool → Option (Coder × List Bool)
  | 0, c, bs => some (c, bs)
  | n + 1, c, bs =>
    match riceRead c.k bs with
    | some (r, k, rest) => Coder.predRead p n { c with rev := (c.predict p + r) :: c.rev, k := k } rest
    | none => none

/-- Copies `n` words from `d` words earlier. -/
def Coder.copyRead (d : Nat) : Nat → Coder → Coder
  | 0, c => c
  | n + 1, c => Coder.copyRead d n { c with rev := c.rev.getD (d - 1) 0#64 :: c.rev }

/-- Codes tokens over the words they cover; none where a token is not valid for them (R391, R393). -/
def Coder.encode : List Token → List (BitVec 64) → Coder → Option (List Bool × Coder)
  | [], ws, c => if ws = [] then some ([], c) else none
  | .pred p n :: ts, ws, c =>
    if 4 ≤ p ∨ n < 1 ∨ 64 < n ∨ ws.length < n then none
    else
      let (bs, c) := Coder.predCode p (ws.take n) c
      (Coder.encode ts (ws.drop n) c).map (fun r => (bitsOf 2 0 ++ bitsOf 2 p ++ bitsOf 6 (n - 1) ++ bs ++ r.1, r.2))
  | .copy d n :: ts, ws, c =>
    let c' := Coder.copyRead d n c
    if d < 1 ∨ 8192 < d ∨ n < 1 ∨ 256 < n ∨ ws.length < n ∨ c.rev.length < d ∨ c'.rev.take n ≠ (ws.take n).reverse then
      none
    else (Coder.encode ts (ws.drop n) c').map (fun r => (bitsOf 2 1 ++ bitsOf 13 (d - 1) ++ bitsOf 8 (n - 1) ++ r.1, r.2))
  | .stride s :: ts, ws, c =>
    if s < 1 ∨ 8191 < s then none
    else (Coder.encode ts ws { c with s := s }).map (fun r => (bitsOf 2 2 ++ bitsOf 13 s ++ r.1, r.2))

/-- R391: reads tokens until `left` words are accounted for and only padding remains. -/
def Coder.decode : Nat → Nat → Coder → List Bool → Option Coder
  | 0, _, _, _ => none
  | fuel + 1, left, c, bs =>
    if left = 0 ∧ bs.length < 8 ∧ bs.all (· == false) then some c
    else
      match takeBits 2 bs with
      | some (0, bs) =>
        match takeBits 2 bs with
        | some (p, bs) =>
          match takeBits 6 bs with
          | some (n, bs) =>
            if left < n + 1 then none
            else match Coder.predRead p (n + 1) c bs with
              | some (c, bs) => Coder.decode fuel (left - (n + 1)) c bs
              | none => none
          | none => none
        | none => none
      | some (1, bs) =>
        match takeBits 13 bs with
        | some (d, bs) =>
          match takeBits 8 bs with
          | some (n, bs) =>
            if left < n + 1 ∨ c.rev.length < d + 1 then none
            else Coder.decode fuel (left - (n + 1)) (Coder.copyRead (d + 1) (n + 1) c) bs
          | none => none
        | none => none
      | some (2, bs) =>
        match takeBits 13 bs with
        | some (s, bs) => if s = 0 then none else Coder.decode fuel left { c with s := s } bs
        | none => none
      | _ => none

/-- Reads as many of `n` predicted words as the bits hold; the rest of the bits where all are read. -/
def Coder.predPart (p : Nat) : Nat → Coder → List Bool → Coder × Option (List Bool)
  | 0, c, bs => (c, some bs)
  | n + 1, c, bs =>
    match riceRead c.k bs with
    | some (r, k, rest) => Coder.predPart p n { c with rev := (c.predict p + r) :: c.rev, k := k } rest
    | none => (c, none)

/-- R391, R397: the coder after as many of `left` words as the bits hold. -/
def Coder.decodePart : Nat → Nat → Coder → List Bool → Coder
  | 0, _, c, _ => c
  | fuel + 1, left, c, bs =>
    match takeBits 2 bs with
    | some (0, bs) =>
      match takeBits 2 bs with
      | some (p, bs) =>
        match takeBits 6 bs with
        | some (n, bs) =>
          if left < n + 1 then c
          else match Coder.predPart p (n + 1) c bs with
            | (c, some bs) => Coder.decodePart fuel (left - (n + 1)) c bs
            | (c, none) => c
        | none => c
      | none => c
    | some (1, bs) =>
      match takeBits 13 bs with
      | some (d, bs) =>
        match takeBits 8 bs with
        | some (n, bs) =>
          if left < n + 1 ∨ c.rev.length < d + 1 then c
          else Coder.decodePart fuel (left - (n + 1)) (Coder.copyRead (d + 1) (n + 1) c) bs
        | none => c
      | none => c
    | some (2, bs) =>
      match takeBits 13 bs with
      | some (st, bs) => if st = 0 then c else Coder.decodePart fuel left { c with s := st } bs
      | none => c
    | _ => c

/-- R392: a stook that continues from nothing. -/
def Coder.fresh : Coder := { ix := [], rev := [], s := 1, k := 0 }

/-! ### Tag runs (R390) -/

/-- Tags as runs: octet and length. -/
def tagRuns : List Byte → List (Byte × Nat)
  | [] => []
  | t :: ts =>
    match tagRuns ts with
    | (u, n) :: rs => if t = u then (u, n + 1) :: rs else (t, 1) :: (u, n) :: rs
    | [] => [(t, 1)]

def runBytes (rs : List (Byte × Nat)) : List Byte :=
  rs.flatMap (fun r => [r.1, BitVec.ofNat 8 ((r.2 - 1) % 256), BitVec.ofNat 8 ((r.2 - 1) / 256)])

/-- The tags that `n` runs of three bytes spell; none where a length is outside its range. -/
def readRuns : Nat → List Byte → Option (List Byte)
  | 0, _ => some []
  | n + 1, t :: lo :: hi :: rest =>
    let len := lo.toNat + 256 * hi.toNat + 1
    if 8192 < len then none else (readRuns n rest).map (fun ts => List.replicate len t ++ ts)
  | _ + 1, _ => none

/-! ### Sheaves (R390) -/

/-- The tokens where the free choice of R393 is not valid: runs of predictor 3. -/
def plainTokens : Nat → Nat → List Token
  | 0, _ => []
  | fuel + 1, n => if n = 0 then [] else .pred 3 (min n 64) :: plainTokens fuel (n - min n 64)

def tokenOf : List Nat → Token
  | [0, p, n] => .pred p n
  | [1, d, n] => .copy d n
  | [_, s] => .stride s
  | _ => .stride 0

/-- R393: the residue bits of a sheaf and the coder after it, by the engine's choice of tokens. -/
def Coder.encodeSheaf (level : Nat) (c : Coder) (ws : List (BitVec 64)) : List Bool × Coder :=
  match Coder.encode ((Config.compressTokens level c.ix c.rev ws).map tokenOf) ws c with
  | some r => r
  | none => (Coder.encode (plainTokens ws.length ws.length) ws c).getD ([], c)

/-- R390: CHECK of a sheaf. -/
def sheafCheck (ws : List (BitVec 64)) (tags : List Byte) : BitVec 32 := crc32c (ws.flatMap wordBytes ++ tags)

def padTo8 (bs : List Byte) : List Byte := bs ++ List.replicate ((8 - bs.length % 8) % 8) 0

/-- R390: one sheaf, padded, and the coder after it. -/
def sheafBytes (level : Nat) (c : Coder) (ws : List (BitVec 64)) (tags : List Byte) : List Byte × Coder :=
  let n := ws.length
  let (bs, c') := c.encodeSheaf level ws
  let coded := (bs.length + 7) / 8
  let runs := tagRuns tags
  let stored := decide (8 * n ≤ coded)
  let body := (if stored then ws.flatMap wordBytes else packBits coded bs) ++ runBytes runs
  let c'' := if stored then { c with rev := ws.reverse ++ c.rev } else c'
  let q0 := BitVec.ofNat 64 (0x5348 * 2 ^ 48 + stored.toNat * 2 ^ 46 + n * 2 ^ 32 + body.length)
  let q1 := BitVec.ofNat 64 ((sheafCheck ws tags).toNat * 2 ^ 32 + runs.length * 2 ^ 16)
  (padTo8 (wordBytes q0 ++ wordBytes q1 ++ body), c'')

/-- A sheaf read: its words, tags, the coder after it, its length in bytes, and whether CHECK agrees. -/
structure SheafRead where
  words : List (BitVec 64)
  tags : List Byte
  coder : Coder
  len : Nat
  good : Bool
deriving DecidableEq, Repr

/-- R390, R397: the 16-byte header of a sheaf that must carry `n` words is malformed. -/
def sheafBad (n : Nat) (bs : List Byte) : Bool :=
  let q0 := qword bs 0
  let q1 := qword bs 8
  let nrun := bits q1 16 16
  decide (bs.length < 16 ∨ bits q0 48 16 ≠ 0x5348 ∨ 1 < bits q0 46 2 ∨ bits q0 32 14 ≠ n ∨ nrun < 1 ∨ 8192 < nrun ∨
    bits q1 0 16 ≠ 0 ∨ bits q0 0 32 < 3 * nrun)

/-- R397: the words that the first bytes `bs` of the payload of a sheaf decode to, where no more can be read; `hd` is
its header. -/
def sheafPart (c : Coder) (n : Nat) (hd bs : List Byte) : List (BitVec 64) :=
  let data := bs.take (bits (qword hd 0) 0 32 - 3 * bits (qword hd 8) 16 16)
  if bits (qword hd 0) 46 2 = 1 then (List.range (min n (data.length / 8))).map (fun i => qword data (8 * i))
  else
    let c' := Coder.decodePart (8 * data.length + 1) n c (byteBits data)
    (c'.rev.take (c'.rev.length - c.rev.length)).reverse

/-- R390, R391, R397: reads the sheaf at the front of `bs`, which must carry `n` words. -/
def readSheaf (c : Coder) (n : Nat) (bs : List Byte) : Option SheafRead :=
  let q0 := qword bs 0
  let q1 := qword bs 8
  let mode := bits q0 46 2
  let paylen := bits q0 0 32
  let nrun := bits q1 16 16
  if sheafBad n bs ∨ bs.length < 16 + paylen then none
  else
    let body := (bs.drop 16).take paylen
    let data := body.take (paylen - 3 * nrun)
    match readRuns nrun (body.drop (paylen - 3 * nrun)) with
    | none => none
    | some tags =>
      if tags.length ≠ n then none
      else
        let dec :=
          if mode = 1 then
            (if data.length = 8 * n then
              some { c with rev := ((List.range n).map (fun i => qword data (8 * i))).reverse ++ c.rev }
            else none)
          else Coder.decode (8 * data.length + 1) n c (byteBits data)
        match dec with
        | none => none
        | some c' =>
          let ws := (c'.rev.take n).reverse
          some { words := ws, tags := tags, coder := c', len := (16 + paylen + 7) / 8 * 8,
                 good := (sheafCheck ws tags).toNat == bits q1 32 32 }

/-! ### Saved state (R394) -/

/-- R394: the first 65,560 bytes of a saved state. -/
def stateHead (c : Coder) : List Byte :=
  let h := c.rev.take 8192
  let slots := (List.replicate (8192 - h.length) 0#64) ++ h.reverse
  slots.flatMap wordBytes ++
    wordBytes (BitVec.ofNat 64 (0x53544154 * 2 ^ 32 + h.length)) ++
    wordBytes (BitVec.ofNat 64 (c.k * 2 ^ 16 + c.s)) ++ wordBytes 0#64

/-- R394: STATEID and the 73,728 bytes of the state. -/
def saveState (c : Coder) : BitVec 32 × List Byte :=
  let head := stateHead c
  let id := crc32c head
  (id, head ++ wordBytes (BitVec.ofNat 64 (id.toNat * 2 ^ 32)) ++
    ((List.range 1020).flatMap (fun i => wordBytes (Config.matchIndex c.ix c.rev i))))

/-- R394, R395: the coder and STATEID a saved state holds; none where it is not valid. -/
def restoreState (bs : List Byte) : Option (Coder × Nat) :=
  let q1 := qword bs 65536
  let q2 := qword bs 65544
  let hw := bits q1 0 14
  let k := bits q2 16 6
  let s := bits q2 0 13
  let id := bits (qword bs 65560) 32 32
  if bits q1 32 32 ≠ 0x53544154 ∨ 8192 < hw ∨ 60 < k ∨ s = 0 ∨ (crc32c (bs.take 65560)).toNat ≠ id then none
  else some ({ ix := (List.range 1020).map (fun i => qword bs (65568 + 8 * i)),
               rev := (List.range hw).map (fun j => qword bs (8 * (8191 - j))), s := s, k := k }, id)

end Sys2Proof.Machine
end

