-- ==== Sys2Proof/Machine/Compress.lean ====
section
/-! DEFINITION. Compression jobs (R384-R399): the descriptor and its checks, COMPRESS and DECOMPRESS, and the
completion entry. -/

namespace Sys2Proof.Machine

/-! ### Descriptors (R386, R387) -/

/-- A job that has passed its checks: its ranges as parish addresses. -/
structure CompDesc where
  compress : Bool
  level : Nat
  rstate : Bool
  sstate : Bool
  irq : Bool
  inlen : Nat
  src : Nat
  dst : Nat
  dlen : Nat
  tag : Option Nat
  state : Nat
  user : BitVec 64
deriving DecidableEq, Repr

/-- R394: the bytes of a state buffer. -/
def stateBytes : Nat := 73728

/-- One range a job uses: its capability word, the byte offset, the length and the permissions it needs. -/
structure JobRange where
  cap : Word
  off : Nat
  len : Nat
  need : List Nat
deriving DecidableEq, Repr

def JobRange.addr (r : JobRange) (e : CapEntry) : Nat := e.lo + r.off

/-- The parish address at which a range starts. -/
def State.rangeAt (s : State) (p : Nat) (r : JobRange) : Nat := r.addr (s.capEntry p (capIndex r.cap))

/-- R387 step 3, R417 step 4: a current CAP of kind 0. -/
def State.rangeCap (s : State) (p : Nat) (r : JobRange) : Bool := s.capCurrent p r.cap && capKind r.cap == 0

/-- The capability covers the range. -/
def State.rangeIn (s : State) (p : Nat) (r : JobRange) : Bool :=
  decide (r.off + r.len ≤ (s.capEntry p (capIndex r.cap)).len)

/-- The effective permissions allow the range's use. -/
def State.rangePerm (s : State) (p : Nat) (r : JobRange) : Bool := r.need.all (hasPerm (s.capPerms p r.cap))

/-- The range lies in WB or UC runs of the parish. -/
def State.rangeSpan (s : State) (p : Nat) (r : JobRange) : Bool := s.spanOk p (s.rangeAt p r) r.len

/-- Two ranges share a byte. -/
def overlap (a n b m : Nat) : Bool := decide (0 < n ∧ 0 < m ∧ a < b + m ∧ b < a + n)

/-- R387: the checks of a compression descriptor in order; the failure status where one fails. -/
def State.checkComp (s : State) (p : Nat) (ws : List Word) : Except Nat CompDesc :=
  let w (i : Nat) := ws.getD i Word.raw0
  let f (i lo n : Nat) := bits (w i).val lo n
  let op := f 0 56 8
  let compress := op == 1
  let inlen := f 0 0 32
  let rs := f 0 51 1 == 1
  let ss := f 0 50 1 == 1
  let dlen := f 4 0 32
  let tagged := !compress && w 5 != Word.raw0
  let src : JobRange := { cap := w 1, off := 8 * f 2 32 32, len := if compress then 8 * inlen else inlen, need := [pR] }
  let dst : JobRange := { cap := w 3, off := 8 * f 2 0 32, len := 8 * dlen, need := [pW] }
  let tag : JobRange := { cap := w 5, off := 8 * f 4 32 32, len := dlen, need := [pW] }
  let st : JobRange := { cap := w 6, off := 0, len := stateBytes,
                         need := (if rs then [pR] else []) ++ (if ss then [pW] else []) }
  let data := [src, dst] ++ (if tagged then [tag] else [])
  let all := data ++ (if rs || ss then [st] else [])
  if ws.any Word.poisoned then .error 0x04
  else if !(w 0).isFixRaw ∨ !(w 2).isFixRaw ∨ !(w 4).isFixRaw ∨ (op ≠ 1 ∧ op ≠ 2) ∨ f 0 32 17 ≠ 0 ∨ (w 7).isCap then
    .error 0x09
  else if (compress ∧ (inlen < 1 ∨ 0x10000000 < inlen ∨ f 0 52 4 < 1 ∨ 9 < f 0 52 4)) ∨ (!compress ∧ inlen < 32) ∨
      dlen < 1 then .error 0x09
  else if !all.all (s.rangeCap p) then .error 0x10
  else if !all.all (s.rangeIn p) then .error 0x03
  else if !all.all (s.rangePerm p) then .error 0x10
  else if !all.all (s.rangeSpan p) then .error 0x10
  else if (rs || ss) && data.any (fun r => overlap (s.rangeAt p st) stateBytes (s.rangeAt p r) r.len) then .error 0x09
  else .ok { compress := compress, level := f 0 52 4, rstate := rs, sstate := ss, irq := f 0 49 1 == 1, inlen := inlen,
             src := s.rangeAt p src, dst := s.rangeAt p dst, dlen := dlen,
             tag := if tagged then some (s.rangeAt p tag) else none, state := s.rangeAt p st, user := (w 7).val }

/-! ### Running a job (R394-R397) -/

/-- How a job ended: the fields of its entry (R388). -/
structure CompEnd where
  status : Nat
  out : Nat := 0
  indone : Nat := 0
  stateid : Nat := 0
  nsheaf : Nat := 0
deriving DecidableEq, Repr

/-- R475: a job reads a word of its engine's own SRAM with an error: true where the job can go on. -/
def State.engineRead (s : State) (m p : Nat) (err : SramErr) : State × Bool :=
  let f (src : Nat) : FaultArg := { src := src, acc := 0xF, master := m, parish := some p, pa := none, synd := hsiaoSynd err }
  match hsiaoDecode err with
  | .clean => (s, true)
  | .ce _ => (s.fault (f 0x39), true)
  | .ue => (s.fault (f 0x3A), false)

/-- R475: the error in its engine's own SRAM that a job meets as it reads the word at parish address `addr`. -/
structure JobErr where
  addr : Nat
  err : SramErr
deriving DecidableEq, Repr

/-- R40, R475: the tagged words that a job reads at `n` consecutive word addresses from `a`, up to the first that is
poisoned or met with an uncorrectable error of the engine's SRAM; the answer tells that there was one. -/
def State.jobWords (s : State) (p a : Nat) (w : Who) (e : JobErr) : Nat → State × List Word × Bool
  | 0 => (s, [], false)
  | n + 1 =>
    let s := if a % 64 = 0 then s.trainStream p a w else s
    let (s, x) := s.fetchWord p a w
    let s := s.noteReserved p a w x
    let (s, good) := if e.addr = a then s.engineRead w.master p e.err else (s, true)
    if x.poisoned || !good then (s, [x], true)
    else
      let (s, xs, bad) := s.jobWords p (a + 8) w e n
      (s, x :: xs, bad)

/-- A job's read of `n` words from parish address `a`, whose first line trains the stream before it is read (R237). -/
def State.jobFetch (s : State) (p a : Nat) (w : Who) (e : JobErr) (n : Nat) : State × List Word × Bool :=
  (if a % 64 = 0 ∨ n = 0 then s else s.trainStream p a w).jobWords p a w e n

/-- R40: the bytes that a job reads from `a` to `a + len - 1`, and where the word begins that ended the read. -/
def State.jobRead (s : State) (p a len : Nat) (w : Who) (e : JobErr) : State × List Byte × Option Nat :=
  if len = 0 then (s, [], none)
  else
    let lo := a / 8 * 8
    let (s, ws, bad) := s.jobFetch p lo w e ((a + len - 1) / 8 - a / 8 + 1)
    let bs := ws.flatMap (fun x => bytesOf (dmaPayload x).1)
    (s, (bs.drop (a - lo)).take len, if bad then some (8 * (ws.length - 1) - (a - lo)) else none)

/-- R237: a DMA read of a job that trains the Granary stream `key` on the `len` bytes at parish address `a`. -/
def Who.train (w : Who) (key a len : Nat) : Who := { w with stream := some (key, a, a + len) }

/-- The stream of a compression unit. -/
def unitStream (m : Nat) : Nat := 256 + m % 0x100

/-- R394, R395: the coder a job starts from, and the restored STATEID; POISON or HISTORY where it cannot. -/
def State.restore (s : State) (p : Nat) (d : CompDesc) (who : Who) (e : JobErr) :
    State × Except Nat (Coder × Option Nat) :=
  if !d.rstate then (s, .ok (Coder.fresh, none))
  else
    let (s, bs, bad) := s.jobRead p d.state stateBytes (who.train (unitStream who.master) d.state stateBytes) e
    if bad.isSome then (s, .error 0x04)
    else match restoreState bs with
      | none => (s, .error 0x0F)
      | some (c, id) => (s, .ok (c, some id))

/-- R394: the state is saved; its STATEID. -/
def State.save (s : State) (p m : Nat) (d : CompDesc) (c : Coder) : State × Nat :=
  if !d.sstate then (s, 0)
  else
    let (id, bs) := saveState c
    ((s.dmaPut p d.state bs m).1, id.toNat)

/-- The next `k` free words (log 3). -/
def State.freeWords (s : State) (k : Nat) : List (BitVec 64) := (List.range k).map (fun i => Config.freeWord (s.free + i))

/-- R397: what a COMPRESS that ends early leaves: after `sheaves` whole sheaves, whose bytes are `body`, DST holds a
header of four free words, those sheaves, and a free number of free words of the sheaf in hand, at most DLEN words in
all; before the first sheaf is whole only the free words (log 3). INDONE is what was read. -/
def State.compEarly (s : State) (p m : Nat) (d : CompDesc) (status indone sheaves : Nat) (body : List Byte) :
    State × CompEnd :=
  let whole := if sheaves = 0 then [] else (s.freeWords 4).flatMap bytesOf ++ body
  let s := if sheaves = 0 then s else { s with free := s.free + 4 }
  let k := s.freeVal.toNat % (d.dlen - whole.length / 8 + 1)
  let s := s.fresh
  let bs := whole ++ (s.freeWords k).flatMap bytesOf
  let s := { s with free := s.free + k }
  ((s.dmaPut p d.dst bs m).1, { status := status, out := bs.length, indone := indone, nsheaf := sheaves })

/-- R390-R392: the least bytes a sheaf of `n` words takes: its header, its residue bits coded with copies of 256 words
(23 bits) and a rest of predicted words where that is shorter, and one tag run. -/
def minSheaf (n : Nat) : Nat :=
  let rest := n % 256
  let bits := 23 * (n / 256) + (if rest = 0 then 0 else min 23 (10 + rest))
  (16 + (bits + 7) / 8 + 3 + 7) / 8 * 8

/-- R397: the stook can no longer be smaller than the input, or no longer fits: `pos` bytes stand, and the sheaves of
`left` words are to come. -/
def CompDesc.noGain (d : CompDesc) (pos left : Nat) : Bool :=
  let more := left / 8192 * minSheaf 8192 + (if left % 8192 = 0 then 0 else minSheaf (left % 8192))
  decide (8 * d.inlen ≤ pos + more ∨ 8 * d.dlen < pos + more)

/-- R397: NO_GAIN becomes certain while sheaf `i` of `n` words is coded: INDONE is a free number of its words beyond
the earlier sheaves' (log 3). -/
def State.compNoGain (s : State) (p m : Nat) (d : CompDesc) (i n : Nat) (body : List Byte) : State × CompEnd :=
  let k := 1 + s.freeVal.toNat % n
  s.fresh.compEarly p m d 0x01 (8192 * i + k) i body

/-- R390: codes the sheaves of a COMPRESS, `acc` their bytes so far: the bytes of all sheaves and the coder, or the
early end. -/
def compSheaves (p m : Nat) (d : CompDesc) (who : Who) (e : JobErr) (total : Nat) :
    Nat → State → Coder → List Byte → (State × Coder × List Byte) ⊕ (State × CompEnd)
  | 0, s, c, acc => .inl (s, c, acc)
  | k + 1, s, c, acc =>
    let i := total - (k + 1)
    let n := min 8192 (d.inlen - 8192 * i)
    let (s, ws, bad) := s.jobFetch p (d.src + 65536 * i) who e n
    if bad then .inr (s.compEarly p m d 0x04 (8192 * i + ws.length) i acc)
    else
      let (bs, c) := sheafBytes d.level c (ws.map (fun w => (dmaPayload w).1)) (ws.map (·.tag))
      if d.noGain (32 + acc.length + bs.length) (d.inlen - 8192 * i - n) then .inr (s.compNoGain p m d i n acc)
      else compSheaves p m d who e total k (s.talN 0xA (m % 0x100) n) c (acc ++ bs)

/-- R389: the header of a stook. -/
def stookHead (level inwords nsheaf outbytes : Nat) (id : Option Nat) : List Byte :=
  wordBytes (BitVec.ofNat 64 (0x53544F4B * 2 ^ 32 + 2 ^ 24 + level * 2 ^ 20 + id.isSome.toNat * 2 ^ 19)) ++
    wordBytes (BitVec.ofNat 64 (inwords * 2 ^ 32 + nsheaf)) ++ wordBytes (BitVec.ofNat 64 outbytes) ++
    wordBytes (BitVec.ofNat 64 (id.getD 0 * 2 ^ 32))

/-- COMPRESS after its restore. -/
def State.compressJob (s : State) (p m : Nat) (d : CompDesc) (who : Who) (e : JobErr) (c : Coder) (id : Option Nat) :
    State × CompEnd :=
  let n := (d.inlen + 8191) / 8192
  if d.noGain 32 d.inlen then s.compEarly p m d 0x01 0 0 []
  else match compSheaves p m d (who.train (unitStream m) d.src (8 * d.inlen)) e n n s c [] with
  | .inr r => r
  | .inl (s, c, body) =>
    let out := 32 + body.length
    let s := (s.dmaPut p d.dst (stookHead d.level d.inlen n out id ++ body) m).1
    let (s, sid) := s.save p m d c
    (s, { status := 0, out := out, indone := d.inlen, stateid := sid, nsheaf := n })

/-- R389: what a DECOMPRESS takes from the header: INWORDS, NSHEAF, OUTBYTES. -/
structure StookHead where
  inwords : Nat
  nsheaf : Nat
  outbytes : Nat
deriving DecidableEq, Repr

/-- R395, R397: the header of the stook, or the status it ends the job with; `id` the STATEID restored, if one was. -/
def readStookHead (d : CompDesc) (id : Option Nat) (bs : List Byte) : Except Nat StookHead :=
  let q (i : Nat) := qword bs (8 * i)
  let hcont := bit (q 0) 19
  let stateid := bits (q 3) 32 32
  let level := bits (q 0) 20 4
  let inwords := bits (q 1) 32 32
  let nsheaf := bits (q 1) 0 32
  let outbytes := (q 2).toNat
  if hcont ≠ d.rstate ∨ id.any (· ≠ stateid) then .error 0x0F
  else if bits (q 0) 32 32 ≠ 0x53544F4B ∨ bits (q 0) 24 8 ≠ 1 ∨ level < 1 ∨ 9 < level ∨ bits (q 0) 0 19 ≠ 0 ∨
      bits (q 3) 0 32 ≠ 0 ∨ (hcont = false ∧ stateid ≠ 0) ∨ nsheaf ≠ (inwords + 8191) / 8192 ∨ outbytes % 8 ≠ 0 ∨
      outbytes < 32 ∨ d.inlen < outbytes then
    .error 0x05
  else if d.dlen < inwords then .error 0x06
  else .ok { inwords := inwords, nsheaf := nsheaf, outbytes := outbytes }

/-- R396: the words of a sheaf of `n` words and their tags are written; true where a part of them was lost. -/
def State.putSheaf (s : State) (p m : Nat) (d : CompDesc) (i : Nat) (ws : List (BitVec 64)) (tags : List Byte) :
    State × Bool :=
  let s := (s.dmaPut p (d.dst + 65536 * i) (ws.flatMap bytesOf) m).1
  match d.tag with
  | some t => s.dmaPut p (t + 8192 * i) tags m
  | none => (s, false)

/-- R390-R397: decodes the sheaves of a DECOMPRESS. A sheaf whose read ends at a poisoned word leaves the words that
the bytes before it decode to. -/
def decSheaves (p m : Nat) (d : CompDesc) (who : Who) (err : JobErr) (h : StookHead) :
    Nat → State → Coder → Nat → State × Coder × CompEnd
  | 0, s, c, pos =>
    let e : CompEnd := { status := if pos = h.outbytes then 0 else 0x05, out := 8 * h.inwords, indone := pos,
                         nsheaf := h.nsheaf }
    (s, c, e)
  | k + 1, s, c, pos =>
    let i := h.nsheaf - (k + 1)
    let n := min 8192 (h.inwords - 8192 * i)
    let stop (status indone words : Nat) : CompEnd :=
      { status := status, out := 65536 * i + 8 * words, indone := indone, nsheaf := i }
    if h.outbytes < pos + 16 then (s, c, stop 0x05 pos 0)
    else match s.jobRead p (d.src + pos) 16 who err with
    | (s, _, some at_) => (s, c, stop 0x04 (pos + at_ + 8) 0)
    | (s, hd, none) =>
      let len := (16 + bits (qword hd 0) 0 32 + 7) / 8 * 8
      if sheafBad n hd ∨ h.outbytes < pos + len then (s, c, stop 0x05 (pos + 16) 0)
      else match s.jobRead p (d.src + pos + 16) (len - 16) who err with
      | (s, bs, some at_) =>
        let ws := sheafPart c n hd (bs.take at_)
        let s := (s.dmaPut p (d.dst + 65536 * i) (ws.flatMap bytesOf) m).1
        (s, c, stop 0x04 (pos + 16 + at_ + 8) ws.length)
      | (s, bs, none) =>
        match readSheaf c n (hd ++ bs) with
        | none => (s, c, stop 0x05 (pos + len) 0)
        | some r =>
          match s.putSheaf p m d i r.words r.tags with
          | (s, true) => (s, c, stop 0x04 (pos + len) n)
          | (s, false) =>
            if !r.good then (s, c, stop 0x05 (pos + len) n)
            else decSheaves p m d who err h k s r.coder (pos + r.len)

/-- DECOMPRESS after its restore. -/
def State.decompressJob (s : State) (p m : Nat) (d : CompDesc) (who : Who) (err : JobErr) (c : Coder) (id : Option Nat) :
    State × CompEnd :=
  let who := who.train (unitStream m) d.src d.inlen
  match s.jobRead p d.src 32 who err with
  | (s, _, some at_) => (s, { status := 0x04, indone := at_ + 8 })
  | (s, hd, none) =>
    match readStookHead d id hd with
    | .error e => (s, { status := e, indone := 32 })
    | .ok h =>
      let (s, c, e) := decSheaves p m d who err h h.nsheaf s c 32
      if e.status ≠ 0 then (s, e)
      else
        let (s, sid) := s.save p m d c
        (s, { e with stateid := sid })

/-- A job that has passed its checks runs to its end on `unit`, and meets `err` in the unit's SRAM with word `word` of
its source (R475). -/
def State.runComp (s : State) (p unit : Nat) (d : CompDesc) (err : SramErr) (word : Nat) : State × CompEnd :=
  let m := masterId 3 unit
  let who : Who := { master := m, acc := 8, parish := some p }
  let e : JobErr := { addr := d.src / 8 * 8 + 8 * word, err := err }
  match s.restore p d who e with
  | (s, .error st) => (s, { status := st })
  | (s, .ok (c, id)) => if d.compress then s.compressJob p m d who e c id else s.decompressJob p m d who e c id

/-! ### The queue's side (R340, R386, R388, R399) -/

def compQ (i : Nat) : QueueId := .comp (Fin.ofNat 64 i)

/-- R339: the descriptor at the head of a ring, by a queue fetch. -/
def State.headDesc (s : State) (q : QueueId) (m : Nat) : State × List Word :=
  let p := s.qParish q
  let who : Who := { master := m, acc := 0xF, parish := some p }
  s.fetchWords p (ringBase (s.reg (queueSqb q)) + 64 * (s.sqHead q % 2 ^ s.fld (queueCfg q) 8 5)) who 8

/-- USER of an entry: word 7, but 0 where it is CAP or POIS. -/
def descUser (ws : List Word) : BitVec 64 :=
  let w := ws.getD 7 Word.raw0
  if w.isCap || w.poisoned then 0#64 else w.val

/-- IRQ of a descriptor, at bit `b` of word 0; 0 where the word is POIS. -/
def descIrq (ws : List Word) (b : Nat) : Bool :=
  let w := ws.getD 0 Word.raw0
  bit w.val b && !w.poisoned

/-- R432: what a job costs, in bytes, by its checked descriptor. -/
def State.compCost (s : State) (p : Nat) (ws : List Word) : Nat :=
  match s.checkComp p ws with
  | .error _ => 4096
  | .ok d => if d.compress then 8 * d.inlen else d.inlen

/-- R384, R387: instance `i` begins the job at its head on `unit`: the checks, then all its reads and writes; its
entry follows with COMPRESSION_JOB_END (log 79). -/
def State.beginComp (s : State) (i unit : Nat) (err : SramErr) (word : Nat) : State :=
  let q := compQ i
  let p := s.qParish q
  let (s, ws) := s.headDesc q (masterId 3 unit)
  let desc := s.sqHead q
  let s := s.setFld (queueSqp q) 32 32 (desc + 1)
  let (s, e) := match s.checkComp p ws with
    | .error st => (s, ({ status := st } : CompEnd))
    | .ok d => s.runComp p unit d err word
  let job : CompJob :=
    { desc := desc, unit := unit, irq := descIrq ws 49, user := descUser ws, status := BitVec.ofNat 8 e.status,
      out := BitVec.ofNat 32 e.out, indone := BitVec.ofNat 32 e.indone, stateid := BitVec.ofNat 32 e.stateid,
      nsheaf := BitVec.ofNat 32 e.nsheaf }
  let inst := s.compInst i
  s.setCompInst i { inst with comp := inst.comp ++ [job], reserved := inst.reserved + 1 }

/-- R388: the entry of a job, and its event where IRQ asks for one. -/
def State.compEntry (s : State) (i : Nat) (m : Nat) (j : CompJob) : State :=
  let q := compQ i
  let s := s.qEntry q m j.user (BitVec.ofNat 64 (j.out.toNat * 2 ^ 32 + j.indone.toNat))
    (BitVec.ofNat 64 (j.stateid.toNat * 2 ^ 32 + j.nsheaf.toNat)) (BitVec.ofNat 64 (i * 2 ^ 40 + j.status.toNat))
  if j.irq then s.qFlag q 0 else s

/-- COMPRESSION_JOB_END: the oldest begun job of the instance writes its entry. -/
def State.compEnd (s : State) (i : Nat) : State :=
  let inst := s.compInst i
  match inst.comp with
  | [] => s
  | j :: rest =>
    if s.stop ≠ .running ∨ s.pair.lossHold then s
    else
      let s := s.compEntry i (masterId 3 j.unit) j
      s.setCompInst i { s.compInst i with comp := rest, reserved := inst.reserved - 1 }

/-- R399: aborts descriptors marked by FLUSH while completion slots are free; `k` bounds the count. -/
def State.compAbort : Nat → State → Nat → State
  | 0, s, _ => s
  | k + 1, s, i =>
    let q := compQ i
    let inst := s.compInst i
    if s.stop ≠ .running ∨ s.pair.lossHold ∨ inst.flush = 0 ∨ !s.qRoom q then s
    else
      let (s, ws) := s.headDesc q (masterId 3 0)
      let s := s.setFld (queueSqp q) 32 32 (s.sqHead q + 1)
      let s := s.compEntry i (masterId 3 0)
        { desc := 0, unit := 0, irq := descIrq ws 49, user := descUser ws, status := 0x0A, out := 0, indone := 0,
          stateid := 0, nsheaf := 0 }
      State.compAbort k (s.setCompInst i { s.compInst i with flush := inst.flush - 1 }) i

/-- R399: CI_CFG.FLUSH: every descriptor queued and not begun ends with ABORTED. -/
def State.compFlush (s : State) (i : Nat) : State :=
  let q := compQ i
  let n := (s.sqTail q + 2 ^ 32 - s.sqHead q) % 2 ^ 32
  State.compAbort 65536 (s.setCompInst i { s.compInst i with flush := n }) i

/-- COMPRESSION_JOB_END: R388, R397. -/
def execCompressionJobEnd (i : Fin 64) (s : State) : Host.Outcome State Fault Refusal :=
  .next (s.whole (fun s => s.compEnd i.val))

end Sys2Proof.Machine
end

