-- ==== Sys2Proof/Machine/Crypto.lean ====
section
/-! DEFINITION. The published algorithms the engine and the start-up controller use (R406, R408, R413, R500): AES,
GCM, CTR, XTS, CMAC, AES-KWP, the SP 800-108 KDF, CTR_DRBG, ChaCha20-Poly1305, SHA-384 and ECDSA P-384. The spec
names their standards; their content is PRESUMED from those standards (log 14). -/

namespace Sys2Proof.Machine

/-! ### Byte strings -/

def xorBytes (a b : List Byte) : List Byte := List.zipWith (· ^^^ ·) a b

/-- The big-endian number of a byte string. -/
def beNat (bs : List Byte) : Nat := bs.foldl (fun a b => 256 * a + b.toNat) 0

/-- `n` bytes, big-endian. -/
def beBytes : Nat → Nat → List Byte
  | 0, _ => []
  | n + 1, v => beBytes n (v / 256) ++ [BitVec.ofNat 8 v]

/-- The little-endian number of a byte string. -/
def leNat (bs : List Byte) : Nat := bs.foldr (fun b a => 256 * a + b.toNat) 0

/-- `n` bytes, little-endian. -/
def leBytes : Nat → Nat → List Byte
  | 0, _ => []
  | n + 1, v => BitVec.ofNat 8 v :: leBytes n (v / 256)

def zeros (n : Nat) : List Byte := List.replicate n 0#8

/-- Pieces of `k` bytes, the last perhaps shorter; `fuel` bounds their number. -/
def chunks (k : Nat) : Nat → List Byte → List (List Byte)
  | 0, _ => []
  | fuel + 1, bs => if bs = [] then [] else bs.take k :: chunks k fuel (bs.drop k)

def blocks16 (bs : List Byte) : List (List Byte) := chunks 16 bs.length bs

/-- ASCII text. -/
def ascii (s : String) : List Byte := s.toList.map (fun c => BitVec.ofNat 8 c.toNat)

/-! ### AES (FIPS 197) -/

def aesDouble (a : Nat) : Nat := if a < 128 then 2 * a else (2 * a) ^^^ 0x11B

def aesMulAux : Nat → Nat → Nat → Nat
  | 0, _, _ => 0
  | k + 1, a, b => (if b % 2 = 1 then a else 0) ^^^ aesMulAux k (aesDouble a) (b / 2)

/-- Multiplication in GF(2^8) modulo x^8 + x^4 + x^3 + x + 1. -/
def aesMul (a b : Nat) : Nat := aesMulAux 8 a b

/-- The inverse, a^254. -/
def aesInv (a : Nat) : Nat :=
  let a2 := aesMul a a
  let a3 := aesMul a2 a
  let a6 := aesMul a3 a3
  let a12 := aesMul a6 a6
  let a15 := aesMul a12 a3
  let a30 := aesMul a15 a15
  let a60 := aesMul a30 a30
  let a120 := aesMul a60 a60
  let a126 := aesMul a120 a6
  let a127 := aesMul a126 a
  aesMul a127 a127

def rotl8 (a n : Nat) : Nat := (a * 2 ^ n ||| a / 2 ^ (8 - n)) % 256

def sboxOf (a : Nat) : Nat :=
  let b := aesInv a
  b ^^^ rotl8 b 1 ^^^ rotl8 b 2 ^^^ rotl8 b 3 ^^^ rotl8 b 4 ^^^ 0x63

def invSboxOf (a : Nat) : Nat := aesInv (rotl8 a 1 ^^^ rotl8 a 3 ^^^ rotl8 a 6 ^^^ 0x05)

def sboxTable : Array Nat := (Array.range 256).map sboxOf

def invSboxTable : Array Nat := (Array.range 256).map invSboxOf

def subByte (b : Byte) : Byte := BitVec.ofNat 8 (sboxTable.getD b.toNat 0)

def invSubByte (b : Byte) : Byte := BitVec.ofNat 8 (invSboxTable.getD b.toNat 0)

/-- The round-key words; `acc` holds those made, newest first, `i` the number of the next, `rcon` the next
constant. -/
def aesExpand (nk : Nat) : Nat → Nat → Nat → List (List Byte) → List (List Byte)
  | 0, _, _, acc => acc.reverse
  | fuel + 1, i, rcon, acc =>
    let t := acc.headD []
    let t' :=
      if i % nk = 0 then xorBytes ((t.drop 1 ++ t.take 1).map subByte) [BitVec.ofNat 8 rcon, 0, 0, 0]
      else if 6 < nk ∧ i % nk = 4 then t.map subByte
      else t
    aesExpand nk fuel (i + 1) (if i % nk = 0 then aesDouble rcon else rcon)
      (xorBytes (acc.getD (nk - 1) []) t' :: acc)

/-- The round keys of a 16- or 32-byte key, as blocks. -/
def aesKeys (key : List Byte) : List (List Byte) :=
  let nk := key.length / 4
  let ws := aesExpand nk (4 * (nk + 7) - nk) nk 1 (chunks 4 nk key).reverse
  blocks16 ws.flatten

def shiftRows (s : List Byte) : List Byte := (List.range 16).map (fun i => s.getD ((i % 4) + 4 * ((i / 4 + i % 4) % 4)) 0)

def invShiftRows (s : List Byte) : List Byte :=
  (List.range 16).map (fun i => s.getD ((i % 4) + 4 * ((i / 4 + 4 - i % 4) % 4)) 0)

/-- MixColumns with the coefficients of its first row. -/
def mixWith (m : List Nat) (s : List Byte) : List Byte :=
  (List.range 16).map (fun i =>
    let c := i / 4
    let r := i % 4
    BitVec.ofNat 8 ((List.range 4).foldl (fun acc k =>
      acc ^^^ aesMul (m.getD ((k + 4 - r) % 4) 0) (s.getD (4 * c + k) 0).toNat) 0))

def aesRounds : List (List Byte) → List Byte → List Byte
  | [], s => s
  | [k], s => xorBytes (shiftRows (s.map subByte)) k
  | k :: ks, s => aesRounds ks (xorBytes (mixWith [2, 3, 1, 1] (shiftRows (s.map subByte))) k)

/-- One block enciphered under expanded keys. -/
def aesEnc (keys : List (List Byte)) (b : List Byte) : List Byte :=
  match keys with
  | [] => b
  | k :: ks => aesRounds ks (xorBytes b k)

def aesInvRounds : List (List Byte) → List Byte → List Byte
  | [], s => s
  | [k], s => xorBytes ((invShiftRows s).map invSubByte) k
  | k :: ks, s => aesInvRounds ks (mixWith [14, 11, 13, 9] (xorBytes ((invShiftRows s).map invSubByte) k))

/-- One block deciphered under expanded keys. -/
def aesDec (keys : List (List Byte)) (b : List Byte) : List Byte :=
  match keys.reverse with
  | [] => b
  | k :: ks => aesInvRounds ks (xorBytes b k)

/-! ### Counter mode and GCM (SP 800-38A, SP 800-38D) -/

/-- The key stream from counter block `iv` (12 bytes) and count `n`, applied to the blocks. -/
def ctrBlocks (keys : List (List Byte)) (iv : List Byte) : Nat → List (List Byte) → List Byte
  | _, [] => []
  | n, b :: bs => xorBytes b (aesEnc keys (iv ++ beBytes 4 (n % 2 ^ 32))) ++ ctrBlocks keys iv (n + 1) bs

def aesCtr (key iv : List Byte) (start : Nat) (bs : List Byte) : List Byte :=
  ctrBlocks (aesKeys key) iv start (blocks16 bs)

/-- Multiplication in GF(2^128) as GHASH defines it. -/
def ghashMulAux : Nat → BitVec 128 → BitVec 128 → BitVec 128 → BitVec 128
  | 0, _, _, z => z
  | i + 1, x, v, z =>
    let z := if x.getLsbD i then z ^^^ v else z
    ghashMulAux i x (if v.getLsbD 0 then (v >>> 1) ^^^ (0xE1#128 <<< 120) else v >>> 1) z

def ghashMul (x h : BitVec 128) : BitVec 128 := ghashMulAux 128 x h 0

def padZeros (k : Nat) (bs : List Byte) : List Byte := bs ++ zeros ((k - bs.length % k) % k)

def ghash (h : BitVec 128) (bs : List Byte) : BitVec 128 :=
  (blocks16 bs).foldl (fun y b => ghashMul (y ^^^ BitVec.ofNat 128 (beNat b)) h) 0

/-- The GCM tag of a ciphertext. -/
def gcmTag (key iv aad ct : List Byte) : List Byte :=
  let keys := aesKeys key
  let h := BitVec.ofNat 128 (beNat (aesEnc keys (zeros 16)))
  let y := ghash h (padZeros 16 aad ++ padZeros 16 ct ++ beBytes 8 (8 * aad.length) ++ beBytes 8 (8 * ct.length))
  xorBytes (beBytes 16 y.toNat) (aesEnc keys (iv ++ beBytes 4 1))

/-- The GCM cipher text of a plain text, and the reverse. -/
def gcmCrypt (key iv bs : List Byte) : List Byte := aesCtr key iv 2 bs

/-! ### XTS (IEEE 1619) -/

def xtsDouble (t : List Byte) : List Byte :=
  let v := leNat t
  leBytes 16 (if v < 2 ^ 127 then 2 * v else (2 * v % 2 ^ 128) ^^^ 0x87)

def xtsBlock (f : List Byte → List Byte) (t b : List Byte) : List Byte := xorBytes (f (xorBytes b t)) t

/-- The blocks of a data unit from tweak `t`; ciphertext stealing on a short last block. -/
def xtsBlocks (f : List Byte → List Byte) (enc : Bool) : List Byte → List (List Byte) → List Byte
  | _, [] => []
  | t, [b] => xtsBlock f t b
  | t, [b, c] =>
    let t' := xtsDouble t
    if c.length = 16 then xtsBlock f t b ++ xtsBlock f t' c
    else
      let (t1, t2) := if enc then (t, t') else (t', t)
      let x := xtsBlock f t1 b
      xtsBlock f t2 (c ++ x.drop c.length) ++ x.take c.length
  | t, b :: bs => xtsBlock f t b ++ xtsBlocks f enc (xtsDouble t) bs

/-- XTS of one data unit under a double key. -/
def aesXts (enc : Bool) (key : List Byte) (unit : Nat) (bs : List Byte) : List Byte :=
  let k1 := aesKeys (key.take (key.length / 2))
  let t := aesEnc (aesKeys (key.drop (key.length / 2))) (leBytes 16 unit)
  xtsBlocks (if enc then aesEnc k1 else aesDec k1) enc t (blocks16 bs)

/-! ### CMAC (SP 800-38B) -/

def cmacDouble (b : List Byte) : List Byte :=
  let v := beNat b
  beBytes 16 (if v < 2 ^ 127 then 2 * v else (2 * v % 2 ^ 128) ^^^ 0x87)

def aesCmac (key bs : List Byte) : List Byte :=
  let keys := aesKeys key
  let k1 := cmacDouble (aesEnc keys (zeros 16))
  let full := (bs.length - 1) / 16 * 16
  let x := (blocks16 (bs.take full)).foldl (fun x b => aesEnc keys (xorBytes x b)) (zeros 16)
  let last := bs.drop full
  let y := if last.length = 16 then xorBytes last k1
    else xorBytes (padZeros 16 (last ++ [0x80#8])) (cmacDouble k1)
  aesEnc keys (xorBytes x y)

/-! ### AES-KWP (SP 800-38F, RFC 5649) -/

/-- The wrapping steps over A and the semiblocks; `t` counts from 1. -/
def kwSteps (keys : List (List Byte)) : Nat → Nat → List Byte → List (List Byte) → List Byte
  | 0, _, a, rs => a ++ rs.flatten
  | fuel + 1, t, a, rs =>
    match rs with
    | [] => a
    | r :: rest =>
      let b := aesEnc keys (a ++ r)
      kwSteps keys fuel (t + 1) (xorBytes (b.take 8) (beBytes 8 t)) (rest ++ [b.drop 8])

/-- The unwrapping steps; `t` counts down to 1 and the semiblocks are taken from the back. -/
def kwUnsteps (keys : List (List Byte)) : Nat → List Byte → List (List Byte) → List Byte × List Byte
  | 0, a, rs => (a, rs.reverse.flatten)
  | t + 1, a, rs =>
    match rs with
    | [] => (a, [])
    | r :: rest =>
      let b := aesDec keys (xorBytes a (beBytes 8 (t + 1)) ++ r)
      kwUnsteps keys t (b.take 8) (rest ++ [b.drop 8])

/-- KWP of a byte string of more than 8 bytes. -/
def kwpWrap (key bs : List Byte) : List Byte :=
  let p := padZeros 8 bs
  let n := p.length / 8
  kwSteps (aesKeys key) (6 * n) 1 ([0xA6#8, 0x59#8, 0x59#8, 0xA6#8] ++ beBytes 4 bs.length) (chunks 8 n p)

/-- The byte string a KWP output holds, where its integrity check passes. -/
def kwpUnwrap (key bs : List Byte) : Option (List Byte) :=
  let n := bs.length / 8 - 1
  let (a, p) := kwUnsteps (aesKeys key) (6 * n) (bs.take 8) (chunks 8 n (bs.drop 8)).reverse
  let len := beNat (a.drop 4)
  if a.take 4 = [0xA6#8, 0x59#8, 0x59#8, 0xA6#8] ∧ 8 * (n - 1) < len ∧ len ≤ 8 * n ∧
      (p.drop len).all (· == 0#8) ∧ bs.length % 8 = 0 then some (p.take len)
  else none

/-! ### The KDF of R408 (SP 800-108, counter mode, CMAC) -/

/-- `bits` of output in iterations of an 8-bit counter. -/
def kdf (key label context : List Byte) (bits : Nat) : List Byte :=
  ((List.range ((bits + 127) / 128)).flatMap (fun i =>
    aesCmac key ([BitVec.ofNat 8 (i + 1)] ++ label ++ [0#8] ++ context ++ beBytes 4 bits))).take (bits / 8)

/-! ### CTR_DRBG (SP 800-90A, AES-256, no derivation function) -/

def drbgBlocks (keys : List (List Byte)) : Nat → Nat → List Byte
  | 0, _ => []
  | n + 1, v => aesEnc keys (beBytes 16 ((v + 1) % 2 ^ 128)) ++ drbgBlocks keys n ((v + 1) % 2 ^ 128)

def drbgUpdate (key v input : List Byte) : List Byte × List Byte :=
  let t := xorBytes (drbgBlocks (aesKeys key) 3 (beNat v)) input
  (t.take 32, t.drop 32)

/-- A new or reseeded instantiation. -/
def drbgSeed (old : Option Drbg) (seed : List Byte) : Drbg :=
  let (k, v) := match old with
    | some d => drbgUpdate d.key d.v seed
    | none => drbgUpdate (zeros 32) (zeros 16) seed
  { key := k, v := v, requests := 0 }

/-- One generate request for `n` bytes. -/
def drbgGenerate (d : Drbg) (n : Nat) : Drbg × List Byte :=
  let k := (n + 15) / 16
  let out := drbgBlocks (aesKeys d.key) k (beNat d.v)
  let (k', v') := drbgUpdate d.key (beBytes 16 ((beNat d.v + k) % 2 ^ 128)) (zeros 48)
  ({ key := k', v := v', requests := d.requests + 1 }, out.take n)

/-! ### ChaCha20-Poly1305 (RFC 8439) -/

def rotl32 (v : BitVec 32) (n : Nat) : BitVec 32 := v <<< n ||| v >>> (32 - n)

def chachaQuarter (a b c d : Nat) (s : Array (BitVec 32)) : Array (BitVec 32) :=
  let g (s : Array (BitVec 32)) (i : Nat) := s.getD i 0
  let s := s.setIfInBounds a (g s a + g s b)
  let s := s.setIfInBounds d (rotl32 (g s d ^^^ g s a) 16)
  let s := s.setIfInBounds c (g s c + g s d)
  let s := s.setIfInBounds b (rotl32 (g s b ^^^ g s c) 12)
  let s := s.setIfInBounds a (g s a + g s b)
  let s := s.setIfInBounds d (rotl32 (g s d ^^^ g s a) 8)
  let s := s.setIfInBounds c (g s c + g s d)
  s.setIfInBounds b (rotl32 (g s b ^^^ g s c) 7)

def chachaDouble (s : Array (BitVec 32)) : Array (BitVec 32) :=
  let s := chachaQuarter 3 7 11 15 (chachaQuarter 2 6 10 14 (chachaQuarter 1 5 9 13 (chachaQuarter 0 4 8 12 s)))
  chachaQuarter 3 4 9 14 (chachaQuarter 2 7 8 13 (chachaQuarter 1 6 11 12 (chachaQuarter 0 5 10 15 s)))

def chachaBlock (key nonce : List Byte) (count : Nat) : List Byte :=
  let w (bs : List Byte) : List (BitVec 32) := (chunks 4 bs.length bs).map (fun b => BitVec.ofNat 32 (leNat b))
  let init : Array (BitVec 32) :=
    ([0x61707865#32, 0x3320646E#32, 0x79622D32#32, 0x6B206574#32] ++ w key ++ [BitVec.ofNat 32 count] ++ w nonce).toArray
  let out := (List.range 10).foldl (fun s _ => chachaDouble s) init
  (List.range 16).flatMap (fun i => leBytes 4 (init.getD i 0 + out.getD i 0).toNat)

def chachaBlocks (key nonce : List Byte) : Nat → List (List Byte) → List Byte
  | _, [] => []
  | n, b :: bs => xorBytes b (chachaBlock key nonce n) ++ chachaBlocks key nonce (n + 1) bs

def chacha20 (key nonce bs : List Byte) : List Byte := chachaBlocks key nonce 1 (chunks 64 bs.length bs)

def poly1305 (key bs : List Byte) : List Byte :=
  let r := leNat (key.take 16) &&& 0x0FFFFFFC0FFFFFFC0FFFFFFC0FFFFFFF
  let a := (blocks16 bs).foldl (fun a b => (a + leNat (b ++ [1#8])) * r % (2 ^ 130 - 5)) 0
  leBytes 16 ((a + leNat (key.drop 16)) % 2 ^ 128)

def chachaTag (key nonce aad ct : List Byte) : List Byte :=
  poly1305 ((chachaBlock key nonce 0).take 32)
    (padZeros 16 aad ++ padZeros 16 ct ++ leBytes 8 aad.length ++ leBytes 8 ct.length)

/-! ### SHA-384 (FIPS 180-4) -/

/-- The `k`-th root of `n` rounded down, by `fuel` bits. -/
def rootBits (k n : Nat) : Nat → Nat → Nat
  | 0, r => r
  | b + 1, r => rootBits k n b (if (r + 2 ^ b) ^ k ≤ n then r + 2 ^ b else r)

def isPrime (n : Nat) : Bool := decide (2 ≤ n) && (List.range n).all (fun d => d < 2 || n % d != 0)

def primes : List Nat := (List.range 410).filter isPrime

/-- The round constants: the fractional bits of the cube roots of the first 80 primes. -/
def shaK : List (BitVec 64) := (primes.take 80).map (fun p => BitVec.ofNat 64 (rootBits 3 (p * 2 ^ 192) 70 0))

/-- The initial hash: the fractional bits of the square roots of the ninth to sixteenth primes. -/
def sha384Init : List (BitVec 64) := ((primes.drop 8).take 8).map (fun p => BitVec.ofNat 64 (rootBits 2 (p * 2 ^ 128) 70 0))

def ror64 (v : BitVec 64) (n : Nat) : BitVec 64 := v >>> n ||| v <<< (64 - n)

/-- The message schedule, newest first. -/
def shaSchedule : Nat → List (BitVec 64) → List (BitVec 64)
  | 0, ws => ws.reverse
  | n + 1, ws =>
    let w (i : Nat) := ws.getD (i - 1) 0#64
    let s0 := ror64 (w 15) 1 ^^^ ror64 (w 15) 8 ^^^ (w 15) >>> 7
    let s1 := ror64 (w 2) 19 ^^^ ror64 (w 2) 61 ^^^ (w 2) >>> 6
    shaSchedule n ((w 16 + s0 + w 7 + s1) :: ws)

def shaRound (h : List (BitVec 64)) (kw : BitVec 64 × BitVec 64) : List (BitVec 64) :=
  match h with
  | [a, b, c, d, e, f, g, hh] =>
    let t1 := hh + (ror64 e 14 ^^^ ror64 e 18 ^^^ ror64 e 41) + ((e &&& f) ^^^ (~~~e &&& g)) + kw.1 + kw.2
    let t2 := (ror64 a 28 ^^^ ror64 a 34 ^^^ ror64 a 39) + ((a &&& b) ^^^ (a &&& c) ^^^ (b &&& c))
    [t1 + t2, a, b, c, d + t1, e, f, g]
  | _ => h

def shaBlock (h : List (BitVec 64)) (b : List Byte) : List (BitVec 64) :=
  let ws := (chunks 8 16 b).map (fun x => BitVec.ofNat 64 (beNat x))
  let out := (List.zip shaK (shaSchedule 64 ws.reverse)).foldl shaRound h
  List.zipWith (· + ·) h out

def sha384 (bs : List Byte) : List Byte :=
  let p := bs ++ [0x80#8]
  let p := p ++ zeros ((240 - p.length % 128) % 128) ++ beBytes 16 (8 * bs.length)
  (((chunks 128 p.length p).foldl shaBlock sha384Init).flatMap (fun w => beBytes 8 w.toNat)).take 48

/-! ### ECDSA over P-384 (FIPS 186-5) -/

def p384P : Nat := 2 ^ 384 - 2 ^ 128 - 2 ^ 96 + 2 ^ 32 - 1
def p384N : Nat :=
  0xFFFFFFFFFFFFFFFFFFFFFFFFFFFFFFFFFFFFFFFFFFFFFFFFC7634D81F4372DDF581A0DB248B0A77AECEC196ACCC52973
def p384B : Nat :=
  0xB3312FA7E23EE7E4988E056BE3F82D19181D9C6EFE8141120314088F5013875AC656398D8A2ED19D2A85C8EDD3EC2AEF
def p384Gx : Nat :=
  0xAA87CA22BE8B05378EB1C71EF320AD746E1D3B628BA79B9859F741E082542A385502F25DBF55296C3A545E3872760AB7
def p384Gy : Nat :=
  0x3617DE4A96262C6F5D9E98BF9292DC29F8F41DBD289A147CE9DA3113B5F0B8C00A60B1CE1D7E819D7A431D7C90EA0E5F

/-- `b ^ e` modulo `m`, `e` below 2^fuel. -/
def powMod (m : Nat) : Nat → Nat → Nat → Nat
  | 0, _, _ => 1 % m
  | fuel + 1, b, e => (if e % 2 = 1 then b else 1) * powMod m fuel (b * b % m) (e / 2) % m

def invMod (m a : Nat) : Nat := powMod m 400 (a % m) (m - 2)

/-- Addition of points of the curve; none is the point at infinity. -/
def ecAdd (a b : Option (Nat × Nat)) : Option (Nat × Nat) :=
  match a, b with
  | none, _ => b
  | _, none => a
  | some (x1, y1), some (x2, y2) =>
    if x1 = x2 ∧ (y1 + y2) % p384P = 0 then none
    else
      let l := if x1 = x2 then (3 * x1 * x1 + (p384P - 3)) * invMod p384P (2 * y1)
        else (y2 + (p384P - y1)) * invMod p384P (x2 + (p384P - x1))
      let l := l % p384P
      let x3 := (l * l + 2 * p384P - x1 - x2) % p384P
      some (x3, (l * (x1 + (p384P - x3)) + (p384P - y1)) % p384P)

def ecMul : Nat → Nat → Option (Nat × Nat) → Option (Nat × Nat)
  | 0, _, _ => none
  | fuel + 1, k, a =>
    let r := ecMul fuel (k / 2) (ecAdd a a)
    if k % 2 = 1 then ecAdd a r else r

/-- The signature `r`, `s` of a digest verifies under the public key `x`, `y`. -/
def ecdsaVerify (x y r s : Nat) (digest : List Byte) : Bool :=
  if p384P ≤ x ∨ p384P ≤ y ∨ (y * y) % p384P ≠ (x * x * x + (p384P - 3) * x + p384B) % p384P then false
  else if r < 1 ∨ p384N ≤ r ∨ s < 1 ∨ p384N ≤ s then false
  else
    let w := invMod p384N s
    let u := beNat digest * w % p384N
    let v := r * w % p384N
    match ecAdd (ecMul 384 u (some (p384Gx, p384Gy))) (ecMul 384 v (some (x, y))) with
    | none => false
    | some (px, _) => px % p384N == r

end Sys2Proof.Machine
end

