-- ==== Sys2Proof/Machine/Cipher.lean ====
section
/-! DEFINITION. Cipher jobs and keys (R404-R423): descriptors and their checks, the algorithms on data, key slots and
blobs, the DRBG, waiting jobs, and the completion entry. -/

namespace Sys2Proof.Machine

/-! ### Algorithms and slots (R406, R411) -/

/-- R406: the key bytes of an ALG; 0 where it is not assigned. -/
def algKey (alg : Nat) : Nat :=
  match alg with
  | 1 => 16
  | 2 => 32
  | 3 => 32
  | 4 => 64
  | 5 => 16
  | 6 => 32
  | 7 => 16
  | 8 => 32
  | 9 => 32
  | _ => 0

def algGcm (alg : Nat) : Bool := alg == 1 || alg == 2
def algXts (alg : Nat) : Bool := alg == 3 || alg == 4
def algCtr (alg : Nat) : Bool := alg == 5 || alg == 6
def algMac (alg : Nat) : Bool := alg == 7 || alg == 8

/-- The authenticated algorithms. -/
def algTagged (alg : Nat) : Bool := algGcm alg || alg == 9

/-- R411: ENC takes a counter value. -/
def algNonce (alg : Nat) : Bool := algTagged alg || algCtr alg

def opEnc : Nat := 0x01
def opDec : Nat := 0x02
def opMac : Nat := 0x03
def opMacv : Nat := 0x04
def opLoad : Nat := 0x10
def opUnload : Nat := 0x11
def opGenkey : Nat := 0x12
def opWrap : Nat := 0x13

def isData (op : Nat) : Bool := decide (1 ≤ op ∧ op ≤ 4)

/-- R406: the algorithm has the operation. -/
def algAllows (alg op : Nat) : Bool :=
  if algMac alg then op == opMac || op == opMacv else algKey alg != 0 && (op == opEnc || op == opDec)

/-- R409, R410: ALG and USAGE that a blob may have. -/
def usageOk (alg usage : Nat) : Bool :=
  algKey alg != 0 && decide (usage < 32) && (!usage.testBit 4 || alg == 1 || alg == 2 || alg == 9)

def State.slotAt (s : State) (k : Nat) : KeySlot := SMap.get KeySlot.reset s.io.slots k

def State.setSlot (s : State) (k : Nat) (v : KeySlot) : State :=
  { s with io := { s.io with slots := s.io.slots.set KeySlot.reset k v } }

/-- R426: the device slot of a relative slot; none past the instance's range. -/
def State.slotOf (s : State) (i rel : Nat) : Option Nat :=
  if rel < s.fld (Reg.cxKey i) 16 13 then some (s.fld (Reg.cxKey i) 0 12 + rel) else none

/-! ### The DRBG (R413) -/

/-- A new seed; RESEEDS counts. -/
def State.reseed (s : State) (seed : List Byte) : State :=
  let s := { s with io := { s.io with drbg := some (drbgSeed s.io.drbg seed) } }
  (s.countSat Reg.cphRng 32 32).setFlag Reg.cphRng 0 true

/-- DRBG_RESEED: a seed arrives; where the health tests fail nothing more is drawn until one passes. -/
def State.drbgReseed (s : State) (seed : BitVec 384) (healthy : Bool) : State :=
  if s.stop ≠ .running then s
  else if healthy then s.reseed (beBytes 48 seed.toNat)
  else
    let s := { s with io := { s.io with drbg := none } }
    ((s.setFlag Reg.cphRng 0 false).setEv Reg.cphRng 1 371).fault
      { src := 0x38, acc := 0xF, master := masterId 2 0, parish := none, pa := none, synd := 0 }

/-- R413: `n` random bytes; none while the DRBG draws nothing. After 1,024 requests it reseeds first, from entropy
that is a free value (log 3). -/
def State.draw (s : State) (n : Nat) : State × Option (List Byte) :=
  match s.io.drbg with
  | none => (s, none)
  | some d =>
    let s := if d.requests < 1024 then s else
      let seed := (s.freeWords 6).flatMap bytesOf
      ({ s with free := s.free + 6 }).reseed seed
    let (d, bs) := drbgGenerate (s.io.drbg.getD d) n
    ({ s with io := { s.io with drbg := some d } }, some bs)

/-! ### Descriptors (R414, R417) -/

/-- R409: a blob's bytes for a key length. -/
def blobLen (alg : Nat) : Nat := algKey alg + 24

/-- R417: the checks of a cipher descriptor in order; `lenc` is LEN where R415 took it from the awaited entry. -/
def State.checkCiph (s : State) (i : Nat) (ws : List Word) (lenc : Option (BitVec 32)) : Except Nat CiphDesc :=
  let p := s.qParish (.ciph (Fin.ofNat 64 i))
  let w (k : Nat) := ws.getD k Word.raw0
  let f (k lo n : Nat) := bits (w k).val lo n
  let op := f 0 56 8
  let stream := f 0 55 1 == 1
  let data := isData op
  let slot := s.slotOf i (f 0 32 12)
  let key := s.slotAt (slot.getD 4096)
  let keyjob := op == opGenkey || op == opWrap
  let alg := if keyjob then f 0 24 8 else key.alg.toNat
  let usage := if keyjob then f 0 16 8 else key.usage.toNat
  let tagged := algTagged alg && (op == opEnc || op == opDec)
  let len := match lenc with
    | some n => n.toNat
    | none => if op == opWrap then algKey alg else f 2 0 32
  let hasSrc := data || op == opLoad || op == opWrap
  let hasDst := op == opEnc || op == opDec || op == opMac || keyjob
  let out := if keyjob then blobLen alg else if op == opMac then 16 else if op == opEnc && tagged then len + 16 else len
  let src : JobRange := { cap := w 1, off := f 2 32 32,
                          len := if (op == opDec && tagged) || op == opMacv then len + 16 else len, need := [pR] }
  let dst : JobRange := { cap := w 3, off := f 4 32 32, len := out, need := [pW] }
  let hasAad := tagged && w 5 != Word.raw0
  let aad : JobRange := { cap := w 5, off := 0, len := (s.capEntry p (capIndex (w 5))).len, need := [pR] }
  let used := (if hasSrc then [src] else []) ++ (if hasDst then [dst] else []) ++ (if hasAad then [aad] else [])
  let reserved :=
    if data then f 0 50 2 != 0 || (stream && !(op == opDec && (key.alg == 0 || algTagged alg)))
    else if op == opLoad then f 0 44 10 != 0 || f 0 0 31 != 0 || stream
    else if op == opUnload then f 0 44 10 != 0 || f 0 0 32 != 0 || stream
    else f 0 44 10 != 0 || f 0 0 16 != 0 || stream
  if ws.any Word.poisoned then .error 0x04
  else if !(w 0).isFixRaw ∨ !(w 2).isFixRaw ∨ !(w 4).isFixRaw ∨ !(data ∨ (opLoad ≤ op ∧ op ≤ opWrap)) ∨ reserved ∨
      (w 7).isCap then .error 0x09
  else if slot.isNone ∨ (data ∧ (key.alg = 0 ∨ !algAllows alg op ∨ !usage.testBit (op - 1))) then .error 0x07
  else if (data ∧ algXts alg ∧ (len < 16 ∨ 0x1000000 < len)) ∨
      (op = opDec ∧ tagged ∧ (if stream then decide (len ≤ 0x40000) else decide (0x100000 < len))) ∨
      (hasAad ∧ s.rangeCap p aad ∧ 0xFFFFFFFF < aad.len) ∨ (op = opLoad ∧ !([40, 56, 88].contains len)) ∨
      (keyjob ∧ !usageOk alg usage) then .error 0x09
  else if !used.all (s.rangeCap p) then .error 0x10
  else if hasSrc && !s.rangeIn p src then .error 0x03
  else if hasDst && !s.rangeIn p dst then .error 0x06
  else if !used.all (s.rangePerm p) then .error 0x10
  else if !used.all (s.rangeSpan p) then .error 0x10
  else if hasDst && ((hasSrc && overlap (s.rangeAt p dst) out (s.rangeAt p src) src.len &&
        s.rangeAt p dst != s.rangeAt p src) ||
      (hasAad && overlap (s.rangeAt p dst) out (s.rangeAt p aad) aad.len)) then .error 0x09
  else if op == opEnc && algNonce alg && key.ctr == BitVec.allOnes 64 then .error 0x08
  else .ok { op := op, stream := stream, saltin := f 0 31 1 == 1, slot := slot.getD 4096, alg := alg, usage := usage,
             src := s.rangeAt p src, len := len, dst := s.rangeAt p dst, salt := f 4 0 32,
             aad := if hasAad then (s.rangeAt p aad, aad.len) else (0, 0), iv := (w 6).val,
             d := (w 6).val ++ (w 5).val }

/-! ### Data jobs (R406, R411, R418, R419, R421) -/

/-- R411: the 12-byte IV. -/
def ivBytes (salt n : Nat) : List Byte := beBytes 4 salt ++ beBytes 8 n

/-- The algorithm applied to a message, tag apart. -/
def cryptData (alg : Nat) (enc : Bool) (key iv : List Byte) (unit : Nat) (bs : List Byte) : List Byte :=
  if algGcm alg then gcmCrypt key iv bs
  else if algXts alg then aesXts enc key unit bs
  else if algCtr alg then aesCtr key iv 1 bs
  else chacha20 key iv bs

def dataTag (alg : Nat) (key iv aad ct : List Byte) : List Byte :=
  if algGcm alg then gcmTag key iv aad ct else chachaTag key iv aad ct

/-- What a job has done: status, OUT, and the range STREAM overwrites. -/
structure CiphEnd where
  status : Nat
  out : Nat := 0
  word1 : BitVec 64 := 0
  dk : Option (BitVec 64 × BitVec 64) := none
  zero : Nat × Nat := (0, 0)
deriving DecidableEq, Repr

/-- How much of the output a job may have written before a read at `pos` met POIS: a free number of whole blocks
(log 3). -/
def State.ciphPrefix (s : State) (d : CiphDesc) (pos : Nat) : State × Nat :=
  let blocks := if algXts d.alg && d.len % 16 != 0 then min (pos / 16) (d.len / 16 - 1) else pos / 16
  (s.fresh, 16 * (s.freeVal.toNat % (blocks + 1)))

/-- Output written to DST; a part lost in a POIS word makes the job POISON. -/
def State.ciphOut (s : State) (p m : Nat) (d : CiphDesc) (bs : List Byte) (status : Nat) : State × CiphEnd :=
  let (s, lost) := s.dmaPutN p d.dst bs m
  let st := if lost = 0 then status else 0x04
  (s, { status := st, out := bs.length - lost, zero := if d.stream && st != 0 then (d.dst, bs.length) else (0, 0) })

/-- The stream of a cipher cluster (R237). -/
def clusterStream (m : Nat) : Nat := 272 + m % 0x100

/-- R475: where a data job meets an uncorrectable error of its key slot, the slot is emptied: true where it can go
on. -/
def State.keyRead (s : State) (m p slot : Nat) (f : JobFlaw) : State × Bool :=
  if !f.key then (s, true)
  else match s.engineRead m p f.err with
    | (s, true) => (s, true)
    | (s, false) => (s.setSlot slot .reset, false)

/-- The error that a job meets as it reads its source. -/
def JobFlaw.at_ (f : JobFlaw) (src : Nat) : JobErr :=
  { addr := src / 8 * 8 + 8 * f.word, err := if f.key then 0 else f.err }

/-- ENC and DEC. -/
def State.cryptJob (s : State) (p m : Nat) (d : CiphDesc) (who : Who) (f : JobFlaw) : State × CiphEnd :=
  let k := s.slotAt d.slot
  let enc := d.op == opEnc
  let tagged := algTagged d.alg
  let n := if enc then k.ctr else d.iv
  let taken := enc && algNonce d.alg
  let iv := ivBytes (if enc then k.salt.toNat else d.salt) n.toNat
  let s := if taken then s.setSlot d.slot { k with ctr := k.ctr + 1 } else s
  let done (r : State × CiphEnd) : State × CiphEnd := (r.1, { r.2 with word1 := if taken then n else 0 })
  match s.keyRead m p d.slot f with
  | (s, false) => done (s, { status := 0x04 })
  | (s, true) =>
  let (s, aad, badA) := s.jobRead p d.aad.1 d.aad.2 (who.train (clusterStream m) d.aad.1 d.aad.2) (f.at_ d.src)
  let n' := if !enc && tagged then d.len + 16 else d.len
  match badA with
  | some _ => done (s, { status := 0x04 })
  | none =>
  let (s, bs, bad) := s.jobRead p d.src n' (who.train (clusterStream m) d.src n') (f.at_ d.src)
  let msg := bs.take d.len
  let out := cryptData d.alg enc k.key iv d.iv.toNat msg
  let s := s.talN 0xB (m % 0x100) (if d.alg = 9 then (d.len + 63) / 64 else (d.len + 15) / 16)
  match bad with
  | some pos =>
    if !enc && tagged && !d.stream then done (s, { status := 0x04 })
    else
      let (s, c) := s.ciphPrefix d (min pos d.len)
      done (s.ciphOut p m d (out.take c) 0x04)
  | none =>
    if enc then done (s.ciphOut p m d (out ++ if tagged then dataTag d.alg k.key iv aad out else []) 0)
    else if tagged then
      let good := dataTag d.alg k.key iv aad msg == bs.drop d.len
      if good then done (s.ciphOut p m d out 0)
      else if d.stream then done (s.ciphOut p m d out 0x02)
      else done (s, { status := 0x02 })
    else done (s.ciphOut p m d out 0)

/-- MAC and MACV. -/
def State.macJob (s : State) (p m : Nat) (d : CiphDesc) (who : Who) (f : JobFlaw) : State × CiphEnd :=
  let n := if d.op == opMacv then d.len + 16 else d.len
  let key := (s.slotAt d.slot).key
  match s.keyRead m p d.slot f with
  | (s, false) => (s, { status := 0x04 })
  | (s, true) =>
  let (s, bs, bad) := s.jobRead p d.src n (who.train (clusterStream m) d.src n) (f.at_ d.src)
  let s := s.talN 0xB (m % 0x100) ((d.len + 15) / 16)
  if bad.isSome then (s, { status := 0x04 })
  else
    let t := aesCmac key (bs.take d.len)
    if d.op == opMac then s.ciphOut p m d t 0
    else (s, { status := if t == bs.drop d.len then 0 else 0x02 })

/-! ### Key jobs (R408-R412) -/

/-- R408: the KEK of a parish. -/
def State.kek (s : State) (p : Nat) : List Byte := (s.io.keks.find p).getD []

/-- R409: the clear header of a blob and the inner record's first word. -/
def blobHead (alg usage : Nat) : BitVec 64 :=
  BitVec.ofNat 64 (0x4B42 * 2 ^ 48 + 2 ^ 40 + alg * 2 ^ 32 + usage * 2 ^ 24 + algKey alg * 2 ^ 16 + (algKey alg + 16) * 2 ^ 8)

def blobInner (alg usage p : Nat) : BitVec 64 :=
  BitVec.ofNat 64 (alg * 2 ^ 56 + usage * 2 ^ 48 + algKey alg * 2 ^ 40 + p * 2 ^ 32 + 0x4F434B31)

def makeBlob (kek : List Byte) (alg usage p : Nat) (key : List Byte) : List Byte :=
  bytesOf (blobHead alg usage) ++ kwpWrap kek (bytesOf (blobInner alg usage p) ++ key)

/-- R410: the clear header of a blob of `len` bytes breaks R409. -/
def blobBad (h : BitVec 64) (len : Nat) : Bool :=
  let alg := bits h 32 8
  let usage := bits h 24 8
  h != blobHead alg usage || !usageOk alg usage || len != blobLen alg

/-- R410: ALG, USAGE and key of a blob that unwraps in parish `p`. -/
def readBlob (kek : List Byte) (p : Nat) (bs : List Byte) : Option (Nat × Nat × List Byte) :=
  let h := ofBytes (bs.take 8)
  let alg := bits h 32 8
  let usage := bits h 24 8
  if blobBad h bs.length then none
  else match kwpUnwrap kek (bs.drop 8) with
    | none => none
    | some r =>
      if r.length = 8 + algKey alg ∧ ofBytes (r.take 8) = blobInner alg usage p then some (alg, usage, r.drop 8) else none

/-- R412: the working key of a derived-key blob. -/
def dkKey (key : List Byte) (d : BitVec 128) : List Byte :=
  kdf key (ascii "OCTOC DK v1") (leBytes 16 d.toNat) (8 * key.length)

/-- LOAD. A header that can be read and breaks R409 gives KEY_INVALID before any poisoned word of the rest (R421). -/
def State.loadJob (s : State) (p : Nat) (d : CiphDesc) (who : Who) (f : JobFlaw) : State × CiphEnd :=
  if !d.saltin && s.io.drbg.isNone then (s, { status := 0x0A })
  else
    let (s, bs, bad) := s.jobRead p d.src d.len (who.train (clusterStream who.master) d.src d.len) (f.at_ d.src)
    let invalid := (s.setSlot d.slot .reset, ({ status := 0x07 } : CiphEnd))
    match bad with
    | some pos => if 8 ≤ pos ∧ blobBad (ofBytes (bs.take 8)) d.len then invalid else (s, { status := 0x04 })
    | none =>
      match readBlob (s.kek p) p bs with
      | none => invalid
      | some (alg, usage, key) =>
        let slot (k : List Byte) (salt : BitVec 32) : KeySlot :=
          { alg := BitVec.ofNat 8 alg, usage := BitVec.ofNat 8 usage, key := k, salt := salt, ctr := 0 }
        if usage.testBit 4 then
          let put (s : State) (dv : BitVec 128) : State × CiphEnd :=
            (s.setSlot d.slot (slot (dkKey key dv) 0),
              { status := 0, dk := some (dv.extractLsb' 0 64, dv.extractLsb' 64 64) })
          if d.saltin then put s d.d
          else match s.draw 16 with
            | (s, some r) => put s (BitVec.ofNat 128 (leNat r))
            | (s, none) => (s, { status := 0x0A })
        else match s.draw 4 with
          | (s, some r) => (s.setSlot d.slot (slot key (BitVec.ofNat 32 (beNat r))), { status := 0 })
          | (s, none) => (s, { status := 0x0A })

/-- GENKEY and WRAP. GENKEY reads no source: it meets its engine's error as it stages its blob. -/
def State.blobJob (s : State) (p m : Nat) (d : CiphDesc) (who : Who) (f : JobFlaw) : State × CiphEnd :=
  if d.op == opGenkey then
    match s.draw (algKey d.alg) with
    | (s, some k) =>
      match s.engineRead m p (f.at_ 0).err with
      | (s, true) => s.ciphOut p m d (makeBlob (s.kek p) d.alg d.usage p k) 0
      | (s, false) => (s, { status := 0x04 })
    | (s, none) => (s, { status := 0x0A })
  else
    let n := algKey d.alg
    let (s, k, bad) := s.jobRead p d.src n (who.train (clusterStream m) d.src n) (f.at_ d.src)
    if bad.isSome then (s, { status := 0x04 }) else s.ciphOut p m d (makeBlob (s.kek p) d.alg d.usage p k) 0

/-- A job that has passed its checks runs to its end. -/
def State.runCiph (s : State) (p m : Nat) (d : CiphDesc) (f : JobFlaw) : State × CiphEnd :=
  let who : Who := { master := m, acc := 8, parish := some p }
  if d.op == opLoad then s.loadJob p d who f
  else if d.op == opUnload then (s.setSlot d.slot .reset, { status := 0 })
  else if d.op == opGenkey || d.op == opWrap then s.blobJob p m d who f
  else if d.op == opMac || d.op == opMacv then s.macJob p m d who f
  else s.cryptJob p m d who f

/-! ### The queue's side (R405, R415, R416, R420) -/

def ciphQ (i : Nat) : QueueId := .ciph (Fin.ofNat 64 i)

/-- The descriptor at the head of instance `i`, without any effect. -/
def State.ciphHead (s : State) (i : Nat) : List Word := (s.headDesc (ciphQ i) (masterId 2 0)).2

def headField (ws : List Word) (lo n : Nat) : Nat := bits (ws.getD 0 Word.raw0).val lo n

/-- R415: the descriptor waits: WAIT on a data job whose word 0 can be read. -/
def waits (ws : List Word) : Bool :=
  let w := ws.getD 0 Word.raw0
  w.isFixRaw && isData (headField ws 56 8) && bit w.val 53

/-- R416: earlier jobs of the slot hold back the job. -/
def State.slotHeld (s : State) (i : Nat) (ws : List Word) : Bool :=
  let op := headField ws 56 8
  let mine := (s.ciphInst i).ciph.filter (fun j => j.slot.toNat == headField ws 32 12)
  if op == opEnc || op == opDec then mine.any (·.keyop)
  else if op == opLoad || op == opUnload then mine != []
  else false

/-- R415, R416, R418: the head may begin: it does not wait, and no begun HOLD job of the instance waits for staging. -/
def State.ciphFree (s : State) (i : Nat) : Bool :=
  let ws := s.ciphHead i
  !(waits ws && !(s.ciphInst i).wait.ready) && !s.slotHeld i ws && (s.ciphInst i).ciph.all (·.hold.isNone)

/-- R415: the awaited entry, once it exists: its status and OUT for the waiting job. -/
def State.waitSatisfied (s : State) (i : Nat) : State :=
  let inst := s.ciphInst i
  let q := ciphQ i
  if s.stop ≠ .running ∨ !s.qEnabled q ∨ s.sqHead q = s.sqTail q ∨ inst.wait.ready then s
  else
    let (s, ws) := s.headDesc q (masterId 2 0)
    let winst := headField ws 44 6
    let wcnt := headField ws 0 32
    let cq := compQ winst
    let put (s : State) (st : BitVec 8) (len : Option (BitVec 32)) : State :=
      s.setCiphInst i { s.ciphInst i with wait := { ready := true, status := st, len := len } }
    if !waits ws then s
    else if !s.qAssigned cq ∨ s.qParish cq ≠ s.qParish q then put s 0x0A none
    else if (s.cqTail cq + 2 ^ 32 - wcnt - 1) % 2 ^ 32 < 2 ^ 31 then
      let p := s.qParish cq
      let who : Who := { master := masterId 2 0, acc := 0xF, parish := some p }
      let a := ringBase (s.reg (queueCqb cq)) + 32 * (wcnt % 2 ^ s.fld (queueCfg cq) 16 5)
      let (s, es) := s.fetchWords p a who 4
      let e (k : Nat) := (dmaPayload (es.getD k Word.raw0)).1
      let len := if headField ws 52 1 = 1 then some (BitVec.ofNat 32 (bits (e 1) 32 32)) else none
      if es.any Word.poisoned then put s 0x04 len
      else put s (if bits (e 3) 0 8 = 0 ∧ bits (e 3) 40 6 = winst then 0 else 0x0A) len
    else s

/-- R432: what a cipher job costs. -/
def State.ciphCost (s : State) (i : Nat) (ws : List Word) : Nat :=
  match s.checkCiph i ws (s.ciphInst i).wait.len with
  | .error _ => 4096
  | .ok d => if isData d.op then d.len + d.aad.2 else 4096

/-- R418: the staging SRAM that a HOLD decryption takes: ciphertext, tag and AAD, at most all of it. -/
def CiphDesc.staging (d : CiphDesc) : Nat :=
  if d.op == opDec && algTagged d.alg && !d.stream then min (2 ^ 21) (d.len + 16 + d.aad.2) else 0

/-- The jobs that run on cluster `k` (R404). -/
def State.clusterJobs (s : State) (k : Nat) : List CiphJob :=
  s.io.ciph.flatMap (fun e => e.2.ciph.filter (fun j => j.cluster == k))

/-- R404, R418: the free staging SRAM of a cluster, of 2 MiB. -/
def State.freeStaging (s : State) (k : Nat) : Nat := 2 ^ 21 - ((s.clusterJobs k).map (·.staging)).sum

/-- R433: the cluster with a free job place that has the most free staging; among equals the one with fewer jobs, then the
lower number. -/
def State.clusterFor (s : State) : Option Nat :=
  let free := (List.range 6).filter (fun k => decide ((s.clusterJobs k).length < 2))
  let better (a b : Nat) : Bool :=
    decide (s.freeStaging b < s.freeStaging a) ||
      (s.freeStaging a == s.freeStaging b && decide ((s.clusterJobs a).length < (s.clusterJobs b).length))
  free.foldl (fun (o : Option Nat) k => match o with
    | none => some k
    | some j => some (if better k j then k else j)) none

/-- R420: the IV salt that an entry of a job with word 0 of `ws` reports. -/
def State.saltOf (s : State) (i : Nat) (ws : List Word) : BitVec 32 :=
  let op := headField ws 56 8
  if op == opEnc || op == opLoad then (s.slotAt ((s.slotOf i (headField ws 32 12)).getD 4096)).salt else 0

/-- R420: word 2 of an entry: SALT and OUT. -/
def saltWord (salt : BitVec 32) (out : Nat) : BitVec 64 := salt ++ BitVec.ofNat 32 out

/-- R420: what a job that has ended with `e` reports; `salt` is its slot's IV salt. -/
def CiphJob.ended (j : CiphJob) (e : CiphEnd) (salt : BitVec 32) : CiphJob :=
  { j with status := BitVec.ofNat 8 e.status, word1 := (e.dk.map (·.1)).getD e.word1,
           word2 := (e.dk.map (·.2)).getD (saltWord salt e.out), zero := e.zero, hold := none }

/-- Instance `i` begins the job at its head on a cluster: its checks, then all its effects but STREAM's zeroing; its
entry follows with CIPHER_JOB_END. A HOLD decryption that finds too little free staging waits for it (R418). -/
def State.beginCiph (s : State) (i cluster : Nat) (f : JobFlaw) : State :=
  let q := ciphQ i
  let p := s.qParish q
  let m := masterId 2 cluster
  let (s, ws) := s.headDesc q m
  let s := s.setFld (queueSqp q) 32 32 (s.sqHead q + 1)
  let wait := (s.ciphInst i).wait
  let op := headField ws 56 8
  let job : CiphJob :=
    { cluster := cluster, keyop := op == opLoad || op == opUnload, irq := descIrq ws 54, user := descUser ws,
      slot := BitVec.ofNat 12 (headField ws 32 12), status := 0, word1 := 0, word2 := 0, zero := (0, 0), staging := 0 }
  let put (s : State) (job : CiphJob) : State :=
    let inst := s.ciphInst i
    s.setCiphInst i { inst with ciph := inst.ciph ++ [job], reserved := inst.reserved + 1, wait := .reset }
  let ended (r : State × CiphEnd) (n : Nat) : State :=
    put r.1 { job.ended r.2 (r.1.saltOf i ws) with staging := n }
  match s.checkCiph i ws wait.len with
  | .error st => ended (s, { status := st }) 0
  | .ok d =>
    if waits ws && wait.status != 0#8 then ended (s, { status := wait.status.toNat }) 0
    else if s.freeStaging cluster < d.staging then put s { job with hold := some (d, f) }
    else ended (s.runCiph p m d f) d.staging

/-- R420: the entry of a job; AUTH_FAIL and IRQ raise the instance's event. -/
def State.ciphEntry (s : State) (i m : Nat) (j : CiphJob) : State :=
  let q := ciphQ i
  let s := s.qEntry q m j.user j.word1 j.word2
    (BitVec.ofNat 64 (i * 2 ^ 40 + j.slot.toNat * 2 ^ 28 + j.status.toNat))
  let s := if j.status = 0x02#8 then s.qFlag q 3 else s
  if j.irq then s.qFlag q 0 else s

/-- R418: the HOLD job that waits for the staging of cluster `k` runs once it finds enough. -/
def State.runHeld (s : State) (k : Nat) : State :=
  let mine (j : CiphJob) : Bool := j.cluster == k && j.hold.isSome
  match s.io.ciph.find? (fun e => e.2.ciph.any mine) with
  | none => s
  | some (i, inst) =>
    match inst.ciph.find? mine with
    | some j =>
      match j.hold with
      | some (d, f) =>
        if s.freeStaging k < d.staging then s
        else
          let (s, e) := s.runCiph (s.qParish (ciphQ i)) (masterId 2 k) d f
          let done := { j.ended e 0 with staging := d.staging }
          let inst := s.ciphInst i
          s.setCiphInst i { inst with ciph := inst.ciph.map (fun x => if mine x then done else x) }
      | none => s
    | none => s

/-- CIPHER_JOB_END: a begun job of the instance ends: R419's overwriting, then its entry. Of several jobs that have
done their work a free choice ends (R405, log 16). -/
def State.ciphEnd (s : State) (i : Nat) : State :=
  let ready := (s.ciphInst i).ciph.zipIdx.filter (fun e => e.1.hold.isNone)
  let k := if ready.length ≤ 1 then 0 else s.freeVal.toNat % ready.length
  match ready[k]? with
  | none => s
  | some (j, n) =>
    if s.stop ≠ .running ∨ s.pair.lossHold then s
    else
      let s := if ready.length ≤ 1 then s else s.fresh
      let m := masterId 2 j.cluster
      let s := (s.dmaPut (s.qParish (ciphQ i)) j.zero.1 (zeros j.zero.2) m).1
      let s := s.ciphEntry i m j
      let inst := s.ciphInst i
      (s.setCiphInst i { inst with ciph := inst.ciph.eraseIdx n, reserved := inst.reserved - 1 }).runHeld j.cluster

/-- R423: aborts jobs marked by FLUSH while completion slots are free; `k` bounds the count. -/
def State.ciphAbort : Nat → State → Nat → State
  | 0, s, _ => s
  | k + 1, s, i =>
    let q := ciphQ i
    let inst := s.ciphInst i
    if s.stop ≠ .running ∨ s.pair.lossHold ∨ inst.flush = 0 ∨ !s.qRoom q then s
    else
      let (s, ws) := s.headDesc q (masterId 2 0)
      let s := s.setFld (queueSqp q) 32 32 (s.sqHead q + 1)
      let s := s.ciphEntry i (masterId 2 0)
        { cluster := 0, keyop := false, irq := descIrq ws 54, user := descUser ws,
          slot := BitVec.ofNat 12 (headField ws 32 12), status := 0x0A, word1 := 0, word2 := saltWord (s.saltOf i ws) 0,
          zero := (0, 0), staging := 0 }
      State.ciphAbort k (s.setCiphInst i { s.ciphInst i with flush := inst.flush - 1, wait := .reset }) i

/-- R423: CX_CFG.FLUSH: every job not begun ends with ABORTED. -/
def State.ciphFlush (s : State) (i : Nat) : State :=
  let q := ciphQ i
  let n := (s.sqTail q + 2 ^ 32 - s.sqHead q) % 2 ^ 32
  State.ciphAbort 65536 (s.setCiphInst i { s.ciphInst i with flush := n }) i

/-- R438: every slot of the instance's range is overwritten and empty. -/
def State.emptySlots (s : State) (i : Nat) : State :=
  let b := s.fld (Reg.cxKey i) 0 12
  let n := s.fld (Reg.cxKey i) 16 13
  { s with io := { s.io with slots := s.io.slots.filter (fun e => decide (e.1 < b ∨ b + n ≤ e.1)) } }

/-- R423: takeover and POWERFAIL_N: every slot is overwritten and empty, and every cipher instance has EN 0. -/
def State.clearCipher (s : State) : State :=
  let s := { s with io := { s.io with slots := [], ciph := [] } }
  (List.range 64).foldl (fun s i => s.setFlag (queueCfg (ciphQ i)) 0 false) s

/-! ### The commands -/

/-- CIPHER_WAIT_SATISFIED: R415. -/
def execCipherWaitSatisfied (i : Fin 64) (s : State) : Host.Outcome State Fault Refusal :=
  .next (s.whole (fun s => s.waitSatisfied i.val))

/-- CIPHER_JOB_END: R419-R421. -/
def execCipherJobEnd (i : Fin 64) (s : State) : Host.Outcome State Fault Refusal :=
  .next (s.whole (fun s => s.ciphEnd i.val))

/-- DRBG_RESEED: R413. -/
def execDrbgReseed (seed : BitVec 384) (healthy : Bool) (s : State) : Host.Outcome State Fault Refusal :=
  .next (s.drbgReseed seed healthy)

end Sys2Proof.Machine
end

