-- ==== Sys2Proof/Machine/Float.lean ====
section
/-! DEFINITION. Binary64 arithmetic (R105-R114) on payloads: a finite value is a sign and a whole number of
2^-1074, results are exact fractions rounded once. -/

namespace Sys2Proof.Machine

/-- A payload result and the FPSR flags it sets. -/
structure FOut where
  val : BitVec 64
  flags : Nat
deriving DecidableEq, Repr

/-- R67: the flag bits. -/
def fIX : Nat := 1
def fUF : Nat := 2
def fOF : Nat := 4
def fDZ : Nat := 8
def fIV : Nat := 16

/-- FPSR.RM, ST.FTZ and ST.DAZ. -/
structure FCtx where
  rm : Nat
  ftz : Bool
  daz : Bool
deriving DecidableEq, Repr

def fNeg (v : BitVec 64) : Bool := bit v 63
def fExp (v : BitVec 64) : Nat := bits v 52 11
def fFrac (v : BitVec 64) : Nat := bits v 0 52
def fNaN (v : BitVec 64) : Bool := fExp v == 2047 && fFrac v != 0
def fSNaN (v : BitVec 64) : Bool := fNaN v && !bit v 51
def fInf (v : BitVec 64) : Bool := fExp v == 2047 && fFrac v == 0
def fZero (v : BitVec 64) : Bool := fExp v == 0 && fFrac v == 0
def fSub (v : BitVec 64) : Bool := fExp v == 0 && fFrac v != 0

/-- The magnitude of a finite value in units of 2^-1074. -/
def fMag (v : BitVec 64) : Nat :=
  if fExp v = 0 then fFrac v else (2 ^ 52 + fFrac v) * 2 ^ (fExp v - 1)

def fUnit : Nat := 2 ^ 1074

/-- The signed value in units of 2^-1074. -/
def fInt (v : BitVec 64) : Int := if fNeg v then -(fMag v : Int) else fMag v

def fSign (neg : Bool) : BitVec 64 := if neg then 0x8000000000000000#64 else 0#64

def fInfinity (neg : Bool) : BitVec 64 := fSign neg ||| 0x7FF0000000000000#64

/-- R105: MAXF with a sign. -/
def fMax (neg : Bool) : BitVec 64 := fSign neg ||| 0x7FEFFFFFFFFFFFFF#64

/-- R105. -/
def fQNaN : BitVec 64 := 0x7FF8000000000000#64

/-- R109: an invalid operation. -/
def fInvalid : FOut := ⟨fQNaN, fIV⟩

/-- R108: the result where an operand is a NaN, the first in operand order. -/
def fNaNs (ops : List (BitVec 64)) : Option FOut :=
  (ops.find? fNaN).map (fun v => ⟨v ||| 0x0008000000000000#64, if ops.any fSNaN then fIV else 0⟩)

/-- R114: an operand under DAZ. -/
def FCtx.operand (c : FCtx) (v : BitVec 64) : BitVec 64 := if c.daz && fSub v then fSign (fNeg v) else v

/-- `num / den` rounded to an integer in mode `rm`, for a value of sign `neg`. -/
def roundDiv (rm : Nat) (neg : Bool) (num den : Nat) : Nat :=
  let q := num / den
  let r := num % den
  let up := match rm with
    | 0 => decide (den < 2 * r) || (decide (2 * r = den) && decide (q % 2 = 1))
    | 1 => false
    | 2 => decide (0 < r) && !neg
    | _ => decide (0 < r) && neg
  if up then q + 1 else q

/-- The exponent of the leading bit of `num / den`, both positive. -/
def ratExp (num den : Nat) : Int :=
  let l : Int := (Nat.log2 num : Int) - Nat.log2 den
  let below := if 0 ≤ l then decide (num < den * 2 ^ l.toNat) else decide (num * 2 ^ (-l).toNat < den)
  if below then l - 1 else l

/-- R106: an overflow. -/
def fOverflow (rm : Nat) (neg : Bool) : FOut :=
  let inf := match rm with
    | 0 => true
    | 1 => false
    | 2 => !neg
    | _ => neg
  ⟨if inf then fInfinity neg else fMax neg, fOF + fIX⟩

/-- R106, R107, R114: the positive value `num / den` with a sign, rounded once. -/
def FCtx.round (c : FCtx) (neg : Bool) (num den : Nat) : FOut :=
  let e := ratExp num den
  let sh := 52 - e
  let n := if 0 ≤ sh then num * 2 ^ sh.toNat else num
  let d := if 0 ≤ sh then den else den * 2 ^ (-sh).toNat
  let q := roundDiv c.rm neg n d
  let e' := if q = 2 ^ 53 then e + 1 else e
  let q' := if q = 2 ^ 53 then 2 ^ 52 else q
  if e' < -1022 then
    if c.ftz then ⟨fSign neg, fUF + fIX⟩
    else
      let n := num * fUnit
      let t := roundDiv c.rm neg n den
      ⟨fSign neg ||| BitVec.ofNat 64 t, if n % den = 0 then 0 else fUF + fIX⟩
  else if 1023 < e' then fOverflow c.rm neg
  else ⟨fSign neg ||| BitVec.ofNat 64 ((e' + 1023).toNat * 2 ^ 52 + (q' - 2 ^ 52)), if n % d = 0 then 0 else fIX⟩

/-- An exact sum `v / den`; `s1` and `s2` are the signs of its two terms (R106). -/
def FCtx.sum (c : FCtx) (s1 s2 : Bool) (v : Int) (den : Nat) : FOut :=
  if v = 0 then ⟨fSign (if s1 = s2 then s1 else c.rm == 3), 0⟩
  else c.round (decide (v < 0)) v.natAbs den

/-- R110: ADD, or SUB with `sub`. -/
def FCtx.add (c : FCtx) (sub : Bool) (x y : BitVec 64) : FOut :=
  match fNaNs [x, y] with
  | some r => r
  | none =>
    let a := c.operand x
    let b := (if sub then fSign true else 0#64) ^^^ c.operand y
    if fInf a then (if fInf b && fNeg a != fNeg b then fInvalid else ⟨a, 0⟩)
    else if fInf b then ⟨b, 0⟩
    else c.sum (fNeg a) (fNeg b) (fInt a + fInt b) fUnit

/-- R111. -/
def FCtx.mul (c : FCtx) (x y : BitVec 64) : FOut :=
  match fNaNs [x, y] with
  | some r => r
  | none =>
    let a := c.operand x
    let b := c.operand y
    let s := fNeg a != fNeg b
    if fInf a || fInf b then (if fZero a || fZero b then fInvalid else ⟨fInfinity s, 0⟩)
    else if fZero a || fZero b then ⟨fSign s, 0⟩
    else c.round s (fMag a * fMag b) (fUnit * fUnit)

/-- R109, R111. -/
def FCtx.div (c : FCtx) (x y : BitVec 64) : FOut :=
  match fNaNs [x, y] with
  | some r => r
  | none =>
    let a := c.operand x
    let b := c.operand y
    let s := fNeg a != fNeg b
    if fInf a then (if fInf b then fInvalid else ⟨fInfinity s, 0⟩)
    else if fInf b then ⟨fSign s, 0⟩
    else if fZero b then (if fZero a then fInvalid else ⟨fInfinity s, fDZ⟩)
    else if fZero a then ⟨fSign s, 0⟩
    else c.round s (fMag a) (fMag b)

/-- R111: the IEEE 754 remainder. -/
def FCtx.rem (c : FCtx) (x y : BitVec 64) : FOut :=
  match fNaNs [x, y] with
  | some r => r
  | none =>
    let a := c.operand x
    let b := c.operand y
    if fInf a || fZero b then fInvalid
    else if fInf b then
      (if fZero a then ⟨a, 0⟩ else c.round (fNeg a) (fMag a) fUnit)
    else
      let n := roundDiv 0 false (fMag a) (fMag b)
      let r : Int := (fMag a : Int) - n * fMag b
      if r = 0 then ⟨fSign (fNeg a), 0⟩
      else c.round (fNeg a != decide (r < 0)) r.natAbs fUnit

/-- R111: x + y × z. -/
def FCtx.fma (c : FCtx) (x y z : BitVec 64) : FOut :=
  let b := c.operand y
  let d := c.operand z
  let bad := (fInf b && fZero d) || (fZero b && fInf d)
  match fNaNs [x, y, z] with
  | some r => if bad then { r with flags := fIV } else r
  | none =>
    let a := c.operand x
    let s := fNeg b != fNeg d
    if bad then fInvalid
    else if fInf b || fInf d then
      (if fInf a && fNeg a != s then fInvalid else ⟨fInfinity s, 0⟩)
    else if fInf a then ⟨a, 0⟩
    else
      let p : Int := (fMag b * fMag d : Nat)
      c.sum (fNeg a) s (fInt a * fUnit + (if s then -p else p)) (fUnit * fUnit)

/-- The integer square root, bit `k` and below still to be found above `r`. -/
def isqrtBits : Nat → Nat → Nat → Nat
  | 0, _, r => r
  | k + 1, n, r => isqrtBits k n (if (r + 2 ^ k) * (r + 2 ^ k) ≤ n then r + 2 ^ k else r)

/-- R111: the square root, by a root of 64 bits more than the operand's unit and a bit for what is left. -/
def FCtx.sqrt (c : FCtx) (x : BitVec 64) : FOut :=
  match fNaNs [x] with
  | some r => r
  | none =>
    let a := c.operand x
    if fZero a then ⟨a, 0⟩
    else if fNeg a then fInvalid
    else if fInf a then ⟨a, 0⟩
    else
      let n := fMag a * 2 ^ 128
      let r := isqrtBits (Nat.log2 n / 2 + 1) n 0
      c.round false (2 * r + (if r * r = n then 0 else 1)) (2 ^ 65 * 2 ^ 537)

/-- R112, selector 0x00. -/
def FCtx.ofInt (c : FCtx) (i : Int) : FOut :=
  if i = 0 then ⟨0#64, 0⟩ else { c with ftz := false }.round (decide (i < 0)) i.natAbs 1

/-- R112, selectors 0x01 and 0x02, in rounding mode `rm`. -/
def FCtx.toInt (c : FCtx) (rm : Nat) (x : BitVec 64) : FOut :=
  let a := c.operand x
  if fNaN a then ⟨0#64, fIV⟩
  else if fInf a then ⟨if fNeg a then 0x8000000000000000#64 else 0x7FFFFFFFFFFFFFFF#64, fIV⟩
  else
    let q := roundDiv rm (fNeg a) (fMag a) fUnit
    let v : Int := if fNeg a then -(q : Int) else q
    if v < -(2 ^ 63) then ⟨0x8000000000000000#64, fIV⟩
    else if 2 ^ 63 ≤ v then ⟨0x7FFFFFFFFFFFFFFF#64, fIV⟩
    else ⟨BitVec.ofInt 64 v, if fMag a % fUnit = 0 then 0 else fIX⟩

/-- R112, selector 0x03. -/
def FCtx.integral (c : FCtx) (x : BitVec 64) : FOut :=
  match fNaNs [x] with
  | some r => r
  | none =>
    let a := c.operand x
    if fInf a || fZero a then ⟨a, 0⟩
    else
      let q := roundDiv c.rm (fNeg a) (fMag a) fUnit
      let v := if q = 0 then fSign (fNeg a) else (c.round (fNeg a) q 1).val
      ⟨v, if fMag a % fUnit = 0 then 0 else fIX⟩

/-- R77: a comparison. -/
inductive FCmp where
  | lt | eq | gt | un
deriving DecidableEq, Repr

def cmpInt (a b : Int) : FCmp := if a < b then .lt else if a = b then .eq else .gt

/-- An infinity of the sign, beyond every finite value, else the value, in units of 2^-1074. -/
def fOrder (v : BitVec 64) : Int :=
  if fInf v then (if fNeg v then -(2 ^ 2200) else 2 ^ 2200) else fInt v

/-- R113. -/
def FCtx.cmp (c : FCtx) (x y : BitVec 64) : FCmp × Nat :=
  match fNaNs [x, y] with
  | some r => (.un, r.flags)
  | none => (cmpInt (fOrder (c.operand x)) (fOrder (c.operand y)), 0)

/-- R118: an integer against a binary64 value, exactly. -/
def cmpMixed (i : Int) (y : BitVec 64) : FCmp × Nat :=
  match fNaNs [y] with
  | some r => (.un, r.flags)
  | none => (cmpInt (i * fUnit) (fOrder y), 0)

def FCmp.swap : FCmp → FCmp
  | .lt => .gt
  | .gt => .lt
  | c => c

end Sys2Proof.Machine
end

