-- ==== Sys2Proof/Machine/Operands.lean ====
section
/-! DEFINITION. Operand forms: effective addresses (R53), their checks (R55-R57, R156, R157, R169), checked loads
(R34, R311), the zone bytes, the hedge (R136) and the read barrier (R139-R141). -/

namespace Sys2Proof.Machine

/-! ### The running instruction's core -/

/-- The running bank of core `n`. -/
def getCur (n : Nat) : M Bank := do return (← get).cur n

def modCur (n : Nat) (f : Bank → Bank) : M Unit := act (fun s => s.setCur n (f (s.cur n)))

/-- R76: an instruction that uses A or Y waits for the divider. -/
def settleM (n : Nat) : M Unit := act (fun s => s.settleDiv n)

def retireM (n : Nat) : M Unit := act (fun s => s.retire n)

/-! ### Addresses (R53, R54) -/

/-- R46 [17:16]: the idx of R53. -/
def Bank.index (b : Bank) (mode : BitVec 2) : Int :=
  match mode.toNat with
  | 1 => b.x.int
  | 2 => b.y.int
  | _ => 0

/-- R54: the immediate of mode 0b11. -/
def immWord (off : BitVec 16) : Word := Word.fix (off.signExtend 64)

/-- R53: ea of a word access. -/
def eaWord (base : Nat) (off : Nat) (idx : Int) : Int := (base : Int) + 8 * ((off : Int) + idx)

/-- R53: ea of LDB and STB. -/
def eaByte (base : Nat) (off : Nat) (idx : Int) : Int := (base : Int) + 8 * (off : Int) + idx

/-! ### The checks of R55 -/

/-- What region types an access may meet at step 6 (R169). -/
inductive DevRule where
  | word
  | noDev
  | wbOnly
deriving DecidableEq, Repr

/-- R155: the kind permits the access. -/
def kindAllows (kind : Nat) (write : Bool) : Bool := kind == 0 || kind == 3 || (kind == 1 && !write)

/-- R169: the region permits the access. -/
def DevRule.allows (d : DevRule) (r : Region) (perms : Nat) : Bool :=
  match r with
  | .none => false
  | .wb => true
  | .uc => d != .wbOnly
  | .dev => d == .word && hasPerm perms pDev

/-- R55 steps 1-6 on `size` bytes at `ea` through the capability word `c`; `need` is a mask of R145. DESIGN CHOICE
(log 65): a DEVF of LDA or STA at a DEV region carries the instruction's ACC, 0x1 or 0x2, since no device access is
made (R173). -/
def State.check (s : State) (p : Nat) (c : Word) (ea : Nat → Int) (size need acc : Nat) (align : Bool) (d : DevRule) :
    Except Exc Site :=
  let e := s.capEntry p (capIndex c)
  let a := ea e.lo
  let f (vec step detail : Nat) : Except Exc Site :=
    .error { vec := vec, acc := acc, step := step, detail := detail, ea := if 3 ≤ step then some a else none }
  if !c.isCap then f vCapf 1 0x01
  else if !s.capCurrent p c then f vCapf 2 0x02
  else if !kindAllows (capKind c) (hasPerm need pW) then f vCapf 2 0x03
  else if a < e.lo ∨ (e.lo + e.len : Int) < a + size then f vCapf 3 0x04
  else
    let perms := effPerm c e
    if perms &&& need ≠ need then f vCapf 4 0x05
    else if align && a % 8 != 0 then f vAlgn 5 0
    else
      let at0 := a.toNat
      let (r, pa) := s.translate p at0
      let last := at0 + size - 1
      let granules := (List.range (last / 2 ^ 30 - at0 / 2 ^ 30)).map (fun i => (at0 / 2 ^ 30 + i + 1) * 2 ^ 30)
      if d.allows r perms && granules.all (fun g => d.allows (s.translate p g).1 perms) then
        .ok { addr := at0, region := r, pa := pa, perms := perms }
      else f vDevf 6 0

def liftE {α : Type} (r : Except Exc α) : M α := fun s =>
  match r with
  | .ok a => .ok a s
  | .error e => .error e s

/-- R55 on an address of the running instruction, through bank register `breg`. -/
def checkM (n breg : Nat) (ea : Nat → Int) (size need acc : Nat) (align : Bool) (d : DevRule) : M Site := do
  act (fun s => s.tableMeet (s.parishOf n) ((s.cur n).breg breg) (s.coreWho n acc))
  let s ← get
  liftE (s.check (s.parishOf n) ((s.cur n).breg breg) ea size need acc align d)

/-- R235: a load or store through bank register `breg` moves the stream detectors. -/
def touchM (n breg : Nat) (t : Site) : M Unit :=
  act (fun s =>
    if t.region = .wb then
      let e := s.capEntry (s.parishOf n) (capIndex ((s.cur n).breg breg))
      s.streamTouch n (s.cur n).pc.toNat t.addr t.pa e.lo (e.lo + e.len)
    else s)

/-- The memory operand of a primary-format word access. -/
def siteP (n : Nat) (o : PForm) (size need acc : Nat) (d : DevRule) : M Site := do
  let b ← getCur n
  let t ← checkM n o.bank.toNat (fun base => eaWord base o.off.toNat (b.index o.mode)) size need acc true d
  touchM n o.bank.toNat t
  return t

/-- The memory operand of LDB or STB. -/
def siteByte (n : Nat) (o : PForm) (need acc : Nat) : M Site := do
  let b ← getCur n
  let t ← checkM n o.bank.toNat (fun base => eaByte base o.off.toNat (b.index o.mode)) 1 need acc false .noDev
  touchM n o.bank.toNat t
  return t

/-- The memory operand of a form-XM word access. -/
def siteX (n : Nat) (o : XMForm) (size need acc : Nat) (align : Bool) (d : DevRule) : M Site := do
  let b ← getCur n
  let t ← checkM n o.bank.toNat (fun base => eaWord base o.off.toNat (b.index o.mode)) size need acc align d
  touchM n o.bank.toNat t
  return t

/-! ### ILL (R48) -/

/-- R48, R54, R73: the modes a primary instruction allows. -/
inductive Modes where
  | w | wi
deriving DecidableEq, Repr

def illP (o : PForm) (m : Modes) : Bool :=
  o.mode == 3#2 && (m == .w || o.bank != 0#3)

/-- R57: BR and BRL reserve the bank field. -/
def illBranch (o : PForm) : Bool := o.mode == 3#2 || o.bank != 0#3

/-- R69: LPB allows mode 0b00 and bank 0b000 only. -/
def illLoop (o : PForm) : Bool := o.mode != 0#2 || o.bank != 0#3

def illXM (o : XMForm) : Bool := o.mode == 3#2

def illXN (o : XNForm) : Bool := o.rsv != 0#15

/-- R74: form XR with a selector of `w` meaningful bits and, where the instruction names no bank, bank 0. -/
def illXR (o : XRForm) (selBits : Nat) (usesBank : Bool) : Bool :=
  o.rsv != 0#4 || decide (2 ^ selBits ≤ o.sel.toNat) || (!usesBank && o.bank != 0#3)

/-! ### Tag attributes (R32) -/

def State.tatOf (s : State) (t : BitVec 8) : Reg64 := s.reg (Reg.tat t.toNat)

/-- R32: pointer class. -/
def State.isPointer (s : State) (w : Word) : Bool := bits (s.tatOf w.tag) 0 2 == 2

def State.ltrap (s : State) (w : Word) : Bool := bit (s.tatOf w.tag) 3

/-- What a micro-routine's accesses see beside memory: the stores it holds (R198), and the TAT entries its instruction
sampled (R36, R200). Outside a routine there are none. -/
structure RunCtx where
  held : List HeldStore := []
  entries : List (BitVec 8 × BitVec 64) := []
deriving DecidableEq, Repr

/-- R36: the TAT entry of a tag: as sampled, or the present one. -/
def RunCtx.entry (c : RunCtx) (s : State) (t : BitVec 8) : Reg64 :=
  ((c.entries.find? (fun e => e.1 == t)).map (·.2)).getD (s.tatOf t)

def RunCtx.pointer (c : RunCtx) (s : State) (w : Word) : Bool := bits (c.entry s w.tag) 0 2 == 2

def RunCtx.ltrap (c : RunCtx) (s : State) (w : Word) : Bool := bit (c.entry s w.tag) 3

/-! ### Consuming and delivering words (R34, R45, R157, R311) -/

/-- R311, R485: a precise MCHK at a word the instruction consumes. -/
def mchkAt (n src acc : Nat) (ea : Int) (pa : Nat) : M Unit := do
  act (fun s => s.coreFault n src acc (some (pa / 8 * 8)))
  raiseExc { vec := vMchk, acc := acc, detail := src * 256, ea := some ea }

/-- R311, R45: the word is consumed. -/
def consume (n acc : Nat) (ea : Int) (pa : Nat) (w : Word) : M Unit :=
  if w.tag = Tag.pois then mchkAt n 0x12 acc ea pa
  else if w.poisoned then mchkAt n 0x13 acc ea pa
  else pure ()

/-- R45: a reserved tag read without being consumed is recorded. -/
def noteM (n acc pa : Nat) (w : Word) : M Unit :=
  act (fun s => if w.poisoned && w.tag != Tag.pois then s.coreFault n 0x13 acc (some (pa / 8 * 8)) else s)

/-- R34, R45: a checked load: TAGF for LTRAP, and for tags 0x80-0xFE in place of the MCHK. DESIGN CHOICE (log 67): the
MCHK of a POIS word comes before the TAGF or CAPF its tag gives LDX, LDY or CLD (R62, R63, R311). -/
def checkedLoad (n acc : Nat) (ea : Int) (pa : Nat) (w : Word) (c : RunCtx := {}) : M Unit := do
  if w.tag = Tag.pois then mchkAt n 0x12 acc ea pa
  else if w.poisoned then
    noteM n acc pa w
    raiseExc { vec := vTagf, acc := acc }
  else if c.ltrap (← get) w then raiseExc { vec := vTagf, acc := acc }
  else pure ()

/-- R157: a CAP word delivered into a register through a capability without CAPLD. -/
def needCapld (acc perms : Nat) (w : Word) : M Unit :=
  if w.isCap && !hasPerm perms pCapld then raiseExc { vec := vCapf, acc := acc, detail := 0x05 } else pure ()

/-- R157: a CAP word stored through a capability without CAPST. -/
def needCapst (acc perms : Nat) (w : Word) : M Unit :=
  if w.isCap && !hasPerm perms pCapst then raiseExc { vec := vCapf, acc := acc, detail := 0x05 } else pure ()

/-- A word of normal memory, read by the core; a routine's own held stores come first (R198). -/
def readM (n : Nat) (r : Region) (pa : Nat) (c : RunCtx := {}) : M Word := do
  let w ← actGet (fun s => s.coreRead n r (pa / 8))
  return c.held.foldl (fun w h => if h.site.pa / 8 = pa / 8 then h.w else w) w

/-! ### Zone bytes (R126, R127) -/

/-- R127: where the byte of a zone lies: nothing above ZLAST or outside WB and UC memory. -/
def State.zoneSite (s : State) (p addr : Nat) : Option (Nat × Region × Nat) :=
  let z := addr % 2 ^ 48 / 2 ^ 21
  if s.fld (Reg.gcZone p) 36 27 < z then none
  else
    let a := s.fld (Reg.gcZone p) 0 36 * 0x1000 + z
    match s.translate p a with
    | (.wb, pa) => some (a, .wb, pa)
    | (.uc, pa) => some (a, .uc, pa)
    | _ => none

def byteOf (w : Word) (pa : Nat) : Nat := bits w.val (8 * (pa % 8)) 8

/-- R127: the zone byte of an address, read by the instruction that needs it. -/
def zoneByte (n addr : Nat) (c : RunCtx := {}) : M Nat := do
  let s ← get
  match s.zoneSite (s.parishOf n) addr with
  | none => return 0
  | some (a, r, pa) =>
    let w ← readM n r pa c
    consume n 1 a pa w
    return byteOf w pa

/-- R140: the zone byte as a heal reads it: none where its word is POIS. -/
def zoneByteHeal (n addr : Nat) : M (Option Nat) := do
  let s ← get
  match s.zoneSite (s.parishOf n) addr with
  | none => return some 0
  | some (_, r, pa) =>
    let w ← readM n r pa
    noteM n 1 pa w
    return if w.poisoned then none else some (byteOf w pa)

/-- R136: the store is logged. -/
def logRule (zs zt : Nat) : Bool := zs.testBit 4 || decide (zt % 8 < zs % 8)

/-! ### The hedge (R136) -/

/-- R136: a store of `w` to parish address `a` is to be logged. -/
def logged (n a : Nat) (w : Word) (c : RunCtx := {}) : M Bool := do
  let s ← get
  if !s.flag (Reg.gcCtl (s.parishOf n)) 0 || !c.pointer s w then return false
  let zs ← zoneByte n a c
  let zt ← zoneByte n w.addr c
  return logRule zs zt

/-- R81, R136: the card log entry a store of `w` to parish address `a` claims; HEDGE where the log is full. -/
def hedge (n acc a : Nat) (w : Word) (c : RunCtx := {}) : M (Option Card) := do
  if !(← logged n a w c) then return none
  let p := (← get).parishOf n
  if (← get).cardFull p then raiseExc { vec := vHedge, acc := acc }
  let k ← actGet (fun s => s.cardClaim p (cardWord n acc a))
  return some k

/-! ### The read barrier (R139-R141) -/

/-- What the read barrier finds (R139): the word to use, the heal, and the EVAC to raise. -/
structure Barred where
  w : Word
  heal : Option Heal
  evac : Option Exc
deriving DecidableEq, Repr

/-- R139, R141: the barrier on the word `w` loaded from parish address `l`. DESIGN CHOICE (log 65): the ACC of EVAC is 0x1,
the header's load, whatever instruction loads `w` (R173). -/
def barrierLook (n l perms : Nat) (w : Word) (c : RunCtx := {}) : M Barred := do
  let s ← get
  let p := s.parishOf n
  if !s.flag (Reg.gcCtl p) 1 || !c.pointer s w then return ⟨w, none, none⟩
  let t := w.addr / 8 * 8
  let z ← zoneByte n t c
  if !z.testBit 3 then return ⟨w, none, none⟩
  let evac : Exc := { vec := vEvac, acc := 1, a := w, x := some (Word.fixNat l) }
  let header (r : Region) (pa : Nat) : M Barred := do
    let h ← readM n r pa c
    consume n 1 t pa h
    if h.tag = Tag.fwd then
      let w' : Word := ⟨w.tag, putBits w.val 0 48 h.addr⟩
      return ⟨w', some { addr := l, old := w, new := w', perms := perms }, none⟩
    else return ⟨w, none, some evac⟩
  match (← get).translate p t with
  | (.wb, pa) => header .wb pa
  | (.uc, pa) => header .uc pa
  | _ => return ⟨w, none, some evac⟩

/-- R139-R141: the barrier on a loaded word: EVAC, or the word to use and the heal. -/
def barrier (n l perms : Nat) (w : Word) (c : RunCtx := {}) : M (Word × Option Heal) := do
  let b ← barrierLook n l perms w c
  match b.evac with
  | some e => raiseExc e
  | none => return (b.w, b.heal)

/-- R140: the hedge's verdict on a heal: none where a byte it needs is POIS. -/
def healLogged (n : Nat) (h : Heal) (c : RunCtx := {}) : M (Option Bool) := do
  let s ← get
  if !s.flag (Reg.gcCtl (s.parishOf n)) 0 || !c.pointer s h.new then return some false
  match ← zoneByteHeal n h.addr, ← zoneByteHeal n h.new.addr with
  | some zs, some zt => return some (logRule zs zt)
  | _, _ => return none

/-- R140: the self-healing write: ownership, compare and write are one access. -/
def healM (n : Nat) (h : Option Heal) (c : RunCtx := {}) : M Unit := do
  match h with
  | none => return
  | some h =>
    if !hasPerm h.perms pW then return
    let p := (← get).parishOf n
    let (r, pa) := (← get).translate p h.addr
    if r != .wb && r != .uc then return
    match ← healLogged n h c with
    | none => return
    | some log =>
      if !(← actGet (fun s => s.healOwn n r (pa / 8) h.old)) then return
      let write (card : Option Card) : M Unit :=
        act (fun s => ((s.ownStoreResv n (pa / 64)).pmc (s.physOf n) 0xC).healWrite n r (pa / 8) h.new card)
      if !log then write none
      else if (← get).cardFull p then act (fun s => s.setFlag (Reg.gcStat p) 2 true)
      else
        let k ← actGet (fun s => s.cardClaim p (cardWord n 1 h.addr))
        write (some k)

/-! ### Operands -/

/-- R59, R519: a load the frame window serves; LDR, atomics and FIND's key are none. DESIGN CHOICE (log 58). -/
def frameCount (n breg : Nat) (site : Site) (off : Nat) (idx : Int) : M Unit :=
  if breg = 7 ∧ site.region = .wb ∧ 0 ≤ (off : Int) + idx ∧ (off : Int) + idx ≤ 511 then
    act (fun s => if s.cachesOn (s.physOf n) then s.pmc (s.physOf n) 0xA else s)
  else pure ()

/-- M at ea for the instructions that allow no DEV access, consumed, with its site. -/
def memOperand (n : Nat) (o : PForm) : M (Site × Word) := do
  let b ← getCur n
  let t ← siteP n o 8 1 1 .noDev
  let w ← readM n t.region t.pa
  frameCount n o.bank.toNat t o.off.toNat (b.index o.mode)
  consume n 1 t.addr t.pa w
  return (t, w)

/-- op of R73 for the instructions that deliver it to no register: M at ea, consumed, or the immediate. -/
def operand (n : Nat) (o : PForm) : M Word := do
  if o.mode = 3#2 then return immWord o.off
  return (← memOperand n o).2

/-- R117, R118: a CAP word as op of a generic instruction reaches a register of the GEN handler or a temporary of a customer
routine, where an entry of the two tags names a target or is of class multi-word. -/
def State.genericDelivers (s : State) (a w : Word) : Bool :=
  bits (s.tatOf a.tag) 8 2 != 0 || bits (s.tatOf w.tag) 8 2 != 0 ||
    bits (s.tatOf a.tag) 4 3 == 3 || bits (s.tatOf w.tag) 4 3 == 3

/-- M at ea through the read barrier, which no register takes: the cdr of CONS, the cell pointer of RPLA and RPLD (R80). -/
def memBar (n : Nat) (o : PForm) (c : RunCtx := {}) : M (Word × Option Heal) := do
  let (t, w) ← memOperand n o
  barrier n t.addr t.perms w c

/-- op of a generic instruction: as `operand`, through the read barrier (R80). -/
def operandBar (n : Nat) (o : PForm) : M (Word × Option Heal) := do
  if o.mode = 3#2 then return (immWord o.off, none)
  let (t, w) ← memOperand n o
  if (← get).genericDelivers (← getCur n).a w then needCapld 1 t.perms w
  barrier n t.addr t.perms w

/-- A store of a word to normal memory: CAPST (R157), the hedge where `hedged`, then the store. -/
def storeNormal (n : Nat) (t : Site) (w : Word) (acc : Nat) (hedged : Bool) (c : RunCtx := {}) : M Unit := do
  needCapst acc t.perms w
  let card ← if hedged then hedge n acc t.addr w c else pure none
  act (fun s => (s.ownStoreResv n (t.pa / 64)).coreStore n t.region (t.pa / 8) (.word w) card)

/-- R57, R573: a control transfer's target against the current code capability. -/
def checkTarget (n : Nat) (t : Int) : M Nat := do
  let s ← get
  let p := s.parishOf n
  let c := (s.cur n).pcCap
  let e := s.capEntry p (capIndex c)
  if !s.capCurrent p c then raiseExc { vec := vCapf, step := 2, detail := 0x02 }
  else if t < e.lo ∨ (e.lo + e.len : Int) < t + 4 then raiseExc { vec := vCapf, step := 3, detail := 0x04, ea := some t }
  else if !hasPerm (effPerm c e) pX then raiseExc { vec := vCapf, step := 4, detail := 0x05, ea := some t }
  else return t.toNat

end Sys2Proof.Machine
end

