-- ==== Sys2Proof/Machine/Flags.lean ====
section
/-! DEFINITION. The predicates and FPSR flags that instructions write (R77, R103, R113, R115), and the integer
operations behind them (R75, R98-R104). -/

namespace Sys2Proof.Machine

/-! ### Predicates -/

def setPredM (n i : Nat) (v : Bool) : M Unit := modCur n (fun b => b.setPred i v)

/-- R77: P1-P4 from a comparison: exactly one is 1. -/
def Bank.setCmp (b : Bank) (c : FCmp) : Bank :=
  (((b.setPred 1 (c == .lt)).setPred 2 (c == .eq)).setPred 3 (c == .gt)).setPred 4 (c == .un)

/-! ### FPSR (R67, R115) -/

/-- The modes of an FP instruction of core `n`. -/
def State.fpCtx (s : State) (n : Nat) : FCtx :=
  { rm := bits (s.core n).fpsr 16 2, ftz := bit (s.cur n).st 4, daz := bit (s.cur n).st 5 }

/-- R115: an instruction's flags: sticky, and an FPX left pending where one of them is enabled. -/
def Core.fpFlags (c : Core) (flags : Nat) : Core :=
  let f := BitVec.ofNat 64 (flags % 32)
  { c with fpsr := c.fpsr ||| f, fpx := c.fpx || decide ((c.fpsr >>> 8) &&& f ≠ 0#64) }

def State.fpFlags (s : State) (n flags : Nat) : State := s.setCore n ((s.core n).fpFlags flags)

/-! ### Results in A and Y -/

def setA (n : Nat) (w : Word) : M Unit := modCur n (fun b => { b with a := w })

/-- R76: a divide leaves its results to the divider. -/
def divResult (n : Nat) (a : Word) (y : Option Word) : M Unit :=
  act (fun s => s.setCore n { s.core n with divider := some { a := a, y := y } })

/-- R98: FIX where the exact result fits, else OVF. -/
def fixOrOvf (i : Int) : M Word :=
  if -(2 ^ 63) ≤ i ∧ i < 2 ^ 63 then pure (Word.fix (BitVec.ofInt 64 i)) else raiseExc { vec := vOvf }

/-- R75: the operands of the modular instructions: the tag of the result, or TAGF. -/
def modTag (a op : Word) : M (BitVec 8) :=
  if a.isFix && op.isFix then pure Tag.fix
  else if a.isFixRaw && op.isFixRaw then pure Tag.raw
  else raiseExc { vec := vTagf }

/-! ### Shifts (R104) -/

/-- R104, R75: A after SHL. -/
def shlWord (a : Word) (c : Int) : Except Exc Word :=
  if c < 0 then .error { vec := vShc }
  else if a.isFix then
    if 64 ≤ c then (if a.val = 0#64 then .ok a else .error { vec := vOvf })
    else
      let r := a.int * 2 ^ c.toNat
      if -(2 ^ 63) ≤ r ∧ r < 2 ^ 63 then .ok (Word.fix (BitVec.ofInt 64 r)) else .error { vec := vOvf }
  else .ok ⟨a.tag, if 64 ≤ c then 0#64 else a.val <<< c.toNat⟩

def shrWord (a : Word) (c : Int) : Except Exc Word :=
  if c < 0 then .error { vec := vShc } else .ok ⟨a.tag, if 64 ≤ c then 0#64 else a.val >>> c.toNat⟩

def sarWord (a : Word) (c : Int) : Except Exc Word :=
  if c < 0 then .error { vec := vShc } else .ok ⟨a.tag, a.val.sshiftRight (min c.toNat 63)⟩

def rolWord (a : Word) (c : Int) : Except Exc Word :=
  if c < 0 then .error { vec := vShc } else .ok ⟨a.tag, a.val.rotateLeft (c.toNat % 64)⟩

end Sys2Proof.Machine
end

