-- ==== Sys2Proof/Machine/Micro.lean ====
section
/-! DEFINITION. The microcode engine: the microword, one microword's effect, and a routine's run (R185-R205). -/

namespace Sys2Proof.Machine

/-! ### The microword (R188) -/

def mf (w : BitVec 160) (lo n : Nat) : Nat := w.toNat / 2 ^ lo % 2 ^ n

/-- R186: what a customer-region address left unloaded holds: SEQ 0xF. -/
def unloadedMicroword : BitVec 160 := BitVec.ofNat 160 (0xF * 2 ^ 142)

/-- R185: the parity bit of each 40-bit quarter of a microword, quarter [39:0] first. -/
def quarterParity (w : BitVec 160) : BitVec 4 :=
  BitVec.ofNat 4 ((List.range 4).foldl (fun acc j =>
    acc + 2 ^ j * ((List.range 40).foldl (fun b i => b != w.getLsbD (40 * j + i)) false).toNat) 0)

def UWord.of (w : BitVec 160) : UWord := ⟨w, quarterParity w⟩

/-- R205: no quarter fails its parity. -/
def UWord.good (u : UWord) : Bool := u.par == quarterParity u.w

/-- What a control-store address holds before it is loaded. -/
def UWord.unloaded (a : Nat) : UWord := UWord.of (if 0x3000 ≤ a then unloadedMicroword else 0#160)

/-- The control-store word of a physical core at an address (R185). -/
def State.microword (s : State) (p a : Nat) : UWord := SMap.get (UWord.unloaded a) (s.physCore p).ucode a

def State.setMicroword (s : State) (p a : Nat) (u : UWord) : State :=
  s.setPhys p { s.physCore p with ucode := SMap.set (UWord.unloaded a) (s.physCore p).ucode a u }

/-! ### The Granary copy and reloads (R186, R205, R257) -/

/-- R186: word `j` of the copy of a microword: its bits from 64j up, as RAW (log 75). -/
def copyWord (w : BitVec 160) (j : Nat) : Word := Word.raw (BitVec.ofNat 64 (w.toNat / 2 ^ (64 * j)))

/-- Word `k` of the copy, without any effect. -/
def Mem.copyAt (m : Mem) (k : Nat) : Word := SMap.get (copyDefault k) m.ucopy k

/-- The cell of word `k` of the copy: the lines pinned in sets 0-95 of each slice, in order (log 75). -/
def State.copyCell (s : State) (k : Nat) : Nat :=
  let sl := k / 8 % 64
  let way := ((List.range 24).find? (fun w => s.flag (Reg.grnDways sl) w)).getD 0
  granCell sl (k / 8 / 64) way (k % 8)

/-- R205, R297: a word of the copy is read through its code; none where it is uncorrectable. -/
def State.copyRead (s : State) (k : Nat) (who : Who) : State × Option (BitVec 64) :=
  let err := s.mem.cellErr (s.copyCell k)
  let x := flipWord (s.mem.copyAt k) err
  let put (s : State) (x : Word) (e : SramErr) : State :=
    { s with mem := ({ s.mem with ucopy := SMap.set (copyDefault k) s.mem.ucopy k x }).setCell (s.copyCell k) e }
  match hsiaoDecode err with
  | .clean => (if err = 0 then s else put s x 0, some x.val)
  | .ce b =>
    let x := flipWord x (bitErr b)
    (((put s x (bitErr b)).countSat (Reg.grnEcc (k / 8 % 64)) 48 16).fault
      { src := 0x26, acc := who.acc, master := who.master, parish := none, pa := none, synd := hsiaoSynd err },
     some x.val)
  | .ue => (s, none)

/-- R186: a microword read from the copy. -/
def State.copyMicroword (s : State) (a : Nat) (who : Who) : State × Option (BitVec 160) :=
  match s.copyRead (3 * a) who with
  | (s, none) => (s, none)
  | (s, some v0) =>
    match s.copyRead (3 * a + 1) who with
    | (s, none) => (s, none)
    | (s, some v1) =>
      match s.copyRead (3 * a + 2) who with
      | (s, none) => (s, none)
      | (s, some v2) => (s, some (BitVec.ofNat 160 (v0.toNat + v1.toNat * 2 ^ 64 + v2.toNat * 2 ^ 128)))

/-- The list without the repeats that stand side by side. -/
def dedup : List Nat → List Nat := List.foldr (fun k acc => if acc.head? = some k then acc else k :: acc) []

/-- R186: the copy holds a control store. -/
def Mem.placeCopy (m : Mem) (us : SMap UWord) : Mem :=
  { m with pinned := true
           ucopy := us.foldl (fun c e => (List.range 3).foldl (fun c j =>
             SMap.set (copyDefault (3 * e.1 + j)) c (3 * e.1 + j) (copyWord e.2.w j)) c) [] }

/-- R205: a word of the control store is marked bad. -/
def State.reloadFailed (s : State) (n a : Nat) : State :=
  let p := s.physOf n
  let s := (s.setFld (Reg.ucsStat p) 16 14 a).setEv (Reg.ucsStat p) 30 p
  let c := s.physCore p
  s.setPhys p { c with badU := if c.badU.contains a then c.badU else c.badU ++ [a] }

/-- R205: a microword whose parity failed is reloaded from the copy; the answer tells whether it may be issued. `copyOk`
and `parityOk` are what a command says of the read and of the word reloaded. -/
def State.reloadWord (s : State) (n a : Nat) (copyOk parityOk : Bool) : State × Bool :=
  let p := s.physOf n
  let s := (s.countSat (Reg.ucsStat p) 32 16).setFld (Reg.ucsStat p) 0 14 a
  let s := s.coreFault n 0x08 0xC none
  match s.copyMicroword a { master := masterId 0 p, acc := 0xC, parish := none } with
  | (s, some w) =>
    if copyOk && parityOk then (s.setMicroword p a (UWord.of w), true) else (s.reloadFailed n a, false)
  | (s, none) => (s.reloadFailed n a, false)

/-- R187, R440: a core reset reloads the whole control store of core `n` from the copy. DESIGN CHOICE (log 90): a word that
cannot be read is marked bad as by any reload. -/
def State.reloadStore (s : State) (n : Nat) : State :=
  let p := s.physOf n
  let s := s.setPhys p { s.physCore p with ucode := [], badU := [] }
  let as := if s.mem.sramErr = [] then dedup (s.mem.ucopy.map (·.1 / 3)) else List.range 0x4000
  as.foldl (fun s a =>
    match s.copyMicroword a { master := masterId 0 p, acc := 0xC, parish := none } with
    | (s, some w) => s.setMicroword p a (UWord.of w)
    | (s, none) => s.reloadFailed n a) s

/-- R205: the MCHK of a word that could not be reloaded. DESIGN CHOICE (log 70): X is FIX PC, as the fetch of a microword
has no effective address (R172). -/
def badMicroword (s : State) (n : Nat) : Exc :=
  { vec := vMchk, acc := 0xC, detail := 0x09 * 256, x := some (Word.fixNat (s.cur n).pc.toNat) }

/-! ### A run (R195-R199) -/

/-- What the run's memory accesses see beside memory. -/
def MRun.ctx (r : MRun) : RunCtx := { held := r.stores, entries := r.entries }

/-- R189: a source. -/
def MRun.src (r : MRun) (s : State) (n lit code : Nat) : Word :=
  if code < 8 then r.u.getD code Word.raw0
  else match code with
    | 8 => r.a0
    | 9 => r.x0
    | 10 => r.y0
    | 11 => Word.fix ((BitVec.ofNat 16 lit).signExtend 64)
    | 13 => Word.fixNat (s.core n).ac.toNat
    | 14 => Word.fixNat (s.core n).al.toNat
    | _ => Word.raw0

/-- R189: a destination written; none for X or Y and a word that is not FIX (R196). -/
def MRun.put (r : MRun) (code : Nat) (w : Word) : Option MRun :=
  if code < 8 then some { r with u := r.u.mapIdx (fun i x => if i = code then w else x) }
  else match code with
    | 8 => some { r with a := some w }
    | 9 => if w.isFix then some { r with x := some w } else none
    | 10 => if w.isFix then some { r with y := some w } else none
    | _ => some r

/-- R191. -/
def microCond (c : BitVec 5) (sel : Nat) : Bool :=
  match sel with
  | 0 => c.getLsbD 0
  | 1 => c.getLsbD 1
  | 2 => c.getLsbD 2
  | 3 => c.getLsbD 3
  | 4 => c.getLsbD 4
  | 5 => c.getLsbD 1 != c.getLsbD 3
  | 6 => true
  | _ => false

/-- An ALU result: the payload, none where nothing is written, and C and V. -/
structure AluOut where
  res : BitVec 64
  writes : Bool
  c : Bool
  v : Bool
deriving DecidableEq, Repr

def outside (i : Int) : Bool := decide (i < -(2 ^ 63) ∨ 2 ^ 63 ≤ i)

/-- One lane of PADD32 or PSUB32: result, carry or borrow, signed overflow. -/
def lane32 (sub : Bool) (a b : BitVec 32) : BitVec 32 × Bool × Bool :=
  if sub then
    (a - b, decide (a.toNat < b.toNat), decide (a.toInt - b.toInt < -(2 ^ 31) ∨ 2 ^ 31 ≤ a.toInt - b.toInt))
  else
    (a + b, decide (2 ^ 32 ≤ a.toNat + b.toNat), decide (a.toInt + b.toInt < -(2 ^ 31) ∨ 2 ^ 31 ≤ a.toInt + b.toInt))

def pack32 (sub : Bool) (a b : BitVec 64) : AluOut :=
  let (l, lc, lv) := lane32 sub (a.extractLsb' 0 32) (b.extractLsb' 0 32)
  let (h, hc, hv) := lane32 sub (a.extractLsb' 32 32) (b.extractLsb' 32 32)
  ⟨h ++ l, true, lc || hc, lv || hv⟩

/-- R192; none for NOP and the reserved codes. -/
def alu (op : Nat) (a b : BitVec 64) : Option AluOut :=
  let p := a.toInt * b.toInt
  let sub : AluOut := ⟨a - b, true, decide (a.toNat < b.toNat), outside (a.toInt - b.toInt)⟩
  match op with
  | 1 => some ⟨a, true, false, false⟩
  | 2 => some ⟨a + b, true, decide (2 ^ 64 ≤ a.toNat + b.toNat), outside (a.toInt + b.toInt)⟩
  | 3 => some sub
  | 4 => some ⟨a &&& b, true, false, false⟩
  | 5 => some ⟨a ||| b, true, false, false⟩
  | 6 => some ⟨a ^^^ b, true, false, false⟩
  | 7 => some ⟨BitVec.ofInt 64 p, true, outside p, outside p⟩
  | 8 => some ⟨BitVec.ofInt 64 (p / 2 ^ 64), true, outside p, outside p⟩
  | 9 => some { sub with writes := false }
  | 10 => some (pack32 false a b)
  | 11 => some (pack32 true a b)
  | _ => none

/-- R188: the shifter's result payload. -/
def shifted (op : Nat) (v : BitVec 64) (k : Nat) : Option (BitVec 64) :=
  match op with
  | 1 => some (v <<< k)
  | 2 => some (v >>> k)
  | 3 => some (v.sshiftRight k)
  | 4 => some (v.rotateLeft k)
  | _ => none

/-! ### Micro-traps (R201) -/

/-- R201: the record a micro-trap writes: none once the run has issued a store. -/
def MRun.record (r : MRun) (pc : BitVec 48) (upc : Nat) : MicroSave :=
  if r.stores = [] then
    { valid := true, pc := pc, upc := BitVec.ofNat 14 upc, u := r.u, cond := r.cond, entries := r.entries }
  else .none

/-- R36: the tag entries an instruction samples as it begins. -/
def State.sampledTat (s : State) : List (BitVec 8 × BitVec 64) :=
  (List.range 256).map (fun t => (BitVec.ofNat 8 t, s.tatOf (BitVec.ofNat 8 t)))

def State.setRecord (s : State) (n : Nat) (m : MicroSave) : State :=
  let c := s.core n
  s.setCore n (c.setSave c.curId m)

/-- A fault raised inside is a micro-trap at this microword. -/
def trapping {α : Type} (n : Nat) (r : MRun) (x : M α) : M α := fun s =>
  match x s with
  | .ok a t => .ok a t
  | .error e t => .error e (t.setRecord n (r.record (t.cur n).pc r.upc))

/-- R201: UTRAP, or a UCODE of the device, inside: no record, and none left valid once the run has issued a store. -/
def ending {α : Type} (n : Nat) (r : MRun) (x : M α) : M α := fun s =>
  match x s with
  | .ok a t => .ok a t
  | .error e t => .error e (if r.stores = [] then t else t.setRecord n .none)

/-- R97, R201, R202: an instruction that runs as a vendor micro-routine: a fault writes a record, and the instruction goes
on from it. The vendor's microwords are its own: the record holds A, X and Y as the routine began, which no handler can
have changed while it is valid, and micro-address 0 stands for the faulting microword (log 18). The tag entries are those
of the record where there is one, else the present ones, which the record keeps (R36). -/
def vendorM (n : Nat) (x : RunCtx → M Unit) : M Unit := do
  let b ← getCur n
  let s ← get
  let m := (s.core n).save (s.core n).curId
  let resumed := m.valid && m.pc == b.pc
  trapping n { upc := 0, u := [b.a, b.x, b.y] ++ List.replicate 5 Word.raw0, cond := 0, a0 := b.a, x0 := b.x, y0 := b.y,
               a := none, x := none, y := none, preds := [], stores := [], heals := [], since := 0,
               entries := if resumed then m.entries else s.sampledTat }
    (x { entries := if resumed then m.entries else [] })

def ucode {α : Type} (detail : Nat) : M α := raiseExc { vec := vUcode, detail := detail }

/-! ### Memory micro-operations (R194, R198) -/

/-- R136 for STP: whether the store will be logged; HEDGE where the run's claims would not fit. -/
def MRun.hedged (r : MRun) (n : Nat) (t : Site) (w : Word) : M Bool := do
  if !(← logged n t.addr w r.ctx) then return false
  let s ← get
  let p := s.parishOf n
  let used := ((s.clogOf p).claimed.toNat + 2 ^ 32 - s.fld (Reg.gcClogp p) 0 32) % 2 ^ 32
  if s.cardCap p ≤ used + (r.stores.filter (·.log)).length then raiseExc { vec := vHedge, acc := 2 }
  return true

/-- R194: the memory operation of a microword: the run, with the destination's word where it loads. -/
def MRun.memOp (r : MRun) (n bank : Nat) (w : BitVec 160) : M (MRun × Option Word) := do
  let s ← get
  let op := mf w 36 4
  if op = 0 ∨ 5 < op then return (r, none)
  let lit := mf w 120 16
  let base := (r.src s n lit (mf w 32 4)).addr + 8 * mf w 28 4
  let breg := match mf w 22 2 with
    | 1 => 6
    | 2 => 7
    | _ => bank
  if op < 4 then
    let t ← trapping n r (checkM n breg (fun _ => base) 8 1 1 true .noDev)
    touchM n breg t
    let v ← trapping n r (readM n t.region t.pa r.ctx)
    if op = 3 then
      noteM n 1 t.pa v
      return (r, some (Word.fixNat (if v.poisoned then 255 else v.tag.toNat)))
    trapping n r (checkedLoad n 1 t.addr t.pa v r.ctx)
    trapping n r (needCapld 1 t.perms v)
    if op = 1 then return (r, some v)
    let (v, h) ← trapping n r (barrier n t.addr t.perms v r.ctx)
    return ({ r with heals := r.heals ++ h.toList }, some v)
  else
    if 16 ≤ r.stores.length then ending n r (ucode 0xFF16)
    let t ← trapping n r (checkM n breg (fun _ => base) 8 2 2 true .noDev)
    touchM n breg t
    let v := r.src s n lit (mf w 24 4)
    trapping n r (needCapst 2 t.perms v)
    let log ← if op = 5 then trapping n r (r.hedged n t v) else pure false
    return ({ r with stores := r.stores ++ [{ site := t, w := v, log := log }] }, none)

/-! ### One microword (R195-R205) -/

/-- What a microword does next. -/
inductive MNext where
  | go (r : MRun)
  | done (r : MRun)
  | yield (r : MRun)
deriving DecidableEq, Repr

/-- R196: a destination write, UCODE 0xFF04 where X or Y would not be FIX. -/
def MRun.putM (r : MRun) (n code : Nat) (w : Word) : M MRun :=
  match r.put code w with
  | some r => pure r
  | none => ending n r (ucode 0xFF04)

/-- R205: the microword at the micro-PC: reloaded where its parity fails; one marked bad raises MCHK at each use. -/
def microFetch (n : Nat) (r : MRun) : M (BitVec 160) := do
  let s ← get
  let p := s.physOf n
  let bad : M Unit := do
    act (fun s => s.coreFault n 0x09 0xC none)
    trapping n r (raiseExc (badMicroword s n))
  if (s.physCore p).badU.contains r.upc then bad
  else if !(s.microword p r.upc).good then
    if !(← actGet (fun s => s.reloadWord n r.upc true true)) then bad
  return ((← get).microword p r.upc).w

/-- R191-R193: what the ALU and the tag unit leave in the micro-condition. -/
def nextCond (c : BitVec 5) (afl : Bool) (out : Option AluOut) (teq : Option Bool) : BitVec 5 :=
  let c := match out with
    | some o =>
      if afl then
        BitVec.ofNat 5 ((o.res == 0#64).toNat + 2 * (bit o.res 63).toNat + 4 * o.c.toNat + 8 * o.v.toNat +
          16 * (c.getLsbD 4).toNat)
      else c
    | none => c
  match teq with
  | some b => BitVec.ofNat 5 (c.toNat % 16 + 16 * b.toNat)
  | none => c

/-- One microword of a routine of the instruction with bank field `bank`. DESIGN CHOICE (log 66): TSET and ATAG 0b11 with
TVAL NIL or TRU write the payload of their source (R192, R193), where R26 speaks of payload 0. -/
def microStep (n bank : Nat) (r : MRun) : M MNext := do
  let w ← microFetch n r
  let s ← get
  let lit := mf w 120 16
  let a := r.src s n lit (mf w 111 4)
  let b := r.src s n lit (mf w 107 4)
  let out := alu (mf w 115 5) a.val b.val
  let tval := BitVec.ofNat 8 (mf w 65 8)
  let atag := match mf w 100 2 with
    | 0 => a.tag
    | 1 => Tag.raw
    | 2 => Tag.fix
    | _ => tval
  let sw := r.src s n lit (mf w 93 4)
  let tw := r.src s n lit (mf w 73 4)
  let (r1, loaded) ← r.memOp n bank w
  let r1 ← match out with
    | some o => if o.writes then r1.putM n (mf w 103 4) ⟨atag, o.res⟩ else pure r1
    | none => pure r1
  let r1 ← match shifted (mf w 97 3) sw.val (mf w 87 6) with
    | some v => r1.putM n (mf w 83 4) ⟨sw.tag, v⟩
    | none => pure r1
  let r1 ← match mf w 77 3 with
    | 2 => r1.putM n (mf w 61 4) (Word.fixNat tw.tag.toNat)
    | 3 => r1.putM n (mf w 61 4) ⟨tval, tw.val⟩
    | _ => pure r1
  let r1 ← match loaded with
    | some v => r1.putM n (mf w 24 4) v
    | none => pure r1
  let psel := mf w 58 3
  let r1 := if 1 ≤ psel ∧ psel ≤ 6 then
      { r1 with preds := r1.preds ++ [(psel, microCond r.cond (mf w 55 3) != (mf w 54 1 == 1))] }
    else r1
  let cond := nextCond r.cond (mf w 102 1 == 1) out (if mf w 77 3 = 1 then some (tw.tag == tval) else none)
  let r1 := { r1 with cond := cond, since := r.since + 1 }
  let go (a : Nat) : M MNext := pure (.go { r1 with upc := a % 2 ^ 14 })
  match mf w 142 4 with
  | 0 => go (r.upc + 1)
  | 1 => go (mf w 146 14)
  | 2 => if microCond r.cond (mf w 139 3) != (mf w 138 1 == 1) then go (mf w 146 14) else go (r.upc + 1)
  | 3 => pure (.done r1)
  | 4 => pure (.yield { r1 with upc := (r.upc + 1) % 2 ^ 14 })
  | 5 =>
    let v := lit % 64
    ending n r1 (raiseExc { vec := v, detail := if v = vUcode then lit / 64 else 0 })
  | _ => ending n r1 (ucode 0xFF03)

/-- How a run of microwords ends. -/
inductive MEnd where
  | done (r : MRun)
  | event (e : BEvent)
  | limit (r : MRun)
  | running (r : MRun)
deriving DecidableEq, Repr

/-- R199, R201: runs microwords until DONE, an event at a YIELD, the limit, or the `fuel` of one command. -/
def microRun (n bank : Nat) : Nat → MRun → M MEnd
  | 0, r => pure (.running r)
  | fuel + 1, r => do
    if 65536 ≤ r.since then return .limit r
    match ← microStep n bank r with
    | .go r => microRun n bank fuel r
    | .done r => return .done r
    | .yield r =>
      let s ← get
      match s.boundary n false with
      | some e =>
        if r.stores = [] then
          act (fun s => s.setRecord n (r.record (s.cur n).pc r.upc))
          return .event e
        else microRun n bank fuel { r with since := 0 }
      | none => microRun n bank fuel { r with since := 0 }

/-- The microwords one command runs at most; the routine goes on with the next command of its instruction (log 18). -/
def microFuel : Nat := 2 ^ 20

/-- R196, R198, R140: DONE: the held writes become architected, the stores are made, and the heals. -/
def MRun.finish (r : MRun) (n : Nat) : M Unit := do
  modCur n (fun b =>
    let b := { b with a := r.a.getD b.a, x := r.x.getD b.x, y := r.y.getD b.y }
    r.preds.foldl (fun b p => b.setPred p.1 p.2) b)
  for h in r.stores do
    let p := (← get).parishOf n
    let card ← if h.log then do
        let k ← actGet (fun s => s.cardClaim p (cardWord n 2 h.site.addr))
        pure (some k)
      else pure none
    act (fun s => (s.ownStoreResv n (h.site.pa / 64)).coreStore n h.site.region (h.site.pa / 8) (.word h.w) card)
  for h in r.heals do healM n (some h) { entries := r.entries }
  retireM n

/-- Runs a routine of core `n` to its end, or as far as one command takes it. -/
def runRoutine (n bank : Nat) (r : MRun) : M Unit := do
  act (fun s => s.setCore n { s.core n with routine := none })
  match ← microRun n bank microFuel r with
  | .done r => r.finish n
  | .event e => act (fun s => s.takeEvent n e)
  | .limit r =>
    act (fun s =>
      let s := if r.stores = [] then s else s.setRecord n .none
      s.setCore n { s.core n with atLimit := true })
  | .running r => act (fun s => s.setCore n { s.core n with routine := some r })

end Sys2Proof.Machine
end

