-- ==== Sys2Proof/Machine/Pools.lean ====
section
/-! DEFINITION. The dispatchers of the three kinds of pool: deficit round-robin (R432-R437). -/

namespace Sys2Proof.Machine

/-- The pools of one device as numbers: compression, cipher, and the link `pl`. -/
def poolKey : Pool → Nat
  | .comp => 0
  | .ciph => 1
  | .link port link => 2 + 4 * port.val + link.val

/-- R432: the instances of a pool in ascending number. -/
def State.members (s : State) (pool : Pool) : List Nat :=
  match pool with
  | .comp => List.range 64
  | .ciph => List.range 64
  | .link port link => s.linkChans (4 * port.val + link.val)

/-- R447: the allotment register of an instance. -/
def altReg (pool : Pool) (i : Nat) : Nat :=
  match pool with
  | .comp => Reg.altCmp i
  | .ciph => Reg.altCph i
  | .link _ _ => Reg.altChn i

def memberQ (pool : Pool) (i : Nat) : QueueId :=
  match pool with
  | .comp => compQ i
  | .ciph => ciphQ i
  | .link _ _ => chanQ i

/-- R447: WEIGHT and DEFICIT, the latter in units of 64 bytes. -/
def State.weight (s : State) (pool : Pool) (i : Nat) : Nat := s.fld (altReg pool i) 0 8
def State.deficit (s : State) (pool : Pool) (i : Nat) : Nat := s.fld (altReg pool i) 8 32
def State.setDeficit (s : State) (pool : Pool) (i d : Nat) : State := s.setFld (altReg pool i) 8 32 d

/-- The quantum of 64 KiB in units of 64 bytes. -/
def quantum : Nat := 1024

/-- R432: the cost of a channel's program: the sum of COUNT over its orders. -/
def State.chanCost (s : State) (c : Nat) : Nat :=
  let q := chanQ c
  let p := s.qParish q
  let who : Who := { master := s.chanMaster c, acc := 0xF, parish := some p }
  let (s, ws) := s.headDesc q (s.chanMaster c)
  match s.checkDesc p ws with
  | .error _ => 4096
  | .ok r => ((List.range r.count).map (fun i => bits (s.fetchWord p (r.addr + 32 * i) who).2.val 0 24)).sum

/-- R432: the cost of an instance's head in units of 64 bytes. -/
def State.headCost (s : State) (pool : Pool) (i : Nat) : Nat :=
  let bytes := match pool with
    | .comp => s.compCost (s.qParish (compQ i)) (s.headDesc (compQ i) (masterId 3 0)).2
    | .ciph => s.ciphCost i (s.ciphHead i)
    | .link _ _ => s.chanCost i
  max 64 ((bytes + 63) / 64)

/-- Some descriptor lies between HEAD and TAIL. -/
def State.queued (s : State) (q : QueueId) : Bool := s.sqHead q != s.sqTail q

/-- R433: the head of an instance is ready. -/
def State.headReady (s : State) (pool : Pool) (i : Nat) : Bool :=
  let q := memberQ pool i
  s.qAssigned q && s.qEnabled q && s.queued q && s.qRoom q &&
    (match pool with
     | .comp => (s.compInst i).flush == 0
     | .ciph => (s.ciphInst i).flush == 0 && s.ciphFree i
     | .link _ _ => (s.chan i).waiting.isEmpty && (s.chan i).prog.isNone)

/-- R384: the units that run a job. -/
def State.compBusy (s : State) : List Nat := s.io.comp.flatMap (fun e => e.2.comp.map (·.unit))

/-- R432: the descriptor-taking unit of a link still holds orders of a descriptor that it has not handed on. -/
def State.takingUnit (s : State) (pl : Nat) : Bool :=
  (s.linkChans pl).any (fun c => (s.chan c).prog.isSome || (s.chan c).waiting.any (fun o => o.sent.isNone))

/-- R433: the server that would take the next head: the lowest-numbered free unit, or the cluster with the
most free staging; a link's descriptor-taking unit. -/
def State.server (s : State) (pool : Pool) : Option Nat :=
  match pool with
  | .comp => (List.range 16).find? (fun u => !s.compBusy.contains u)
  | .ciph => s.clusterFor
  | .link port link => if s.takingUnit (4 * port.val + link.val) then none else some 0

/-- The head of instance `i` begins on a server. -/
def State.beginHead (s : State) (pool : Pool) (i server : Nat) (d : DrrTurn) : State :=
  match pool with
  | .comp => s.beginComp i server d.err d.word
  | .ciph => s.beginCiph i server { err := d.err, key := d.key, word := d.word }
  | .link _ _ => s.takeDesc i

/-- Where the dispatcher stands: twice the instance, plus 1 within its visit. -/
def State.drrAt (s : State) (pool : Pool) : Nat := SMap.get 0 s.io.drrPos (poolKey pool)

def State.setDrr (s : State) (pool : Pool) (k : Nat) : State :=
  { s with io := { s.io with drrPos := s.io.drrPos.set 0 (poolKey pool) k } }

/-- R433: the visit of `i` ends; the next visit is of the instance after it. -/
def State.endVisit (s : State) (pool : Pool) (i : Nat) : State :=
  let s := if s.queued (memberQ pool i) then s else s.setDeficit pool i 0
  s.setDrr pool (2 * (i + 1))

/-- The pool of a link has one server. -/
def isLinkPool : Pool → Bool
  | .link _ _ => true
  | _ => false

/-- R433: the `while` of a visit: the head begins, waits for a server, or the visit ends; a link's visit goes on when
its unit is free again. The answer tells that the
dispatcher has begun a head or waits. -/
def State.visit (s : State) (pool : Pool) (i : Nat) (d : DrrTurn) : State × Bool :=
  if s.headReady pool i && decide (s.headCost pool i ≤ s.deficit pool i) then
    match s.server pool with
    | none => (s.setDrr pool (2 * i + 1), true)
    | some u =>
      let s := s.setDeficit pool i (s.deficit pool i - s.headCost pool i)
      let s := s.beginHead pool i u d
      let more := s.headReady pool i && decide (s.headCost pool i ≤ s.deficit pool i)
      if more || (isLinkPool pool && (s.server pool).isNone) then (s.setDrr pool (2 * i + 1), true)
      else (s.endVisit pool i, true)
  else (s.endVisit pool i, false)

/-- The next instance of the pool at or after number `k`, wrapping. -/
def nextMember (ms : List Nat) (k : Nat) : Option Nat :=
  match ms.find? (fun i => decide (k ≤ i)) with
  | some i => some i
  | none => ms.head?

/-- R433: the dispatcher's loop until a head begins or waits for a server; `idle` counts visits since one met a
ready head. -/
def State.drr (pool : Pool) (ms : List Nat) (d : DrrTurn) : Nat → State → Nat → State
  | 0, s, _ => s
  | k + 1, s, idle =>
    let pos := s.drrAt pool
    match nextMember ms (pos / 2) with
    | none => s
    | some i =>
      if pos % 2 = 1 ∧ pos / 2 = i then
        match s.visit pool i d with
        | (s, true) => s
        | (s, false) => State.drr pool ms d k s 0
      else if s.weight pool i ≠ 0 ∧ s.headReady pool i then
        match (s.setDeficit pool i (s.deficit pool i + s.weight pool i * quantum)).visit pool i d with
        | (s, true) => s
        | (s, false) => State.drr pool ms d k s 0
      else if ms.length ≤ idle + 1 then s.setDrr pool (2 * (i + 1))
      else State.drr pool ms d k (s.setDrr pool (2 * (i + 1))) (idle + 1)

/-- DRR_DISPATCH: a link's dispatcher waits while its unit is taking a descriptor. -/
def State.dispatchPool (s : State) (d : DrrTurn) : State :=
  let pool := d.pool
  if s.portsRun && ((s.server pool).isSome || !isLinkPool pool) then State.drr pool (s.members pool) d (2 ^ 28) s 0 else s

/-- DRR_DISPATCH: R433; the turn's error is met by the head that begins, in an engine's own SRAM (R475). -/
def execDrrDispatch (d : DrrTurn) (s : State) : Host.Outcome State Fault Refusal :=
  .next (s.whole (fun s => s.dispatchPool d))

/-- R435: SETW: the weight is set, every deficit of the pool is 0, and the dispatcher goes on with the next
instance. -/
def State.setWeight (s : State) (pool : Pool) (i w : Nat) : State :=
  let s := s.setFld (altReg pool i) 0 8 w
  let s := (s.members pool).foldl (fun s k => s.setDeficit pool k 0) s
  let pos := s.drrAt pool
  if pos % 2 = 1 then s.setDrr pool (pos + 1) else s

end Sys2Proof.Machine
end

