-- ==== Sys2Proof/Machine/Boot.lean ====
section
/-! DEFINITION. The records of the image (R502), starting a core at an entry or recovery address, the sweep of a
core's caches (R248), and the core reset (R440, R533). -/

namespace Sys2Proof.Machine

/-! ### Records -/

def recDevice : Nat := 0x01
def recCores : Nat := 0x02
def recParish : Nat := 0x03
def recCapt : Nat := 0x04
def recCarve : Nat := 0x05
def recPort : Nat := 0x06
def recChan : Nat := 0x07
def recCmpi : Nat := 0x08
def recCphi : Nat := 0x09
def recTat : Nat := 0x0A
def recUcode : Nat := 0x0B
def recEvroute : Nat := 0x0C
def recDio : Nat := 0x0D
def recMem : Nat := 0x0E
def recEnd : Nat := 0x10

/-- The payload of the record of a type and index, empty where there is none. -/
def recWords (img : List Rec) (ty ix : Nat) : List (BitVec 64) :=
  match img.find? (fun r => r.ty == ty && r.index == ix) with
  | some r => r.words
  | none => []

def recWord (img : List Rec) (ty ix i : Nat) : BitVec 64 := (recWords img ty ix).getD i 0#64

/-- R502: a CAP payload of a PARISH record; 0 stands for RAW 0. -/
def capPayload (v : BitVec 64) : Word := if v = 0#64 then Word.raw0 else Word.cap v

/-- R502: the rank of a core among its parish's cores. -/
def coreRank (cores : BitVec 64) (n : Nat) : Nat := ((List.range n).filter (fun k => cores.getLsbD k)).length

/-! ### Starting a core (R61, R502) -/

/-- Where the PARISH record holds an entry's address and its capabilities. -/
def entryAt (recovery : Bool) : Nat × Nat := if recovery then (9, 20) else (8, 10)

/-- R61, R65: the primary bank at an entry of parish `p`, for the core of a rank. -/
def entryBank (img : List Rec) (p rank : Nat) (recovery : Bool) : Bank :=
  let (a, c) := entryAt recovery
  let cp (i : Nat) := capPayload (recWord img recParish p (c + i))
  { Bank.entry with
    b0 := cp 0, b1 := cp 1, b2 := cp 2, b3 := cp 3, b4 := cp 4, b5 := cp 5, b6 := cp 6, b7 := cp 7, pcCap := cp 8,
    pc := BitVec.ofNat 48 ((recWord img recParish p a).toNat + 0x100 * rank) }

/-- R171: the other banks start with the same B0-B7. -/
def Bank.sharing (e : Bank) : Bank := { e with pcCap := Word.raw0, pc := 0 }

/-- R440, R462, R505: logical core `n` starts in its primary bank. What its own counters hold stays. -/
def State.startCore (s : State) (n : Nat) (recovery : Bool) : State :=
  let p := s.parishOf n
  let c := s.core n
  let e := entryBank s.image p (coreRank (s.reg (Reg.parCores p)) n) recovery
  s.setCore n { Core.reset with
    prim := e, shad := e.sharing, dbl := e.sharing,
    vb := capPayload (recWord s.image recParish p ((entryAt recovery).2 + 9)),
    run := if s.stop = .running then .running else .stopped,
    detector := c.detector, retryTimes := c.retryTimes, brBits := c.brBits }

/-! ### The sweep of a core's caches (R248) -/

/-- Dirty lines go home; every line leaves the L2; lock bits stay. -/
def State.sweepLines (s : State) (p : Nat) : State :=
  ((s.physCore p).l2.map (·.1)).foldl (fun s l => s.writeBack p l false) s

/-- R287: a core's reservation is lost. -/
def State.dropResv (s : State) (n : Nat) : State := s.setCore n { s.core n with resv := none }

/-- CACHE_SWEEP_DONE: R248. -/
def State.sweepDone (s : State) (p : Nat) : State :=
  if s.flag (Reg.cctl p) 1 then
    let s := match s.logicalOf p with
      | some n => (s.dropResv n).drainAll n
      | none => s
    (s.sweepLines p).setFlag (Reg.cctl p) 1 false
  else s

/-! ### Core reset (R440, R533) -/

/-- CRST: the core's stores drain, its caches are swept, its control store is reloaded, and it starts at its entry. -/
def State.coreReset (s : State) (n : Nat) : State :=
  let p := s.physOf n
  let s := ((s.drainAll n).dropResv n).sweepLines p
  let s := (s.reloadStore n).setFlag (Reg.cctl p) 1 false
  s.startCore n false

end Sys2Proof.Machine
end

