-- ==== Sys2Proof/Machine/Parish.lean ====
section
/-! DEFINITION. Runtime commands (R429-R440), page-log registers (R441-R448) and the collection registers of a
parish (R126-R133). -/

namespace Sys2Proof.Machine

/-! ### Runtime commands (R431) -/

def opSetw : Nat := 1
def opMove : Nat := 2
def opCrst : Nat := 3

/-- R431: a command ends: RESULT, LASTOP and DONE are set, BUSY cleared, and source 364 raised. -/
def State.endCommand (s : State) (op result : Nat) : State :=
  let s := (s.setFld Reg.rcStat 48 8 op).setFld Reg.rcStat 40 8 result
  (s.setFlag Reg.rcStat 0 false).setEv Reg.rcStat 1 364

/-- R431: the fields of ARG. -/
def argPool (arg : Nat) : Nat := arg / 2 ^ 24 % 4
def argIndex (arg : Nat) : Nat := arg / 2 ^ 16 % 256
def argParish (arg : Nat) : Nat := arg / 2 ^ 8 % 16
def argWeight (arg : Nat) : Nat := arg % 256
def argCore (arg : Nat) : Nat := arg % 64

/-- The queue a SETW or MOVE names. -/
def argQueue (arg : Nat) : QueueId :=
  let i := argIndex arg
  match argPool arg with
  | 0 => compQ i
  | 1 => ciphQ i
  | _ => chanQ i

/-- R432: the pool of a queue: a channel's is that of its link. -/
def State.poolOf (s : State) (q : QueueId) : Pool :=
  match q with
  | .comp _ => .comp
  | .ciph _ => .ciph
  | .chan c => .link (Fin.ofNat 4 (s.chanLink c / 4)) (Fin.ofNat 4 (s.chanLink c % 4))

def queueIndex : QueueId → Nat
  | .chan c => c.val
  | .comp i => i.val
  | .ciph i => i.val

/-- R431: RESULT 0x02. -/
def State.badArg (s : State) (op arg : Nat) : Bool :=
  if op = opSetw ∨ op = opMove then
    argPool arg == 3 || (decide (argPool arg < 2) && decide (63 < argIndex arg)) ||
      (op == opMove && !s.flag (Reg.parCfg (argParish arg)) 0)
  else if op = opCrst then decide (45 < argCore arg)
  else true

/-- R438: the instance is assigned, empty and quiesced. -/
def State.movable (s : State) (q : QueueId) : Bool :=
  s.qAssigned q && !s.qEnabled q && s.sqHead q == s.sqTail q && s.cqHead q == s.cqTail q && !s.qBusy q

/-- R438: what a MOVE does to the instance. -/
def State.moveQueue (s : State) (q : QueueId) (parish : Nat) : State :=
  let i := queueIndex q
  let alt := altReg (s.poolOf q) i
  let s := (s.setFld (queueCfg q) 28 4 parish).setFld alt 0 40 0
  match q with
  | .ciph i => s.emptySlots i.val
  | _ => s

/-- R438: MOVE acts here; in pair operation it stays busy until the partner acknowledges it. -/
def State.runMove (s : State) (arg : Nat) : State :=
  let q := argQueue arg
  if !s.movable q then s.endCommand opMove 3
  else
    let s := s.moveQueue q (argParish arg)
    if s.partnered then
      let f := s.pair.nextId
      let s := s.sendFrame (.move (BitVec.ofNat 32 arg))
      { s with pair := { s.pair with movePend := some f } }
    else s.endCommand opMove 0

/-- R440: CRST; it waits for a transplant in progress (R223). -/
def State.runCrst (s : State) (arg : Nat) : State :=
  let n := argCore arg
  if !s.coreValid n then s.endCommand opCrst 3
  else if (s.core n).run = .paused then s
  else (s.coreReset n).endCommand opCrst 0

/-- R435: SETW. -/
def State.runSetw (s : State) (arg : Nat) : State :=
  let q := argQueue arg
  if s.qAssigned q then (s.setWeight (s.poolOf q) (queueIndex q) (argWeight arg)).endCommand opSetw 0
  else s.endCommand opSetw 3

/-- R431: the command begins. -/
def State.runCommand (s : State) (op arg : Nat) : State :=
  if s.phase ≠ phService then s.endCommand op 4
  else if s.badArg op arg then s.endCommand op 2
  else
    let s := s.setFlag Reg.rcStat 0 true
    if op = opSetw then s.runSetw arg
    else if op = opMove then s.runMove arg
    else s.runCrst arg

/-- R431: a write of RC_CMD. -/
def State.writeRcCmd (s : State) (v : Reg64) : State :=
  let op := bits v 0 8
  if s.flag Reg.rcStat 0 then (if op ≠ 0 then s.setFld Reg.rcStat 40 8 1 else s)
  else
    let s := s.setFld Reg.rcCmd 16 32 (bits v 16 32)
    if op = 0 then s else s.runCommand op (bits v 16 32)

/-- R438: a MOVE whose frame has been acknowledged, or whose partner is lost, ends. -/
def State.moveSettled (s : State) : State :=
  match s.pair.movePend with
  | none => s
  | some f =>
    if s.partnered && s.unacked f then s
    else ({ s with pair := { s.pair with movePend := none } }).endCommand opMove 0

/-- R223, R440: a CRST that waited for the transplant of core `n` acts. -/
def State.crstWaiting (s : State) (n : Nat) : State :=
  if s.flag Reg.rcStat 0 && s.pair.movePend.isNone && argCore (s.fld Reg.rcCmd 16 32) == n then
    s.runCrst (s.fld Reg.rcCmd 16 32)
  else s

/-! ### Page-log registers (R442, R443, R448) -/

def State.plogOf (s : State) (p : Nat) : PageLog := SMap.get PageLog.reset s.plog p

def State.setPlog (s : State) (p : Nat) (l : PageLog) : State := { s with plog := s.plog.set PageLog.reset p l }

/-- R442, R443: a write of DL_CTL. -/
def State.writeDlCtl (s : State) (p : Nat) (v : Reg64) : State :=
  let l := s.plogOf p
  let l := if bit v 1 then { l with filter := [] } else l
  let l := if bit v 0 then l else { l with halted := false }
  (s.setPlog p l).setFlag (Reg.dlCtl p) 0 (bit v 0)

/-- Every byte of the range lies in runs of the parish that satisfy `f`. -/
def State.spanIn (s : State) (p a len : Nat) (f : Region → Bool) : Bool :=
  (List.range ((a + len - 1) / 2 ^ 30 - a / 2 ^ 30 + 1)).all (fun i => f (s.translate p ((a / 2 ^ 30 + i) * 2 ^ 30)).1)

def isNormal (r : Region) : Bool := r == .wb || r == .uc

/-- An entry that has no slot of the log any more. -/
def Card.unslot (k : Card) : Card := { k with slot := none }

/-- The entries of a core's stores that wait have no slot any more. -/
def Core.unslot (c : Core) : Core :=
  { c with sq := c.sq.map (fun e => { e with card := e.card.map Card.unslot })
           nt := c.nt.map (fun e => { e with cards := e.cards.map Card.unslot }) }

/-- R138: the stores of parish `p` that are not performed have no slot of the log any more. -/
def State.unslot (s : State) (p : Nat) : State :=
  { s with cores := s.cores.map (fun e => if s.parishOf e.1 = p then (e.1, e.2.unslot) else e) }

/-- R133, R443: a log moves: its slots are counted from 0, and the entries of the old one that still wait claim none. -/
def State.moveLog (s : State) (p : Nat) (card : Bool) : State :=
  let s := if card then { s with clog := s.clog.set ClogState.reset p .reset }
    else s.setPlog p { s.plogOf p with ring := .reset }
  let late := s.coh.late.map (fun e => if e.parish = p ∧ e.card = card then { e with slot := none } else e)
  let s := { s with coh := { s.coh with late := late } }
  if card then s.unslot p else s

/-- R443: a write of DL_RING. -/
def State.writeDlRing (s : State) (p : Nat) (v : Reg64) : State :=
  let k := bits v 48 5
  let a := bits v 7 41 * 0x80
  if 10 ≤ k ∧ k ≤ 20 ∧ a % (8 * 2 ^ k) = 0 ∧ s.spanIn 0 a (8 * 2 ^ k) isNormal then
    ((s.setReg (Reg.dlRing p) (BitVec.ofNat 64 (k * 2 ^ 48 + a))).setReg (Reg.dlPtr p) 0#64).moveLog p false
  else s.setEv (Reg.dlStat p) 1 370

/-- R133, R443: a TAIL is refused where HEAD minus it exceeds the capacity, which a TAIL past HEAD does too. -/
def tailOk (head tail cap : Nat) : Bool := decide ((head + 2 ^ 32 - tail) % 2 ^ 32 ≤ cap)

/-- R443: a write of DL_PTR. -/
def State.writeDlPtr (s : State) (p : Nat) (v : Reg64) : State :=
  let k := s.fld (Reg.dlRing p) 48 5
  if tailOk (s.fld (Reg.dlPtr p) 32 32) (bits v 0 32) (if k = 0 then 0 else 2 ^ k) then
    s.setFld (Reg.dlPtr p) 0 32 (bits v 0 32)
  else s.setEv (Reg.dlStat p) 1 370

/-! ### Collection registers (R128-R133) -/

/-- R128: a write of GC_CTL. -/
def State.writeGcCtl (s : State) (p : Nat) (v : Reg64) : State := s.setReg (Reg.gcCtl p) (v &&& 7#64)

/-- R130, R133: a write of GC_ZONE. -/
def State.writeGcZone (s : State) (p : Nat) (v : Reg64) : State :=
  if s.spanIn p (bits v 0 36 * 0x1000) (bits v 36 27 + 1) (· == .wb) then
    s.setReg (Reg.gcZone p) (v &&& 0x7FFFFFFFFFFFFFFF#64)
  else s.setFlag (Reg.gcStat p) 0 true

/-- R131, R133: a write of GC_CLOG. -/
def State.writeGcClog (s : State) (p : Nat) (v : Reg64) : State :=
  let k := bits v 48 5
  let a := bits v 7 41 * 0x80
  if 4 ≤ k ∧ k ≤ 16 ∧ a % (8 * 2 ^ k) = 0 ∧ s.spanIn p a (8 * 2 ^ k) (· == .wb) then
    ((s.setReg (Reg.gcClog p) (BitVec.ofNat 64 (k * 2 ^ 48 + a))).setReg (Reg.gcClogp p) 0#64).moveLog p true
  else s.setFlag (Reg.gcStat p) 0 true

/-- R132, R133: a write of GC_CLOGP. -/
def State.writeGcClogp (s : State) (p : Nat) (v : Reg64) : State :=
  if tailOk (s.fld (Reg.gcClogp p) 32 32) (bits v 0 32) (s.cardCap p) then
    s.setFld (Reg.gcClogp p) 0 32 (bits v 0 32)
  else s.setFlag (Reg.gcStat p) 1 true

end Sys2Proof.Machine
end

