-- ==== Sys2Proof/Machine/Control.lean ====
section
/-! DEFINITION. The control region (R9-R11, R560-R564): which registers it assigns, who reaches them, what a load
returns and what a store does. -/

namespace Sys2Proof.Machine

/-! ### Values that are computed (R252, R273, R470, R514, R538, R553) -/

/-- R513, R514: the feature list. -/
def State.feaWord (s : State) (off : Nat) : Reg64 :=
  match off with
  | 0x000 => 0x100#64
  | 0x100 => 0x0001010200000120#64
  | 0x108 => 0x4F43343800004B31#64
  | 0x110 => s.rom.dieId
  | 0x120 => 0x0002010100000140#64
  | 0x128 => 0x0880#64
  | 0x140 => 0x0003010100000160#64
  | 0x148 => 0x401810#64
  | 0x160 => 0x0004010100000000#64
  | 0x168 => 0x0104#64
  | _ => 0#64

/-- R252: LCNT fields from the lock bits. -/
def State.lockCount (s : State) (p k : Nat) : Nat := ((s.physCore p).locks.filter (fun x => x % 4 == k)).length

/-- R553: how the enabled discrete outputs are driven (R556 [1:0]), and whether they are forced. -/
def State.drive (s : State) : Nat × Bool :=
  if !s.pins.vaux || !s.pins.resetN || s.phase == phStartup || s.phase == phTest then (0, false)
  else
    let live : Nat × Bool := if s.role = 2 ∨ s.pair.takeT0.isSome then (1, false) else if s.phase = phService then (2, false) else (0, false)
    match s.stop with
    | .running => live
    | .startup => live
    | .stood => (0, false)
    | .handed => if s.pair.switching then (2, false) else (0, false)
    | .pfail => if s.role = 2 then (1, false) else if s.partnered then (2, false) else (2, true)
    | .grave => if s.role = 2 then (1, false) else (2, true)
    | .vinLoss => if s.role = 2 then (1, false) else (2, true)
    | .trip => if s.role = 2 then (1, false) else (2, true)

/-- R553: what drives output `i`, outside boundary scan: nothing, or a level, weakly where it is a keeper's. -/
def State.dout (s : State) (i : Nat) : Option Bool :=
  if !s.flag Reg.dioOen i then none
  else match s.drive with
    | (0, _) => none
    | (1, _) => some (s.pair.dioHeld.getLsbD i)
    | (_, true) => some (s.flag Reg.dioSafe i)
    | (_, false) => some (s.flag Reg.dioOut i)

/-- What a register holds (R9), who asks aside. -/
def State.regValue (s : State) (off : Nat) : Reg64 :=
  let v := s.reg off
  if off < 0x10000 then s.feaWord off
  else if off = Reg.clkTs then s.ts
  else if off = Reg.pairCfg then putBit v 1 s.pins.pairRole
  else if off = Reg.pairStat then putBit (putBit v 9 s.pins.actIn) 8 (s.pins.actOut == some true)
  else if off = Reg.dioStat then
    BitVec.ofNat 64 (s.drive.1 + if s.drive.2 then 4 else 0)
  else if Reg.grn 0 ≤ off ∧ off < Reg.grn 64 ∧ off % 0x1000 = 0 then
    putBits v 32 8 (s.retryAt ((off - Reg.grn 0) / 0x1000)).length
  else if Reg.core 0 ≤ off ∧ off < Reg.core 48 ∧ off % 0x10000 = 0x508 then
    let p := (off - Reg.core 0) / 0x10000
    putBits (putBits (putBits (putBits v 0 12 (s.lockCount p 0)) 12 12 (s.lockCount p 1)) 24 12 (s.lockCount p 2))
      36 12 (s.lockCount p 3)
  else v

/-! ### The register table (R562) -/

/-- Who reaches a register. -/
inductive Reach where
  /-- Any capability that covers it. -/
  | any
  /-- Device-control alone. -/
  | dev
  /-- Read by observation and device-control, written by device-control. -/
  | obs
  /-- The instance's owner, or device-control (R430), and only where it is assigned (R563). -/
  | chan | comp | ciph
deriving DecidableEq, Repr

/-- What a store does beyond R9. -/
inductive RegAct where
  | plain
  | tat | evRoute | evPend | evDoor | fcStat | event | cctl
  | cfg | base | sqp | cqp
  | rcCmd | dlCtl | dlRing | dlPtr | gcCtl | gcZone | gcClog | gcClogp
  | pairCmd | dioOut
deriving DecidableEq, Repr

/-- A row of the table: registers at `base + i * s1 + j * s2`, their RW and W1C bits, who reaches them. -/
structure RegRow where
  base : Nat
  s1 : Nat := 0x10000000
  c1 : Nat := 1
  s2 : Nat := 8
  c2 : Nat := 1
  rw : Reg64 := 0#64
  w1c : Reg64 := 0#64
  reach : Reach
  act : RegAct := .plain
deriving DecidableEq, Repr

/-- Bits `[hi : lo]`. -/
def span (hi lo : Nat) : Reg64 := BitVec.ofNat 64 (2 ^ (hi + 1) - 2 ^ lo)

/-- The always-on and observation blocks. -/
def regRowsA : List RegRow := [
  { base := 0x0, reach := .any },
  { base := 0x100, c2 := 16, reach := .any },
  { base := Reg.imgStat, c2 := 4, reach := .any },
  { base := Reg.tat 0, c2 := 256, reach := .any, act := .tat },
  { base := Reg.clkStat, c2 := 2, reach := .obs },
  { base := Reg.pwrStat, w1c := span 1 0, reach := .obs },
  { base := Reg.thmStat, reach := .obs },
  { base := Reg.fcCfg, rw := span 1 0, reach := .obs },
  { base := Reg.fcStat, w1c := span 7 0, reach := .obs, act := .fcStat },
  { base := Reg.fcCnt, reach := .obs },
  { base := Reg.fcAddr 0, s1 := 0x20, c1 := 4, c2 := 3, reach := .obs },
  { base := Reg.fcEsc 0, c2 := 4, reach := .obs },
  { base := Reg.fcMcore 0, c2 := 16, reach := .obs },
  { base := Reg.evRoute 0, c2 := 384, rw := span 16 6 ||| span 4 0, reach := .dev, act := .evRoute },
  { base := Reg.evPend 0, c2 := 6, w1c := span 63 0, reach := .any, act := .evPend },
  { base := Reg.evDoor 0, c2 := 16, reach := .any, act := .evDoor },
  { base := Reg.evStat, w1c := span 0 0, reach := .any },
  { base := Reg.monT 0, c2 := 64, w1c := span 48 48, reach := .obs },
  { base := Reg.monV 0, c2 := 24, w1c := span 48 48, reach := .obs },
  { base := Reg.monP 0, c2 := 16, w1c := span 48 48, reach := .obs },
  { base := Reg.talSel 0, c2 := 128, rw := span 15 0, reach := .obs, act := .event },
  { base := Reg.talCnt 0, c2 := 128, reach := .obs },
  { base := Reg.trcCtl, rw := span 23 11 ||| span 7 4, reach := .obs },
  { base := Reg.trcCores, rw := span 45 0, reach := .obs },
  { base := Reg.trcStat, w1c := span 0 0, reach := .obs }]

/-- The core, slice, memory and Commons blocks. -/
def regRowsB : List RegRow := [
  { base := Reg.ucsStat 0, s1 := 0x10000, c1 := 48, w1c := span 30 30, reach := .any },
  { base := Reg.rtyStat 0, s1 := 0x10000, c1 := 48, w1c := span 25 24, reach := .any },
  { base := Reg.rtyCfg 0, s1 := 0x10000, c1 := 48, reach := .any },
  { base := Reg.cctl 0, s1 := 0x10000, c1 := 48, reach := .dev, act := .cctl },
  { base := Reg.lckStat 0, s1 := 0x10000, c1 := 48, reach := .dev },
  { base := Reg.pmcSel 0 0, s1 := 0x10000, c1 := 48, c2 := 8, rw := span 7 0, reach := .obs, act := .event },
  { base := Reg.pmcCnt 0 0, s1 := 0x10000, c1 := 48, c2 := 8, reach := .obs },
  { base := Reg.grnStat 0, s1 := 0x1000, c1 := 64, w1c := span 1 0, reach := .dev },
  { base := Reg.grnDways 0, s1 := 0x1000, c1 := 64, reach := .dev },
  { base := Reg.grnEcc 0, s1 := 0x1000, c1 := 64, w1c := span 1 0, reach := .dev },
  { base := Reg.grnWays 0 0, s1 := 0x1000, c1 := 64, c2 := 16, reach := .dev },
  { base := Reg.memEcc 0, s1 := 0x100, c1 := 12, w1c := span 2 0, reach := .dev },
  { base := Reg.glnCtl, rw := span 7 0, reach := .dev },
  { base := Reg.glnStat, reach := .dev },
  { base := Reg.cmnCtl 0, s1 := 0x1000, c1 := 4, reach := .dev },
  { base := Reg.cmnStat 0, s1 := 0x1000, c1 := 4, w1c := span 0 0, reach := .dev },
  { base := Reg.cmnEcc 0, s1 := 0x1000, c1 := 4, w1c := span 0 0, reach := .dev },
  { base := Reg.cmnRmp 0, s1 := 0x1000, c1 := 4, w1c := span 47 40, reach := .dev },
  { base := Reg.cmnFuse 0 0, s1 := 0x1000, c1 := 4, c2 := 64, reach := .dev }]

/-- The channel, engine and ledger groups. -/
def regRowsC : List RegRow := [
  { base := Reg.chCfg 0, s1 := 0x1000, c1 := 256, reach := .chan, act := .cfg },
  { base := Reg.chSqb 0, s1 := 0x1000, c1 := 256, c2 := 2, reach := .chan, act := .base },
  { base := Reg.chSqp 0, s1 := 0x1000, c1 := 256, reach := .chan, act := .sqp },
  { base := Reg.chCqp 0, s1 := 0x1000, c1 := 256, reach := .chan, act := .cqp },
  { base := Reg.chAdb 0, s1 := 0x1000, c1 := 256, rw := span 63 3, reach := .chan },
  { base := Reg.chStat 0, s1 := 0x1000, c1 := 256, w1c := span 3 0, reach := .chan },
  { base := Reg.chSeq 0, s1 := 0x1000, c1 := 256, reach := .chan },
  { base := Reg.cpCfg 0, s1 := 0x1000, c1 := 4, c2 := 2, reach := .dev },
  { base := Reg.ldgCfg, reach := .dev },
  { base := Reg.ldgStat, w1c := span 2 0, reach := .dev },
  { base := Reg.cxCfg 0, s1 := 0x1000, c1 := 64, reach := .ciph, act := .cfg },
  { base := Reg.cxSqb 0, s1 := 0x1000, c1 := 64, c2 := 2, reach := .ciph, act := .base },
  { base := Reg.cxSqp 0, s1 := 0x1000, c1 := 64, reach := .ciph, act := .sqp },
  { base := Reg.cxCqp 0, s1 := 0x1000, c1 := 64, reach := .ciph, act := .cqp },
  { base := Reg.cxStat 0, s1 := 0x1000, c1 := 64, w1c := span 3 0, reach := .ciph },
  { base := Reg.cxKey 0, s1 := 0x1000, c1 := 64, reach := .ciph },
  { base := Reg.cphKrid, reach := .dev },
  { base := Reg.cphRng, w1c := span 1 1, reach := .dev },
  { base := Reg.cphPtag 0, c2 := 16, reach := .dev },
  { base := Reg.ciCfg 0, s1 := 0x1000, c1 := 64, reach := .comp, act := .cfg },
  { base := Reg.ciSqb 0, s1 := 0x1000, c1 := 64, c2 := 2, reach := .comp, act := .base },
  { base := Reg.ciSqp 0, s1 := 0x1000, c1 := 64, reach := .comp, act := .sqp },
  { base := Reg.ciCqp 0, s1 := 0x1000, c1 := 64, reach := .comp, act := .cqp },
  { base := Reg.ciStat 0, s1 := 0x1000, c1 := 64, w1c := span 2 0, reach := .comp }]

/-- The parish, pair and discrete blocks. -/
def regRowsD : List RegRow := [
  { base := Reg.parCfg 0, s1 := 0x10, c1 := 16, c2 := 2, reach := .dev },
  { base := Reg.carve 0 0, s1 := 0x200, c1 := 16, c2 := 64, reach := .dev },
  { base := Reg.captBase 0, s1 := 0x40, c1 := 16, c2 := 3, reach := .dev },
  { base := Reg.captStat 0, s1 := 0x40, c1 := 16, w1c := span 1 0, reach := .dev },
  { base := Reg.excCtl 0, s1 := 0x40, c1 := 16, rw := span 0 0, reach := .dev },
  { base := Reg.lcoreMap 0, c2 := 46, reach := .dev },
  { base := Reg.fallowStat, c2 := 2, reach := .dev },
  { base := Reg.rcCmd, reach := .dev, act := .rcCmd },
  { base := Reg.rcStat, w1c := span 1 1, reach := .dev },
  { base := Reg.altCmp 0, c2 := 64, reach := .dev },
  { base := Reg.altCph 0, c2 := 64, reach := .dev },
  { base := Reg.altChn 0, c2 := 256, reach := .dev },
  { base := Reg.dlCtl 0, s1 := 0x40, c1 := 16, reach := .dev, act := .dlCtl },
  { base := Reg.dlRing 0, s1 := 0x40, c1 := 16, reach := .dev, act := .dlRing },
  { base := Reg.dlPtr 0, s1 := 0x40, c1 := 16, reach := .dev, act := .dlPtr },
  { base := Reg.dlStat 0, s1 := 0x40, c1 := 16, w1c := span 1 0, reach := .dev },
  { base := Reg.gcCtl 0, s1 := 0x40, c1 := 16, reach := .any, act := .gcCtl },
  { base := Reg.gcStat 0, s1 := 0x40, c1 := 16, w1c := span 2 0, reach := .any },
  { base := Reg.gcZone 0, s1 := 0x40, c1 := 16, reach := .any, act := .gcZone },
  { base := Reg.gcClog 0, s1 := 0x40, c1 := 16, reach := .any, act := .gcClog },
  { base := Reg.gcClogp 0, s1 := 0x40, c1 := 16, reach := .any, act := .gcClogp },
  { base := Reg.pairCfg, reach := .dev },
  { base := Reg.pairStat, w1c := span 15 11, reach := .dev },
  { base := Reg.pairCmd, reach := .dev, act := .pairCmd },
  { base := Reg.pairLink, c2 := 3, reach := .dev },
  { base := Reg.dioOen, c2 := 3, reach := .dev },
  { base := Reg.dioOut, reach := .dev, act := .dioOut },
  { base := Reg.dioIn, reach := .dev },
  { base := Reg.dioChg, w1c := span 31 0, reach := .dev },
  { base := Reg.dioStat, reach := .dev }]

def regRows : List RegRow := regRowsA ++ regRowsB ++ regRowsC ++ regRowsD

/-- The indices of the register at an offset, where the row holds one there. -/
def RegRow.at (r : RegRow) (off : Nat) : Option (Nat × Nat) :=
  if off < r.base then none
  else
    let d := off - r.base
    let i := d / r.s1
    let j := d % r.s1 / r.s2
    if i < r.c1 ∧ j < r.c2 ∧ d % r.s1 % r.s2 = 0 then some (i, j) else none

/-- The row of an offset, if the register map assigns one (R11). -/
def regRowAt (off : Nat) : Option (RegRow × Nat × Nat) :=
  regRows.findSome? (fun r => (r.at off).map (fun k => (r, k.1, k.2)))

/-! ### Who reaches a register -/

/-- The queue of a group. -/
def Reach.queue (r : Reach) (i : Nat) : Option QueueId :=
  match r with
  | .chan => some (chanQ i)
  | .comp => some (compQ i)
  | .ciph => some (ciphQ i)
  | _ => none

/-- R430, R563: the access reaches the group of a queue. -/
def State.ownerReach (s : State) (acc : Accessor) (q : QueueId) : Bool :=
  s.qAssigned q && (acc.devctl || s.qParish q == acc.parish.val)

def State.canRead (s : State) (acc : Accessor) (r : RegRow) (i : Nat) : Bool :=
  match r.reach with
  | .any => true
  | .dev => acc.devctl
  | .obs => acc.devctl || acc.obs
  | .chan => s.ownerReach acc (chanQ i)
  | .comp => s.ownerReach acc (compQ i)
  | .ciph => s.ownerReach acc (ciphQ i)

def State.canWrite (s : State) (acc : Accessor) (r : RegRow) (i : Nat) : Bool :=
  match r.reach with
  | .obs => acc.devctl
  | _ => s.canRead acc r i

/-- R491: the bits of EV_PEND word `k` that an access sees. -/
def State.pendMask (s : State) (acc : Accessor) (k : Nat) : Reg64 :=
  if acc.devctl then span 63 0
  else
    BitVec.ofNat 64 (((List.range 64).filter (fun b => s.fld (Reg.evRoute (64 * k + b)) 12 4 == acc.parish.val)).map
      (2 ^ ·)).sum

/-- What a load of the register at `off` returns. -/
def State.readReg (s : State) (acc : Accessor) (off : Nat) : Reg64 :=
  match regRowAt off with
  | none => 0#64
  | some (r, i, j) =>
    if s.canRead acc r i then
      (match r.act with
       | .evPend => s.regValue off &&& s.pendMask acc j
       | _ => s.regValue off)
    else 0#64

/-! ### What a store does -/

/-- R9: the new value of a register with RW and W1C fields. -/
def mergeReg (r : RegRow) (old v : Reg64) : Reg64 := ((old &&& ~~~(v &&& r.w1c)) &&& ~~~r.rw) ||| (v &&& r.rw)

/-- R32, R33, R10: a TAT entry after a write. -/
def tatMerge (t : Nat) (old v : Reg64) : Reg64 :=
  let cust := decide (0x40 ≤ t ∧ t ≤ 0x7F)
  let base := decide (t ≤ 0x06 ∨ (0x08 ≤ t ∧ t ≤ 0x11))
  if !cust && !base then old
  else
    let x := putBits (putBits old 12 12 (bits v 12 12)) 3 1 (bits v 3 1)
    let x := if bits v 8 2 = 3 then x else putBits x 8 2 (bits v 8 2)
    if cust then
      let x := if 5 ≤ bits v 4 3 then x else putBits x 4 3 (bits v 4 3)
      if bits v 0 2 = 3 then x else putBits x 0 2 (bits v 0 2)
    else x

/-- R36, R458: a TAT entry is written, here and at the partner. -/
def State.writeTat (s : State) (t : Nat) (v : Reg64) : State :=
  let x := tatMerge t (s.reg (Reg.tat t)) v
  (s.setReg (Reg.tat t) x).sendFrame (.tat (BitVec.ofNat 8 t) x)

/-- R490: a write of EV_ROUTE. -/
def State.writeRoute (s : State) (i : Nat) (v : Reg64) : State :=
  let p := bits v 12 4
  if bit v 16 && !(s.flag (Reg.parCfg p) 0 && s.flag (Reg.parCores p) (bits v 6 6)) then s.setFlag Reg.evStat 0 true
  else
    let s := s.setReg (Reg.evRoute i) (v &&& (span 16 6 ||| span 4 0))
    { s with badRoutes := s.badRoutes.filter (· ≠ Reg.evRoute i) }

/-- R482: the capture of class `c` may be cleared. -/
def State.clearable (s : State) (c : Nat) : Bool :=
  let ph := s.fld (Reg.fcInfo c) 54 2
  ph == phService || (c != 3 && s.phase == phService)

/-- R482: a W1C write of FC_STAT. -/
def State.writeFcStat (s : State) (v : Reg64) : State :=
  (List.range 4).foldl (fun s c =>
    let s := if bit v c && s.clearable c then s.setFlag Reg.fcStat c false else s
    if bit v (4 + c) && s.clearable c then s.setFlag Reg.fcStat (4 + c) false else s) s

/-- R518, R10: a reserved EVENT keeps the previous one. -/
def eventMerge (wide : Bool) (old v : Reg64) : Reg64 :=
  let lo := if wide then 8 else 0
  let x := if 0x0E < bits v lo 8 then old else putBits old lo 8 (bits v lo 8)
  if wide then putBits x 0 8 (bits v 0 8) else x

/-- R247: every entry of the caches of `p` is empty; lock bits stay. -/
def State.emptyCaches (s : State) (p : Nat) : State :=
  s.setPhys p { s.physCore p with l2 := [], fills := [], l1i := .reset, l1d := .reset, dirty := [] }

/-- R564: `p` is the failing core of a transplant, from step 1 on. -/
def State.failing (s : State) (p : Nat) : Bool :=
  match s.logicalOf p with
  | some n => (s.core n).run == .paused
  | none => false

/-- R240, R247, R251, R564: a write of CCTL. -/
def State.writeCctl (s : State) (p : Nat) (v : Reg64) : State :=
  if s.flag Reg.fallowStat p || s.flag Reg.failedMap p || s.failing p then s
  else
    let s := if bit v 3 then s.setPhys p { s.physCore p with locks := [] } else s
    let sweep := s.flag (Reg.cctl p) 0 && !s.flag (Reg.cctl p) 1 && !bit v 0
    let s := if !s.flag (Reg.cctl p) 0 && !s.flag (Reg.cctl p) 1 && bit v 0 then s.emptyCaches p else s
    let s := (s.setFlag (Reg.cctl p) 2 (bit v 2)).setFlag (Reg.cctl p) 0 (bit v 0)
    if sweep then
      let s := match s.logicalOf p with
        | some n => s.dropResv n
        | none => s
      s.setFlag (Reg.cctl p) 1 true
    else s

/-- R399, R423: FLUSH of an engine instance. -/
def State.flushQueue (s : State) (q : QueueId) : State :=
  match q with
  | .chan _ => s
  | .comp i => s.compFlush i.val
  | .ciph i => s.ciphFlush i.val

/-- R337, R398, R422: a write of CH_CFG, CI_CFG or CX_CFG. -/
def State.writeCfg (s : State) (q : QueueId) (v : Reg64) : State :=
  if bit v 1 && !s.cfgRefused q v then (s.qConfig q v).flushQueue q else s.qConfig q v

/-- R340: a write of a completion HEAD; entries that waited for room follow. -/
def State.writeCqp (s : State) (q : QueueId) (v : Reg64) : State :=
  let s := s.qHead q (bits v 0 32)
  match q with
  | .chan c => s.flushChan c.val
  | .comp i => State.compAbort 65536 s i.val
  | .ciph i => State.ciphAbort 65536 s i.val

/-- R465: SWITCH on an ACTIVE whose partner is in SERVICE: its cores stop, and no order is released. -/
def State.startSwitch (s : State) : State :=
  if s.role = 1 ∧ s.partnered = true ∧ s.fld Reg.pairStat 6 2 = phService ∧ s.phase = phService ∧ s.stop = .running then
    { s with cores := s.cores.map (fun e => (e.1, e.2.halt)), pair := { s.pair with switching := true } }
  else s

/-- R555, R556: a write of DIO_OUT; a change goes to the partner (R464). -/
def State.writeDioOut (s : State) (v : Reg64) : State :=
  if s.drive.2 then s
  else
    let x := v &&& s.reg Reg.dioOen &&& 0xFFFFFFFF#64
    if x = s.reg Reg.dioOut then s
    else (s.setReg Reg.dioOut x).sendFrame (.dio (x.truncate 32))

/-- The queue a row's register belongs to. -/
def RegRow.queue (r : RegRow) (i : Nat) : QueueId := (r.reach.queue i).getD (chanQ i)

/-- A store that reaches the register at `off`, whose row and indices are given. -/
def State.storeAt (s : State) (acc : Accessor) (r : RegRow) (i j off : Nat) (v : Reg64) : State :=
  match r.act with
  | .plain => if r.rw = 0#64 ∧ r.w1c = 0#64 then s else s.setReg off (mergeReg r (s.reg off) v)
  | .tat => s.writeTat j v
  | .evRoute => s.writeRoute j v
  | .evPend => s.setReg off (s.reg off &&& ~~~(v &&& s.pendMask acc j))
  | .evDoor => s.raise (324 + j)
  | .fcStat => s.writeFcStat v
  | .event => s.setReg off (eventMerge (decide (off < Reg.core 0)) (s.reg off) v)
  | .cctl => s.writeCctl i v
  | .cfg => s.writeCfg (r.queue i) v
  | .base => s.qBase (r.queue i) off v
  | .sqp => s.qDoorbell (r.queue i) (bits v 0 32)
  | .cqp => s.writeCqp (r.queue i) v
  | .rcCmd => s.writeRcCmd v
  | .dlCtl => s.writeDlCtl i v
  | .dlRing => s.writeDlRing i v
  | .dlPtr => s.writeDlPtr i v
  | .gcCtl => s.writeGcCtl i v
  | .gcZone => s.writeGcZone i v
  | .gcClog => s.writeGcClog i v
  | .gcClogp => s.writeGcClogp i v
  | .pairCmd => if bit v 0 then s.startSwitch else s
  | .dioOut => s.writeDioOut v

/-- A store to the control region; `tag` where it is made through the tag-table capability (R35). -/
def State.controlStore (s : State) (acc : Accessor) (tag : Bool) (off : Nat) (v : Reg64) : State :=
  match regRowAt off with
  | none => s
  | some (r, i, j) =>
    if r.act = .tat && !tag then s
    else if s.canWrite acc r i then s.storeAt acc r i j off v
    else s

/-! ### The rows of register writes -/

/-- A command's store to the control region: its whole effect, or it waits. -/
def State.regStore (s : State) (acc : Accessor) (tag : Bool) (off : Nat) (v : Reg64) : State :=
  s.whole (fun s => s.controlStore acc tag off v)

/-- DOORBELL: R338. -/
def execDoorbell (acc : Accessor) (q : QueueId) (t : BitVec 32) (s : State) : Host.Outcome State Fault Refusal :=
  .next (s.regStore acc false (queueSqp q) (t.setWidth 64))

/-- QUEUE_ENABLE: R337: a write of the queue's CFG. -/
def execQueueEnable (acc : Accessor) (q : QueueId) (v : BitVec 64) (s : State) : Host.Outcome State Fault Refusal :=
  .next (s.regStore acc false (queueCfg q) (v &&& ~~~2#64))

/-- RING_CONFIG_WRITE: R337: a write of a ring base, or of the sizes with EN as it stands. -/
def execRingConfigWrite (acc : Accessor) (q : QueueId) (r : RingReg) (v : BitVec 64) (s : State) :
    Host.Outcome State Fault Refusal :=
  .next (match r with
    | .sqb => s.regStore acc false (queueSqb q) v
    | .cqb => s.regStore acc false (queueCqb q) v
    | .sizes => s.regStore acc false (queueCfg q) (putBit (v &&& ~~~2#64) 0 (s.qEnabled q)))

/-- CQ_HEAD_WRITE: R340. -/
def execCqHeadWrite (acc : Accessor) (q : QueueId) (h : BitVec 32) (s : State) : Host.Outcome State Fault Refusal :=
  .next (s.regStore acc false (queueCqp q) (h.setWidth 64))

/-- CI_FLUSH: R399: a write of FLUSH with the other fields as they stand. -/
def execCiFlush (acc : Accessor) (i : Fin 64) (s : State) : Host.Outcome State Fault Refusal :=
  .next (s.regStore acc false (Reg.ciCfg i) (putBit (s.reg (Reg.ciCfg i)) 1 true))

/-- CX_FLUSH: R423. -/
def execCxFlush (acc : Accessor) (i : Fin 64) (s : State) : Host.Outcome State Fault Refusal :=
  .next (s.regStore acc false (Reg.cxCfg i) (putBit (s.reg (Reg.cxCfg i)) 1 true))

/-- A write of RC_CMD with an OP. -/
def rcValue (arg : BitVec 32) (op : Nat) : Reg64 := BitVec.ofNat 64 (arg.toNat * 2 ^ 16 + op)

/-- SETW: R431, R435. -/
def execSetw (acc : Accessor) (arg : BitVec 32) (s : State) : Host.Outcome State Fault Refusal :=
  .next (s.regStore acc false Reg.rcCmd (rcValue arg opSetw))

/-- MOVE: R431, R438. -/
def execMove (acc : Accessor) (arg : BitVec 32) (s : State) : Host.Outcome State Fault Refusal :=
  .next (s.regStore acc false Reg.rcCmd (rcValue arg opMove))

/-- CRST: R431, R440. -/
def execCrst (acc : Accessor) (arg : BitVec 32) (s : State) : Host.Outcome State Fault Refusal :=
  .next (s.regStore acc false Reg.rcCmd (rcValue arg opCrst))

/-- DL_CTL_EN: R441, R442. -/
def execDlCtlEn (acc : Accessor) (p : Parish) (en : Bool) (s : State) : Host.Outcome State Fault Refusal :=
  .next (s.regStore acc false (Reg.dlCtl p) (if en then 1#64 else 0#64))

/-- DL_CTL_CLR: R442: CLR with EN as it stands. -/
def execDlCtlClr (acc : Accessor) (p : Parish) (s : State) : Host.Outcome State Fault Refusal :=
  .next (s.regStore acc false (Reg.dlCtl p) (putBit (s.reg (Reg.dlCtl p)) 1 true))

/-- DL_RING_WRITE: R443. -/
def execDlRingWrite (acc : Accessor) (p : Parish) (tail : Bool) (v : BitVec 64) (s : State) :
    Host.Outcome State Fault Refusal :=
  .next (s.regStore acc false (if tail then Reg.dlPtr p else Reg.dlRing p) v)

/-- GC_CTL_WRITE: R134. -/
def execGcCtlWrite (acc : Accessor) (p : Parish) (v : BitVec 64) (s : State) : Host.Outcome State Fault Refusal :=
  .next (s.regStore acc false (Reg.gcCtl p) v)

/-- GC_ZONE_WRITE: R133. -/
def execGcZoneWrite (acc : Accessor) (p : Parish) (v : BitVec 64) (s : State) : Host.Outcome State Fault Refusal :=
  .next (s.regStore acc false (Reg.gcZone p) v)

/-- GC_CLOG_WRITE: R133. -/
def execGcClogWrite (acc : Accessor) (p : Parish) (v : BitVec 64) (s : State) : Host.Outcome State Fault Refusal :=
  .next (s.regStore acc false (Reg.gcClog p) v)

/-- GC_CLOGP_TAIL_WRITE: R133. -/
def execGcClogpTailWrite (acc : Accessor) (p : Parish) (v : BitVec 64) (s : State) :
    Host.Outcome State Fault Refusal := .next (s.regStore acc false (Reg.gcClogp p) v)

/-- TAT_STORE: R35, R36: only through the tag-table capability. -/
def execTatStore (acc : Accessor) (t : BitVec 8) (v : BitVec 64) (s : State) : Host.Outcome State Fault Refusal :=
  .next (s.regStore acc acc.tags (Reg.tat t.toNat) v)

/-- EV_ROUTE_WRITE: R490. -/
def execEvRouteWrite (acc : Accessor) (i : Fin 384) (v : BitVec 64) (s : State) : Host.Outcome State Fault Refusal :=
  .next (s.regStore acc false (Reg.evRoute i) v)

/-- EV_PEND_CLEAR: R491. -/
def execEvPendClear (acc : Accessor) (k : Fin 6) (v : BitVec 64) (s : State) : Host.Outcome State Fault Refusal :=
  .next (s.regStore acc false (Reg.evPend k) v)

/-- EV_DOOR: R492. -/
def execEvDoor (acc : Accessor) (p : Parish) (v : BitVec 64) (s : State) : Host.Outcome State Fault Refusal :=
  .next (s.regStore acc false (Reg.evDoor p) v)

/-- FC_STAT_CLEAR: R482. -/
def execFcStatClear (acc : Accessor) (v : BitVec 64) (s : State) : Host.Outcome State Fault Refusal :=
  .next (s.regStore acc false Reg.fcStat v)

/-- SWITCH: R465. -/
def execSwitch (acc : Accessor) (s : State) : Host.Outcome State Fault Refusal :=
  .next (s.regStore acc false Reg.pairCmd 1#64)

/-- CCTL_EN: R247: a write of CCTL without UNLK. -/
def execCctlEn (acc : Accessor) (p : PCore) (v : BitVec 64) (s : State) : Host.Outcome State Fault Refusal :=
  .next (s.regStore acc false (Reg.cctl p) (v &&& ~~~8#64))

/-- CCTL_UNLK: R240: a write of UNLK with the other fields as they stand. -/
def execCctlUnlk (acc : Accessor) (p : PCore) (s : State) : Host.Outcome State Fault Refusal :=
  .next (s.regStore acc false (Reg.cctl p) (putBit (s.reg (Reg.cctl p)) 3 true))

/-- REGISTER_WRITE: R9. -/
def execRegisterWrite (acc : Accessor) (off : BitVec 28) (v : BitVec 64) (s : State) :
    Host.Outcome State Fault Refusal :=
  .next (s.regStore acc acc.tags off.toNat v)

/-- CACHE_SWEEP_DONE: R248. -/
def execCacheSweepDone (p : PCore) (s : State) : Host.Outcome State Fault Refusal := .next (s.whole (fun s => s.sweepDone p))

end Sys2Proof.Machine
end

