-- ==== Sys2Proof/Machine/Generic.lean ====
section
/-! DEFINITION. Generic dispatch (R117-R121): the fast paths, the vendor pair rule, GEN and customer microcode. -/

namespace Sys2Proof.Machine

/-- R120: the generic instructions by OPN. -/
inductive GOp where
  | add | sub | mul | div | rem | cmp | neg
deriving DecidableEq, Repr

def GOp.opn : GOp → Nat
  | .add => 0
  | .sub => 1
  | .mul => 2
  | .div => 3
  | .rem => 4
  | .cmp => 5
  | .neg => 6

/-! ### The results of an operation -/

/-- What a generic instruction leaves: A, A and Y by the divider, or a comparison. -/
inductive GResult where
  | a (w : Word)
  | divided (a : Word) (y : Option Word)
  | cmp (c : FCmp)
deriving DecidableEq, Repr

/-- R98, R102, R103: two integers. -/
def intOp (g : GOp) (a b : Int) : Except Exc GResult :=
  let fits (i : Int) (k : Word → GResult) : Except Exc GResult :=
    if -(2 ^ 63) ≤ i ∧ i < 2 ^ 63 then .ok (k (Word.fix (BitVec.ofInt 64 i))) else .error { vec := vOvf }
  match g with
  | .add => fits (a + b) .a
  | .sub => fits (a - b) .a
  | .mul => fits (a * b) .a
  | .neg => fits (-a) .a
  | .div =>
    if b = 0 then .error { vec := vDz }
    else fits (a.tdiv b) (fun q => .divided q (some (Word.fix (BitVec.ofInt 64 (a.tmod b)))))
  | .rem =>
    if b = 0 then .error { vec := vDz }
    else .ok (.divided (Word.fix (BitVec.ofInt 64 (a.tmod b))) none)
  | .cmp => .ok (.cmp (cmpInt a b))

/-- R110, R111, R113: two binary64 values: the result and the flags. -/
def fltOp (c : FCtx) (g : GOp) (a b : BitVec 64) : GResult × Nat :=
  let r (o : FOut) : GResult × Nat := (.a (Word.flt o.val), o.flags)
  match g with
  | .add => r (c.add false a b)
  | .sub => r (c.add true a b)
  | .mul => r (c.mul a b)
  | .div => (.divided (Word.flt (c.div a b).val) none, (c.div a b).flags)
  | .rem => (.divided (Word.flt (c.rem a b).val) none, (c.rem a b).flags)
  | .cmp => (.cmp (c.cmp a b).1, (c.cmp a b).2)
  | .neg => (.a (Word.flt (a ^^^ 0x8000000000000000#64)), 0)

/-- R118: one integer and one binary64 operand; `ai` where A is the integer. -/
def mixedOp (c : FCtx) (g : GOp) (ai : Bool) (a b : BitVec 64) : GResult × Nat :=
  match g with
  | .cmp =>
    if ai then (.cmp (cmpMixed a.toInt b).1, (cmpMixed a.toInt b).2)
    else (.cmp (cmpMixed b.toInt a).1.swap, (cmpMixed b.toInt a).2)
  | g =>
    let i := c.ofInt (if ai then a.toInt else b.toInt)
    let (r, f) := if ai then fltOp c g i.val b else fltOp c g a i.val
    (r, f ||| i.flags)

/-- The result is written and the instruction retires. -/
def finishGeneric (n : Nat) (h : Option Heal) (r : GResult) (flags : Nat) : M Unit := do
  match r with
  | .a w => setA n w
  | .divided a y => divResult n a y
  | .cmp c => modCur n (fun b => b.setCmp c)
  if flags ≠ 0 then act (fun s => s.fpFlags n flags)
  healM n h
  retireM n

/-! ### Dispatch (R117-R120) -/

/-- R31, R33: ARITH, DKIND and DTGT of a tag attribute entry. -/
def tatArith (e : Reg64) : Nat := bits e 4 3
def tatDkind (e : Reg64) : Nat := bits e 8 2
def tatDtgt (e : Reg64) : Nat := bits e 12 12

/-- R120: the dispatch descriptor. -/
def descriptor (g : GOp) (a b : Word) (e : Reg64) (side : Nat) : Word :=
  let tb := if g = .neg then 0 else b.tag.toNat
  Word.fixNat (tatDtgt e * 2 ^ 24 + tb * 2 ^ 16 + a.tag.toNat * 2 ^ 8 + side * 2 ^ 4 + g.opn)

/-- R120: GEN. -/
def raiseGen (g : GOp) (a b : Word) (e : Reg64) (side : Nat) : M Unit :=
  raiseExc { vec := vGen, a := if g = .neg then Word.raw0 else b, x := some (descriptor g a b e side) }

/-- R200: the engine's values at entry to the customer region. -/
def enterRoutine (bank : Bank) (g : GOp) (a b : Word) (ea eb e : Reg64) (side : Nat) (h : Option Heal) : MRun :=
  { upc := (0x3000 + tatDtgt e) % 2 ^ 14,
    u := [a, if g = .neg then Word.raw0 else b, descriptor g a b e side] ++ List.replicate 5 Word.raw0,
    cond := 0, a0 := bank.a, x0 := bank.x, y0 := bank.y, a := none, x := none, y := none, preds := [],
    stores := [], heals := h.toList, since := 0, entries := [(a.tag, ea), (b.tag, eb)] }

/-- R202: the routine as a valid record left it. DESIGN CHOICE (log 68): a heal that was due when the record was written
is not made, as the record of R201 holds none. DESIGN CHOICE (log 89): nor does it hold a count of microwords. -/
def resumeRoutine (bank : Bank) (m : MicroSave) : MRun :=
  { upc := m.upc.toNat, u := m.u, cond := m.cond, a0 := bank.a, x0 := bank.x, y0 := bank.y,
    a := none, x := none, y := none, preds := [], stores := [], heals := [], since := 0, entries := m.entries }

/-- R118: what the vendor pair rule gives. -/
def vendorResult (n : Nat) (g : GOp) (a b : Word) (ea eb : Reg64) (h : Option Heal) : M Unit := do
  let ka := tatArith ea
  let kb := tatArith eb
  let c := (← get).fpCtx n
  if ka = 1 ∧ kb = 1 then
    let r ← liftE (intOp g a.int b.int)
    finishGeneric n h r 0
  else if ka = 2 ∧ kb = 2 then finishGeneric n h (fltOp c g a.val b.val).1 (fltOp c g a.val b.val).2
  else if (ka = 1 ∧ kb = 2) ∨ (ka = 2 ∧ kb = 1) then
    finishGeneric n h (mixedOp c g (ka == 1) a.val b.val).1 (mixedOp c g (ka == 1) a.val b.val).2
  else if ka = 3 then raiseGen g a b ea 0
  else if kb = 3 then raiseGen g a b eb 1
  else if ka = 4 ∨ kb = 4 then raiseExc { vec := vTagf }
  else if g = .cmp then finishGeneric n h (.cmp (if a = b then .eq else .un)) 0
  else raiseExc { vec := vTagf }

/-- R118, R201: the vendor pair rule, which runs as a vendor routine: a fault leaves a record of both operands and the
entries sampled; the GEN of a multi-word operand leaves none, since its instruction dispatches afresh (R121). -/
def vendorPair (n : Nat) (g : GOp) (a b : Word) (ea eb : Reg64) (h : Option Heal) : M Unit :=
  if tatArith ea = 3 ∨ tatArith eb = 3 then vendorResult n g a b ea eb h
  else
    trapping n { upc := 0, u := [a, b] ++ List.replicate 6 Word.raw0, cond := 0, a0 := a, x0 := a, y0 := a,
                 a := none, x := none, y := none, preds := [], stores := [], heals := [], since := 0,
                 entries := [(a.tag, ea), (b.tag, eb)] }
      (vendorResult n g a b ea eb h)

/-- R202: the vendor pair rule goes on from its record. -/
def resumePair (n : Nat) (g : GOp) (m : MicroSave) : M Unit := do
  let a := m.u.getD 0 Word.raw0
  let b := m.u.getD 1 Word.raw0
  let s ← get
  let e (w : Word) : Reg64 := RunCtx.entry { entries := m.entries } s w.tag
  vendorPair n g a b (e a) (e b) none

/-- R117, under the tag entries sampled. -/
def dispatch (n bank : Nat) (g : GOp) (a b : Word) (h : Option Heal) (x : RunCtx := {}) : M Unit := do
  let s ← get
  let ea := x.entry s a.tag
  let eb := x.entry s b.tag
  let target (e : Reg64) (side : Nat) : M Unit :=
    if tatDkind e = 1 then runRoutine n bank (enterRoutine (s.cur n) g a b ea eb e side h)
    else raiseGen g a b e side
  if a.isFix && b.isFix then
    let r ← liftE (intOp g a.int b.int)
    finishGeneric n h r 0
  else if a.isFlt && b.isFlt then
    finishGeneric n h (fltOp (s.fpCtx n) g a.val b.val).1 (fltOp (s.fpCtx n) g a.val b.val).2
  else if tatDkind ea ≠ 0 then target ea 0
  else if tatDkind eb ≠ 0 then target eb 1
  else vendorPair n g a b ea eb h

/-- A generic instruction: its routine goes on, is resumed under R202, or its operand is read and dispatched; under the
recorded entries where its record is that of a vendor routine that had no operand yet (log 18). -/
def genericM (n bank : Nat) (g : GOp) (operand : M (Word × Option Heal)) : M Unit := do
  settleM n
  let s ← get
  let c := s.core n
  let m := c.save c.curId
  match c.routine with
  | some r => runRoutine n bank r
  | none =>
    let resumed := m.valid && m.pc == (s.cur n).pc
    if resumed && decide (0x3000 ≤ m.upc.toNat) then runRoutine n bank (resumeRoutine (s.cur n) m)
    else if resumed && !m.u.isEmpty then resumePair n g m
    else
      let (b, h) ← operand
      dispatch n bank g (← getCur n).a b h { entries := if resumed then m.entries else [] }

/-- R116: a generic instruction counts as an FP instruction when it executes on two FLT operands. -/
def fpPair (n : Nat) (g : Guard) (operand : M (Word × Option Heal)) (s : State) : Bool :=
  (s.cur n).guardOk g && (s.settleDiv n |>.cur n).a.isFlt &&
    (match operand (s.settleDiv n) with
     | .ok (w, _) _ => w.isFlt
     | .error _ _ => false)

end Sys2Proof.Machine
end

