-- ==== Sys2Proof/Machine/CoreArith.lean ====
section
/-! DEFINITION. Arithmetic, logic, shifts, comparison and conversion (R73-R78, R88, R98-R118). -/

namespace Sys2Proof.Machine

/-- The instruction does not count as an FP instruction for R116. -/
def notFp : State → Bool := fun _ => false

/-- R116: counts whether or not its guard executes. -/
def alwaysFp : State → Bool := fun _ => true

/-! ### The shapes -/

/-- A generic instruction with an operand (R80, R117). -/
def State.generic (s : State) (n : Nat) (o : PForm) (g : GOp) : State :=
  s.instr n (fpPair n o.guard (operandBar n o)) (fun _ => illP o .wi) o.guard
    (genericM n o.bank.toNat g (operandBar n o))

/-- R75: a modular or logical instruction on A and op. -/
def State.modular (s : State) (n : Nat) (o : PForm) (f : BitVec 64 → BitVec 64 → BitVec 64) : State :=
  s.instr n notFp (fun _ => illP o .wi) o.guard do
    settleM n
    let op ← operand n o
    let a := (← getCur n).a
    let t ← modTag a op
    setA n ⟨t, f a.val op.val⟩
    retireM n

/-- R75, R104: a shift of A by op. -/
def State.shift (s : State) (n : Nat) (o : PForm) (f : Word → Int → Except Exc Word) : State :=
  s.instr n notFp (fun _ => illP o .wi) o.guard do
    settleM n
    let op ← operand n o
    let a := (← getCur n).a
    if !a.isFixRaw || !op.isFix then raiseExc { vec := vTagf }
    setA n (← liftE (f a op.int))
    retireM n

/-- R75: NEGM and NOT. -/
def State.unary (s : State) (n : Nat) (o : XNForm) (f : BitVec 64 → BitVec 64) : State :=
  s.instr n notFp (fun _ => illXN o) o.guard do
    settleM n
    let a := (← getCur n).a
    if !a.isFixRaw then raiseExc { vec := vTagf }
    setA n ⟨a.tag, f a.val⟩
    retireM n

/-- An FP result: the value and its flags (R115). -/
def fpResult (n : Nat) (w : Word) (flags : Nat) : M Unit := do
  setA n w
  act (fun s => s.fpFlags n flags)
  retireM n

/-! ### Generic arithmetic -/

/-- ADD: R73, R98, R110, R117. -/
def execAdd (n : LCore) (o : PForm) (s : State) : Host.Outcome State Fault Refusal := .next (s.generic n o .add)

/-- SUB: R73, R98, R110, R117. -/
def execSub (n : LCore) (o : PForm) (s : State) : Host.Outcome State Fault Refusal := .next (s.generic n o .sub)

/-- MUL: R73, R98, R100, R111, R117. -/
def execMul (n : LCore) (o : PForm) (s : State) : Host.Outcome State Fault Refusal := .next (s.generic n o .mul)

/-- DIV: R73, R76, R102, R111, R117. -/
def execDiv (n : LCore) (o : PForm) (s : State) : Host.Outcome State Fault Refusal := .next (s.generic n o .div)

/-- REM: R73, R101, R102, R111, R117. -/
def execRem (n : LCore) (o : PForm) (s : State) : Host.Outcome State Fault Refusal := .next (s.generic n o .rem)

/-- CMP: R77, R78, R103, R113, R117. -/
def execCmp (n : LCore) (o : PForm) (s : State) : Host.Outcome State Fault Refusal := .next (s.generic n o .cmp)

/-- NEG: R74, R98, R113, R117 (b stands for a). -/
def execNeg (n : LCore) (o : XNForm) (s : State) : Host.Outcome State Fault Refusal :=
  let a : M (Word × Option Heal) := do return ((← getCur n).a, none)
  .next (s.instr n (fpPair n o.guard a) (fun _ => illXN o) o.guard (genericM n 0 .neg a))

/-! ### Modular and logical -/

/-- ADDM: R75, R98. -/
def execAddm (n : LCore) (o : PForm) (s : State) : Host.Outcome State Fault Refusal := .next (s.modular n o (· + ·))

/-- SUBM: R75, R98. -/
def execSubm (n : LCore) (o : PForm) (s : State) : Host.Outcome State Fault Refusal := .next (s.modular n o (· - ·))

/-- MULM: R75, R100. -/
def execMulm (n : LCore) (o : PForm) (s : State) : Host.Outcome State Fault Refusal := .next (s.modular n o (· * ·))

/-- DIVM: R75, R76, R102: both payloads signed; the remainder is always FIX. -/
def execDivm (n : LCore) (o : PForm) (s : State) : Host.Outcome State Fault Refusal :=
  .next (s.instr n notFp (fun _ => illP o .wi) o.guard do
    settleM n
    let op ← operand n o
    let a := (← getCur n).a
    let t ← modTag a op
    if op.val = 0#64 then raiseExc { vec := vDz }
    divResult n ⟨t, BitVec.ofInt 64 (a.int.tdiv op.int)⟩ (some (Word.fix (BitVec.ofInt 64 (a.int.tmod op.int))))
    retireM n)

/-- AND: R75. -/
def execAnd (n : LCore) (o : PForm) (s : State) : Host.Outcome State Fault Refusal := .next (s.modular n o (· &&& ·))

/-- OR: R75. -/
def execOr (n : LCore) (o : PForm) (s : State) : Host.Outcome State Fault Refusal := .next (s.modular n o (· ||| ·))

/-- XOR: R75. -/
def execXor (n : LCore) (o : PForm) (s : State) : Host.Outcome State Fault Refusal := .next (s.modular n o (· ^^^ ·))

/-- NEGM: R75, R98. -/
def execNegm (n : LCore) (o : XNForm) (s : State) : Host.Outcome State Fault Refusal := .next (s.unary n o (fun v => -v))

/-- NOT: R75. -/
def execNot (n : LCore) (o : XNForm) (s : State) : Host.Outcome State Fault Refusal := .next (s.unary n o (fun v => ~~~v))

/-! ### Shifts -/

/-- SHL: R104. -/
def execShl (n : LCore) (o : PForm) (s : State) : Host.Outcome State Fault Refusal := .next (s.shift n o shlWord)

/-- SHR: R104. -/
def execShr (n : LCore) (o : PForm) (s : State) : Host.Outcome State Fault Refusal := .next (s.shift n o shrWord)

/-- SAR: R104. -/
def execSar (n : LCore) (o : PForm) (s : State) : Host.Outcome State Fault Refusal := .next (s.shift n o sarWord)

/-- ROL: R104. -/
def execRol (n : LCore) (o : PForm) (s : State) : Host.Outcome State Fault Refusal := .next (s.shift n o rolWord)

/-! ### Binary64 -/

/-- FMA: R73, R108, R111: both words are checked together as 16 bytes. -/
def execFma (n : LCore) (o : PForm) (s : State) : Host.Outcome State Fault Refusal :=
  .next (s.instr n alwaysFp (fun _ => illP o .w) o.guard do
    settleM n
    let b ← getCur n
    let t ← siteP n o 16 1 1 .noDev
    let w1 ← readM n t.region t.pa
    frameCount n o.bank.toNat t o.off.toNat (b.index o.mode)
    consume n 1 t.addr t.pa w1
    let (r2, pa2) := (← get).translate ((← get).parishOf n) (t.addr + 8)
    let w2 ← readM n r2 pa2
    consume n 1 (t.addr + 8) pa2 w2
    let a := (← getCur n).a
    if !(a.isFlt && w1.isFlt && w2.isFlt) then raiseExc { vec := vTagf }
    let r := ((← get).fpCtx n).fma a.val w1.val w2.val
    fpResult n (Word.flt r.val) r.flags)

/-- FSQRT: R74, R109, R111. -/
def execFsqrt (n : LCore) (o : XNForm) (s : State) : Host.Outcome State Fault Refusal :=
  .next (s.instr n alwaysFp (fun _ => illXN o) o.guard do
    settleM n
    let a := (← getCur n).a
    if !a.isFlt then raiseExc { vec := vTagf }
    let r := ((← get).fpCtx n).sqrt a.val
    fpResult n (Word.flt r.val) r.flags)

/-- FCVT: R88, R112. -/
def execFcvt (n : LCore) (o : XRForm) (s : State) : Host.Outcome State Fault Refusal :=
  .next (s.instr n alwaysFp (fun _ => illXR o 8 false) o.guard do
    if 3 < o.sel.toNat then raiseIll
    settleM n
    let a := (← getCur n).a
    let c := (← get).fpCtx n
    if o.sel = 0#8 then
      if !a.isFix then raiseExc { vec := vTagf }
      fpResult n (Word.flt (c.ofInt a.int).val) (c.ofInt a.int).flags
    else
      if !a.isFlt then raiseExc { vec := vTagf }
      if o.sel = 3#8 then fpResult n (Word.flt (c.integral a.val).val) (c.integral a.val).flags
      else
        let rm := if o.sel = 1#8 then c.rm else 1
        fpResult n (Word.fix (c.toInt rm a.val).val) (c.toInt rm a.val).flags)

/-- FSYNC: R74, R116: a pending FPX is delivered at the boundary before it; the divider completes. -/
def execFsync (n : LCore) (o : XNForm) (s : State) : Host.Outcome State Fault Refusal :=
  .next (s.instr n alwaysFp (fun _ => illXN o) o.guard do
    settleM n
    retireM n)

/-- DIVIDE_DONE: R76, R101: the divider's results reach A and Y. -/
def execDivideDone (n : LCore) (s : State) : Host.Outcome State Fault Refusal := .next (s.settleDiv n)

/-- TTST: R74, R77. -/
def execTtst (n : LCore) (o : XRForm) (s : State) : Host.Outcome State Fault Refusal :=
  .next (s.instr n notFp (fun _ => illXR o 8 false) o.guard do
    settleM n
    let a := (← getCur n).a
    setPredM n 5 (a.tag == o.sel)
    retireM n)

end Sys2Proof.Machine
end

