-- ==== Sys2Proof/Machine/CoreControl.lean ====
section
/-! DEFINITION. Control transfers, the hardware loop, register moves, and IDLE (R57-R71, R86, R89, R179). -/

namespace Sys2Proof.Machine

/-! ### Branches -/

/-- R57: the displacement of BR and BRL in instructions. -/
def branchTarget (b : Bank) (o : PForm) : Int := (b.pc.toNat : Int) + 4 * (o.off.toInt + b.index o.mode)

/-- R57, R521: a taken BR or BRL. -/
def branchTo (n : Nat) (o : PForm) (link : Bool) : M Unit := do
  settleM n
  let b ← getCur n
  let t ← checkTarget n (branchTarget b o)
  if link then modCur n (fun b => { b with y := Word.fixNat (b.pc.toNat + 4) })
  act (fun s => s.branchBit n true)
  if o.mode ≠ 0#2 then act (fun s => s.target n 0 0 t)
  act (fun s => s.retireTo n b.pcCap t)

/-- BR: R57, R58. -/
def execBr (n : LCore) (o : PForm) (s : State) : Host.Outcome State Fault Refusal :=
  .next (s.instr n notFp (fun _ => illBranch o) o.guard (branchTo n o false) (fun s => s.branchBit n false))

/-- BRL: R57, R86. -/
def execBrl (n : LCore) (o : PForm) (s : State) : Host.Outcome State Fault Refusal :=
  .next (s.instr n notFp (fun _ => illBranch o) o.guard (branchTo n o true) (fun s => s.branchBit n false))

/-- RET: R86. -/
def execRet (n : LCore) (o : XNForm) (s : State) : Host.Outcome State Fault Refusal :=
  .next (s.instr n notFp (fun _ => illXN o) o.guard do
    settleM n
    let b ← getCur n
    if b.y.val.toNat % 4 ≠ 0 then raiseExc { vec := vAlgn, ea := some b.y.int }
    let t ← checkTarget n b.y.int
    act (fun s => (s.target n 1 0 t).retireTo n b.pcCap t))

/-- LPB: R69. -/
def execLpb (n : LCore) (o : PForm) (s : State) : Host.Outcome State Fault Refusal :=
  .next (s.instr n notFp (fun _ => illLoop o) o.guard do
    settleM n
    let s ← get
    let b := s.cur n
    let e := s.capEntry (s.parishOf n) (capIndex b.pcCap)
    let last := b.pc.toNat + 4 * o.off.toNat
    let loopf : M Unit := raiseExc { vec := vLoopf }
    if b.lc ≠ 0 then loopf
    if !b.a.isFix || decide (b.a.int < 0) then loopf
    if o.off = 0 then loopf
    if last < e.lo ∨ e.lo + e.len < last + 4 then loopf
    modCur n (fun b => { b with ls := b.pc + 4, le := BitVec.ofNat 48 last, lc := b.a.val })
    act (fun s => s.retireTo n b.pcCap (if b.a.val = 0 then last + 4 else b.pc.toNat + 4)))

/-! ### CRD and CWR (R68) -/

/-- R68: the selectors of CRD. -/
def crdListed (sel : Nat) : Bool := decide (sel ≤ 0x0B ∨ (0x10 ≤ sel ∧ sel ≤ 0x17))

/-- R68: the selectors CWR writes. -/
def cwrListed (sel : Nat) : Bool := crdListed sel && sel != 8

/-- R68: what CRD gives. -/
def Core.crd (c : Core) (sel : Nat) : Word :=
  let b := c.cur
  match sel with
  | 0 => Word.fix c.stWord
  | 1 => Word.fix c.fpsr
  | 2 => Word.fix b.lc
  | 3 => Word.fixNat b.ls.toNat
  | 4 => Word.fixNat b.le.toNat
  | 5 => Word.fixNat c.ac.toNat
  | 6 => Word.fixNat c.al.toNat
  | 7 => c.vb
  | 8 => Word.fixNat b.pc.toNat
  | 9 => Word.fixNat (b.p.toNat / 2 * 2 + 1)
  | 10 => b.x
  | 11 => b.y
  | k => b.breg (k - 0x10)

/-- R65, R66: ST after a CWR of `v`; `ctl` where the bank named holds core-control. -/
def stWrite (old v : BitVec 64) (ctl : Bool) : BitVec 64 :=
  let mask : BitVec 64 := 0x0000FFFFFFFF0008#64 ||| (if ctl then 0x31#64 else 0#64)
  (old &&& ~~~mask) ||| (v &&& mask)

/-- R67: the writable bits of FPSR. -/
def fpsrMask : BitVec 64 := 0x31F1F#64

/-- R65: OTYPE 0x0001 or 0x0002 (R158). -/
def coreControl : List Nat := [1, 2]

/-- R68: A's word into the register. -/
def cwrM (n bank sel : Nat) : M Unit := do
  let s ← get
  let p := s.parishOf n
  let w := (s.cur n).a
  let setCore (f : Core → Core) : M Unit := act (fun s => s.setCore n (f (s.core n)))
  let needFix : M Unit := if w.isFix then pure () else raiseExc { vec := vTagf }
  if 0x10 ≤ sel then
    if !(w.isCap || w == Word.raw0) then raiseExc { vec := vCapf, detail := 0x01 }
    modCur n (fun b => b.setBreg (sel - 0x10) w)
  else if sel = 7 then
    if !w.isCap then raiseExc { vec := vTagf }
    if !s.capCurrent p w then raiseExc { vec := vCapf, detail := 0x02 }
    if capKind w ≠ 1 then raiseExc { vec := vCapf, detail := 0x03 }
    setCore (fun c => { c with vb := w })
  else
    needFix
    match sel with
    | 0 => modCur n (fun b => { b with st := stWrite b.st w.val (s.authority p (b.breg bank) coreControl) })
    | 1 => setCore (fun c => { c with fpsr := w.val &&& fpsrMask })
    | 2 =>
      if w.int < 0 then raiseExc { vec := vLoopf }
      modCur n (fun b => { b with lc := w.val })
    | 3 => modCur n (fun b => { b with ls := w.val.truncate 48 &&& ~~~3#48 })
    | 4 => modCur n (fun b => { b with le := w.val.truncate 48 &&& ~~~3#48 })
    | 5 => setCore (fun c => { c with ac := w.val.truncate 48 &&& ~~~7#48 })
    | 6 => setCore (fun c => { c with al := w.val.truncate 48 &&& ~~~7#48 })
    | 9 => modCur n (fun b => { b with p := (w.val.truncate 8 &&& 0xFE#8) ||| 1#8 })
    | 10 => modCur n (fun b => { b with x := w })
    | _ => modCur n (fun b => { b with y := w })

/-- CRD: R68. -/
def execCrd (n : LCore) (o : XRForm) (s : State) : Host.Outcome State Fault Refusal :=
  .next (s.instr n (fun _ => o.sel == 1#8) (fun _ => illXR o 8 false) o.guard do
    if !crdListed o.sel.toNat then raiseIll
    settleM n
    let w := ((← get).core n).crd o.sel.toNat
    setA n w
    retireM n)

/-- CWR: R66, R68. -/
def execCwr (n : LCore) (o : XRForm) (s : State) : Host.Outcome State Fault Refusal :=
  .next (s.instr n (fun _ => o.sel == 1#8) (fun _ => illXR o 8 true) o.guard do
    if !cwrListed o.sel.toNat then raiseIll
    settleM n
    cwrM n o.bank.toNat o.sel.toNat
    retireM n)

/-! ### IDLE (R89) -/

/-- R89: an interrupt routed to the core, or a deferrable MCHK, is pending. -/
def State.wakes (s : State) (n : Nat) : Bool := (s.irq n).isSome || (s.core n).mchk.isSome

/-- IDLE: R89, R287. -/
def execIdle (n : LCore) (o : XNForm) (s : State) : Host.Outcome State Fault Refusal :=
  .next (s.instr n notFp (fun _ => illXN o) o.guard do
    act (fun s => s.setCore n { s.core n with resv := none })
    if (← get).wakes n then retireM n
    else act (fun s => s.setCore n { s.core n with run := .idle }))

/-- IDLE_WAKE: R89: a waiting IDLE retires when an event is pending. -/
def execIdleWake (n : LCore) (s : State) : Host.Outcome State Fault Refusal :=
  .next (if (s.core n).run = .idle ∧ s.stop = .running ∧ s.wakes n then
      (s.setCore n { s.core n with run := .running }).retire n
    else s)

/-- BOUNDARY_EVENT_TAKE: R116, R175, R179: the first event that applies at this boundary is taken. -/
def execBoundaryEventTake (n : LCore) (nextIsFp : Bool) (s : State) : Host.Outcome State Fault Refusal :=
  .next (s.whole (fun s =>
    if s.runnable n then
      match s.boundary n nextIsFp with
      | some e => s.takeEvent n e
      | none => s
    else s))

/-- MICROWORD_LIMIT: R199: the 65,537th microword raises UCODE 0xFF02. -/
def execMicrowordLimit (n : LCore) (s : State) : Host.Outcome State Fault Refusal :=
  .next (s.whole (fun s =>
    if (s.core n).atLimit ∧ (s.core n).run = .running ∧ s.stop = .running then
      let s := s.setCore n { s.core n with atLimit := false }
      State.faultAt s s n { vec := vUcode, detail := 0xFF02 }
    else s))

end Sys2Proof.Machine
end

