-- ==== Sys2Proof/Machine/CoreCap.lean ====
section
/-! DEFINITION. Deriving, sealing, revoking and calling through capabilities; saving, re-arming and returning from
exceptions (R159-R166, R181-R184). -/

namespace Sys2Proof.Machine

def capf {α : Type} (detail : Nat) : M α := raiseExc { vec := vCapf, detail := detail }

/-- R573: a word that must be a current CAP word. -/
def needCurrent (n p : Nat) (w : Word) : M Unit := do
  act (fun s => s.tableMeet p w (s.coreWho n 1))
  let s ← get
  if !w.isCap then capf 0x01
  if !s.capCurrent p w then capf 0x02

/-- R160: an entry, or CAPF 0x06 with CAPT_STAT.FULL. -/
def allocM (p : Nat) : M Nat := do
  match ← actGet (fun s => s.capAlloc p) with
  | some ix => return ix
  | none => capf 0x06

/-- The master ID of the core, for the table's home writes (R476). -/
def State.coreMaster (s : State) (n : Nat) : Nat := masterId 0 (s.physOf n)

/-- R146: the flags of an entry. -/
def capFlags (rvkok : Bool) (skind : Nat) (ret : Bool) : Nat := 1 + 2 * rvkok.toNat + 8 * (skind % 2) + 16 * ret.toNat

/-! ### CDER, CSEAL, CUNS, CREV -/

/-- CDER: R159. -/
def cderM (n bank dst : Nat) : M Unit := do
  settleM n
  let s ← get
  let p := s.parishOf n
  let b := s.cur n
  if !b.a.isFix then raiseExc { vec := vTagf }
  let src := b.breg bank
  needCurrent n p src
  if capKind src = 2 then capf 0x03
  let es := s.capEntry p (capIndex src)
  let q := b.a.val
  let kind := bits q 54 2
  let len := bits q 0 24
  let u := 8 * 2 ^ bits q 48 5
  let nb := es.lo + bits q 24 24 * u
  let nl := len * u
  if kind = 2 ∨ len = 0 then capf 0x08
  if kind = 1 ∧ capKind src ≠ 1 then capf 0x08
  if kind = 3 ∧ capKind src ≠ 3 then capf 0x08
  if es.lo + es.len < nb + nl then capf 0x08
  let ix ← allocM p
  let gen := ((← get).capEntry p ix).gen
  let perm := bits q 56 8 &&& effPerm src es
  act (fun s => s.setCapEntry p ix (s.coreMaster n)
    { base := BitVec.ofNat 64 nb, length := BitVec.ofNat 64 nl,
      info := entryMeta (capFlags (bit q 53) 0 false) gen (if kind = 3 then es.otype else 0) perm, word3 := 0 })
  modCur n (fun b => b.setBreg dst (capWord kind perm gen ix))
  retireM n

/-- R161: the sealing capability's seal type. -/
def sealType (n p : Nat) (w : Word) : M Nat := do
  needCurrent n p w
  let s ← get
  let e := s.capEntry p (capIndex w)
  if capKind w ≠ 0 ∧ capKind w ≠ 3 then capf 0x03
  if !hasPerm (effPerm w e) pSeal then capf 0x05
  if e.lo < 1 ∨ 0xFFFE < e.lo then capf 0x07
  return e.lo

/-- CSEAL: R161. -/
def csealM (n bank dst : Nat) : M Unit := do
  let s ← get
  let p := s.parishOf n
  let t ← sealType n p ((s.cur n).breg bank)
  let w := (s.cur n).breg dst
  needCurrent n p w
  if 1 < capKind w then capf 0x03
  let e := s.capEntry p (capIndex w)
  let ix ← allocM p
  let gen := ((← get).capEntry p ix).gen
  act (fun s => s.setCapEntry p ix (s.coreMaster n)
    { base := e.base, length := e.length, info := entryMeta (capFlags e.rvkok (capKind w) false) gen t e.perm,
      word3 := 0 })
  modCur n (fun b => b.setBreg dst (capWord 2 (capPerm w) gen ix))
  retireM n

/-- CUNS: R161. -/
def cunsM (n bank dst : Nat) : M Unit := do
  let s ← get
  let p := s.parishOf n
  let t ← sealType n p ((s.cur n).breg bank)
  let w := (s.cur n).breg dst
  needCurrent n p w
  if capKind w ≠ 2 then capf 0x03
  let e := s.capEntry p (capIndex w)
  if e.otype ≠ t ∨ e.isReturn then capf 0x07
  modCur n (fun b => b.setBreg dst (withKind w e.skind))
  retireM n

/-- CREV: R162. -/
def crevM (n bank : Nat) : M Unit := do
  let s ← get
  let p := s.parishOf n
  let w := (s.cur n).breg bank
  needCurrent n p w
  if !(s.capEntry p (capIndex w)).rvkok then capf 0x0A
  act (fun s => s.capRelease p (capIndex w) (s.coreMaster n))
  retireM n

/-- CDER. -/
def execCder (n : LCore) (o : XRForm) (s : State) : Host.Outcome State Fault Refusal :=
  .next (s.instr n notFp (fun _ => illXR o 3 true) o.guard (vendorM n (fun _ => cderM n o.bank.toNat o.sel.toNat)))

/-- CSEAL. -/
def execCseal (n : LCore) (o : XRForm) (s : State) : Host.Outcome State Fault Refusal :=
  .next (s.instr n notFp (fun _ => illXR o 3 true) o.guard (vendorM n (fun _ => csealM n o.bank.toNat o.sel.toNat)))

/-- CUNS. -/
def execCuns (n : LCore) (o : XRForm) (s : State) : Host.Outcome State Fault Refusal :=
  .next (s.instr n notFp (fun _ => illXR o 3 true) o.guard (vendorM n (fun _ => cunsM n o.bank.toNat o.sel.toNat)))

/-- CREV. -/
def execCrev (n : LCore) (o : XRForm) (s : State) : Host.Outcome State Fault Refusal :=
  .next (s.instr n notFp (fun _ => illXR o 0 true) o.guard (vendorM n (fun _ => crevM n o.bank.toNat)))

/-! ### CCALL and CRET (R165, R166) -/

/-- CCALL: R165. DESIGN CHOICE (log 73): an entry BASE that is no multiple of 4 is entered as it stands (R47). -/
def ccallM (n bank : Nat) : M Unit := do
  let s ← get
  let p := s.parishOf n
  let b := s.cur n
  let c := b.breg bank
  needCurrent n p c
  let e := s.capEntry p (capIndex c)
  if capKind c ≠ 2 ∨ e.skind ≠ 1 ∨ e.isReturn then capf 0x03
  if !hasPerm (capPerm c &&& e.perm) pX then capf 0x05
  if e.len < 4 then capf 0x04
  let ix ← allocM p
  let gen := ((← get).capEntry p ix).gen
  act (fun s => s.setCapEntry p ix (s.coreMaster n)
    { base := BitVec.ofNat 64 (b.pc.toNat + 4), length := b.pcCap.val,
      info := entryMeta (capFlags false 0 true) gen 0xFFFF 0, word3 := 0 })
  let s ← get
  let e5 := s.capEntry p (capIndex b.b5)
  let pass := s.capCurrent p b.b5 && capKind b.b5 == 2 && e5.skind == 0 && e5.otype == e.otype
  modCur n (fun b => { b with b4 := capWord 2 0 gen ix, b5 := if pass then withKind b.b5 0 else Word.raw0 })
  act (fun s => (s.target n 2 0 e.lo).retireTo n (withKind c 1) e.lo)

/-- CRET: R166. -/
def cretM (n : Nat) : M Unit := do
  let s ← get
  let p := s.parishOf n
  let b4 := (s.cur n).b4
  needCurrent n p b4
  let r := s.capEntry p (capIndex b4)
  if capKind b4 ≠ 2 ∨ !r.isReturn ∨ r.otype ≠ 0xFFFF then capf 0x03
  let k := Word.cap r.length
  let ek := s.capEntry p (capIndex k)
  if !s.capCurrent p k ∨ capKind k ≠ 1 ∨ !hasPerm (effPerm k ek) pX ∨ r.lo < ek.lo ∨ ek.lo + ek.len < r.lo + 4 then
    capf 0x09
  act (fun s => s.capRelease p (capIndex b4) (s.coreMaster n))
  modCur n (fun b => { b with b4 := Word.raw0 })
  act (fun s => (s.target n 3 0 r.lo).retireTo n k r.lo)

/-- CCALL. -/
def execCcall (n : LCore) (o : XRForm) (s : State) : Host.Outcome State Fault Refusal :=
  .next (s.instr n notFp (fun _ => illXR o 0 true) o.guard (vendorM n (fun _ => ccallM n o.bank.toNat)))

/-- CRET. -/
def execCret (n : LCore) (o : XNForm) (s : State) : Host.Outcome State Fault Refusal :=
  .next (s.instr n notFp (fun _ => illXN o) o.guard (vendorM n (fun _ => cretM n)))

/-! ### SVBK, RARM, RTE (R181-R183) -/

/-- R181: the primary bank as an 18-word record; ST as CRD reads it in that bank. -/
def Core.record (c : Core) : List Word :=
  let b := c.prim
  [b.a, b.x, b.y, Word.fixNat (b.p.toNat / 2 * 2 + 1), b.b0, b.b1, b.b2, b.b3, b.b4, b.b5, b.b6, b.b7, b.pcCap,
   Word.fixNat b.pc.toNat, Word.fix b.lc, Word.fixNat b.ls.toNat, Word.fixNat b.le.toNat,
   Word.fix (putBit (putBit b.st 1 c.sb) 2 c.df)]

/-- Word `i` of a record checked as one run of words. -/
def recordSite (n : Nat) (t : Site) (i : Nat) : M (Region × Nat) := do
  let s ← get
  return s.translate (s.parishOf n) (t.addr + 8 * i)

/-- SVBK: R181. DESIGN CHOICE (log 87): the record is checked as one access. -/
def svbkM (n : Nat) : M Unit := do
  let c := (← get).core n
  if !(c.sb || c.df) then raiseIll
  settleM n
  let ws := ((← get).core n).record
  let t ← checkM n 7 (fun base => base) 144 18 2 true .noDev
  for i in List.range 18 do
    let (r, pa) ← recordSite n t i
    touchM n 7 { t with addr := t.addr + 8 * i, pa := pa, region := r }
    act (fun s => (s.ownStoreResv n (pa / 64)).coreStore n r (pa / 8) (.word (ws.getD i Word.raw0)) none)
  retireM n

/-- RARM: R182. -/
def rarmM (n : Nat) : M Unit := do
  let c := (← get).core n
  if !c.sb || c.df then raiseIll
  settleM n
  act (fun s =>
    let c := s.core n
    s.setCore n { c with prim := { c.shad with st := putBit c.shad.st 0 true }, sb := false,
                         mShad := .none, mPrim := .none })
  retireM n

/-- R183: "holds core-control". -/
def State.holdsControl (s : State) (n : Nat) : Bool :=
  (List.range 8).any (fun i => s.authority (s.parishOf n) ((s.cur n).breg i) coreControl)

/-- R183: the primary bank a record gives. DESIGN CHOICE (log 73): a word 13 that is no multiple of 4 is restored as it
stands, and the core resumes there. -/
def bankOfRecord (ws : List Word) (st : BitVec 64) : Bank :=
  let w (i : Nat) := ws.getD i Word.raw0
  { a := w 0, x := w 1, y := w 2, p := ((w 3).val.truncate 8 &&& 0xFE#8) ||| 1#8,
    b0 := w 4, b1 := w 5, b2 := w 6, b3 := w 7, b4 := w 8, b5 := w 9, b6 := w 10, b7 := w 11,
    pcCap := w 12, pc := (w 13).val.truncate 48, lc := (w 14).val,
    ls := (w 15).val.truncate 48 &&& ~~~3#48, le := (w 16).val.truncate 48 &&& ~~~3#48, st := st }

/-- R183: what restoring from a record at B7 gives. DESIGN CHOICE (log 67, log 87): the record is checked as one access, and
the MCHK of a word comes before the TAGF or CAPF of the record. -/
def rteRecord (n : Nat) : M Bank := do
  let t ← checkM n 7 (fun base => base) 144 9 1 true .noDev
  let mut ws : List Word := []
  for i in List.range 18 do
    let (r, pa) ← recordSite n t i
    touchM n 7 { t with addr := t.addr + 8 * i, pa := pa, region := r }
    let w ← readM n r pa
    consume n 1 (t.addr + 8 * i) pa w
    ws := ws ++ [w]
  let w (i : Nat) := ws.getD i Word.raw0
  if !([1, 2, 3, 13, 14, 15, 16, 17].all (fun i => (w i).isFix)) then raiseExc { vec := vTagf }
  let s ← get
  let p := s.parishOf n
  let e := s.capEntry p (capIndex (w 12))
  let a := (w 13).int
  if !s.capCurrent p (w 12) ∨ capKind (w 12) ≠ 1 ∨ !hasPerm (effPerm (w 12) e) pX ∨ a < e.lo ∨
      (e.lo + e.len : Int) < a + 4 then capf 0x09
  if (w 14).int < 0 then raiseExc { vec := vLoopf }
  return bankOfRecord ws (stWrite (s.cur n).st (w 17).val (s.holdsControl n))

/-- R183: the banks that do not hold a current CAP word become RAW 0; the mask of those nulled. -/
def State.nullStale (s : State) (p : Nat) (b : Bank) : Bank × Nat :=
  (List.range 8).foldl (fun (r : Bank × Nat) i =>
    let w := r.1.breg i
    if w = Word.raw0 ∨ s.capCurrent p w then r else (r.1.setBreg i Word.raw0, r.2 + 2 ^ i)) (b, 0)

/-- RTE: R183, R184. -/
def rteM (n : Nat) : M Unit := do
  settleM n
  let s ← get
  let c := s.core n
  let p := s.parishOf n
  let tid : BankId := if c.df then (if c.sb then .shad else .prim) else .prim
  let inPlace := c.df || c.sb
  let t ← if inPlace then pure (c.bank tid) else rteRecord n
  let s ← get
  let (b, mask) := s.nullStale p t
  if inPlace && !s.capCurrent p b.pcCap then capf 0x09
  let b := if mask = 0 then b else { b with st := putBit b.st 3 true }
  let pend := decide (mask ≠ 0) && s.flag (Reg.excCtl p) 0
  act (fun s =>
    let s := s.retired n
    let c := s.core n
    let c := { c with
      df := false, sb := if c.df then c.sb else false, resv := none,
      rvk := if pend then some (c.rvk.getD 0 ||| BitVec.ofNat 8 mask) else c.rvk }
    (s.setCore n (c.setBank tid b)).target n 4 0 b.pc.toNat)

/-- SVBK. -/
def execSvbk (n : LCore) (o : XNForm) (s : State) : Host.Outcome State Fault Refusal :=
  .next (s.instr n notFp (fun _ => illXN o) o.guard (vendorM n (fun _ => svbkM n)))

/-- RARM. -/
def execRarm (n : LCore) (o : XNForm) (s : State) : Host.Outcome State Fault Refusal :=
  .next (s.instr n notFp (fun _ => illXN o) o.guard (rarmM n))

/-- RTE. -/
def execRte (n : LCore) (o : XNForm) (s : State) : Host.Outcome State Fault Refusal :=
  .next (s.instr n notFp (fun _ => illXN o) o.guard (vendorM n (fun _ => rteM n)))

end Sys2Proof.Machine
end

