-- ==== Sys2Proof/Machine/CoreMem.lean ====
section
/-! DEFINITION. Loads and stores of a core (R28-R34, R73, R84, R85), and DEV accesses: registers, doorbell pages,
configuration and memory space of a channel window (R13, R14, R333). -/

namespace Sys2Proof.Machine

/-! ### DEV accesses -/

/-- R158: what the capability of a DEV access carries. -/
def State.accessor (s : State) (p : Nat) (c : Word) : Accessor :=
  let e := s.capEntry p (capIndex c)
  let k := capKind c == 3
  { parish := Fin.ofNat 16 p, devctl := k && e.otype == 2, obs := k && e.otype == 3 }

/-- R35: the entry covers the whole TAT beside this access at parish address `a`, register offset `off`, with W. -/
def State.tagTable (s : State) (p : Nat) (c : Word) (a off : Nat) : Bool :=
  let e := s.capEntry p (capIndex c)
  let first := a - (off - Reg.tat 0)
  decide (Reg.tat 0 ≤ off ∧ off < Reg.tat 256 ∧ off - Reg.tat 0 ≤ a ∧ e.lo ≤ first ∧ first + 0x800 ≤ e.lo + e.len) &&
    hasPerm (effPerm c e) pW && hasPerm (effPerm c e) pDev

/-- R333: a channel window's port and offset. -/
def windowSplit (pa : Nat) : Nat × Nat := ((pa - windowBase) / 2 ^ 40, (pa - windowBase) % 2 ^ 40)

def ecamEnd : Nat := 0x10000000
def doorBase : Nat := 0xFFF0000000

/-- R333: the doorbell register of a window offset, where the channel is assigned to the port. -/
def State.doorbellReg (s : State) (port off : Nat) : Option Nat :=
  let c := (off - doorBase) / 0x1000
  if doorBase ≤ off ∧ c < 256 ∧ off % 0x1000 = 0x18 ∧ s.flag (Reg.chCfg c) 32 ∧ s.chanLink c / 4 = port then
    some (Reg.chSqp c)
  else none

/-- The root port a configuration access of bus 0 names. -/
def State.rootPort (s : State) (port off : Nat) : Option Nat :=
  let dev := off / 2 ^ 15 % 32
  let pl := 4 * port + dev
  if off / 2 ^ 20 = 0 ∧ dev < 4 ∧ off / 2 ^ 12 % 8 = 0 ∧ s.linkExists pl then some pl else none

/-- R333: the link whose memory windows claim a bus address: the memory window and the prefetchable window. -/
def State.claims (s : State) (pl addr : Nat) : Bool :=
  let w := s.header pl 0x20
  let u := s.header pl 0x28
  let hit (b l : Nat) : Bool := decide (b ≤ addr ∧ addr ≤ l)
  hit (bits w 4 12 * 2 ^ 20) (bits w 20 12 * 2 ^ 20 + 0xFFFFF) ||
    hit (bits u 0 32 * 2 ^ 32 + bits w 36 12 * 2 ^ 20) (bits u 32 32 * 2 ^ 32 + bits w 52 12 * 2 ^ 20 + 0xFFFFF)

/-- The link a window access goes out on: by address in memory space, by bus in configuration space. DESIGN CHOICE (log 83):
of links that claim it, the lowest that is up. -/
def State.route (s : State) (port off : Nat) : Option Nat :=
  (List.range 4).findSome? (fun l =>
    let pl := 4 * port + l
    let h := s.header pl 0x18
    let mine := if off < ecamEnd then
        decide (1 ≤ off / 2 ^ 20 ∧ bits h 8 8 ≤ off / 2 ^ 20 ∧ off / 2 ^ 20 ≤ bits h 16 8)
      else s.claims pl off
    if s.linkExists pl && mine && s.linkUpBit pl then some pl else none)

def allOnes : Reg64 := 0xFFFFFFFFFFFFFFFF#64

/-- R333: a DEV load: the payload, or the link it waits on. -/
def State.devLoad (s : State) (acc : Accessor) (pa : Nat) : Except Nat Reg64 :=
  if pa < windowBase then .ok (if pa - controlBase < 2 ^ 28 then s.readReg acc (pa - controlBase) else 0#64)
  else
    let (port, off) := windowSplit pa
    if 4 ≤ port then .ok 0#64
    else if doorBase ≤ off then
      .ok (match s.doorbellReg port off with
        | some r => s.readReg acc r
        | none => 0#64)
    else
      match s.rootPort port off with
      | some pl => if off < ecamEnd then .ok (s.readHeader pl off) else .ok 0#64
      | none =>
        match s.route port off with
        | some pl => .error pl
        | none => .ok allOnes

/-- R373: the Secondary Bus Reset bit of a word of a root port's header: bit 6 of Bridge Control at 0x3E. -/
def busReset (off : Nat) (old new : Reg64) : Bool := off % 0x1000 / 8 == 7 && bit new 54 && !bit old 54

/-- R14, R333: a DEV store of a payload. -/
def State.devStore (s : State) (acc : Accessor) (tag : Bool) (pa : Nat) (w : Word) : State :=
  if pa < windowBase then
    (if pa - controlBase < 2 ^ 28 then s.controlStore acc tag (pa - controlBase) w.val else s)
  else
    let (port, off) := windowSplit pa
    if 4 ≤ port then s
    else if doorBase ≤ off then
      match s.doorbellReg port off with
      | some r => s.controlStore acc false r w.val
      | none => s
    else
      let v := if w.isCap then 0#64 else w.val
      match s.rootPort port off with
      | some pl =>
        let old := s.header pl off
        let s := s.writeHeader pl off v
        if busReset off old v then s.sessionReset pl else s
      | none =>
        match s.route port off with
        | some pl => s.downstream pl (if off < ecamEnd then .cfgWrite (BitVec.ofNat 64 off) v else .write (BitVec.ofNat 64 off) v)
        | none => s

/-! ### Delivering a loaded word -/

/-- A loaded word reaches its register: R62 for X and Y. -/
def deliverM (n : Nat) (dest : LoadDest) (w : Word) : M Unit :=
  match dest with
  | .a => setA n w
  | .x => if w.isFix then modCur n (fun b => { b with x := w }) else raiseExc { vec := vTagf }
  | .y => if w.isFix then modCur n (fun b => { b with y := w }) else raiseExc { vec := vTagf }

/-- The word of a DEV load reaches its register (R34, R36, R62), and the instruction retires. -/
def deliverDev (n : Nat) (dest : LoadDest) (ltrap : Bool) (v : Reg64) : M Unit := do
  if ltrap then raiseExc { vec := vTagf, acc := 6 }
  deliverM n dest (Word.raw v)
  retireM n

/-- R213: the MCHK of a DEV load whose data failed a check. -/
def devCheckFailed (n : Nat) (d : DevLoad) : M Unit := do
  act (fun s => s.coreFault n 0x0A 6 (some d.pa))
  raiseExc { vec := vMchk, acc := 6, detail := 0x0A * 256, ea := some (d.addr : Int) }

/-- R116, R213: the DEV load at `addr` that the running bank's instruction performed before an FPX was taken. -/
def Core.heldLoad (c : Core) (addr : Nat) : Option DevLoad :=
  c.devHeld.bind (fun h => if h.1.val = c.curId.code ∧ h.2.addr = addr then some h.2 else none)

/-- What a DEV load whose answer is in does to its core. -/
def devAnswered (n : Nat) (d : DevLoad) : M Unit := do
  act (fun s => s.setCore n { s.core n with devLoad := none, devHeld := none })
  if d.failed then devCheckFailed n d
  else deliverDev n d.dest d.ltrap ((d.answer.map (·.1)).getD 0)

/-- A DEV load: performed before, at once, or outstanding on a link (R213, R333). -/
def devLoadM (n breg : Nat) (t : Site) (dest : LoadDest) : M Unit := do
  let s ← get
  let ltrap := s.ltrap (Word.raw 0)
  match (s.core n).heldLoad t.addr with
  | some d => devAnswered n { d with dest := dest }
  | none =>
    match s.devLoad (s.accessor (s.parishOf n) ((s.cur n).breg breg)) t.pa with
    | .ok v => deliverDev n dest ltrap v
    | .error pl =>
      let off := (windowSplit t.pa).2
      act (fun s => s.downstream pl (if off < ecamEnd then .cfgRead (BitVec.ofNat 64 off) else .read (BitVec.ofNat 64 off)))
      act (fun s => s.setCore n { s.core n with
        devLoad := some { dest := dest, addr := t.addr, pa := t.pa, port := pl / 4, link := pl % 4, ltrap := ltrap,
                          answer := none, failed := false } })

/-- LDA, LDX, LDY: R34, R62, R73. DESIGN CHOICE (log 67): LDX and LDY of a POIS word raise its MCHK, not TAGF. -/
def loadM (n : Nat) (o : PForm) (dest : LoadDest) : M Unit := do
  settleM n
  if o.mode = 3#2 then
    deliverM n dest (immWord o.off)
    retireM n
  else
    let b ← getCur n
    let t ← siteP n o 8 1 1 .word
    if t.region = .dev then devLoadM n o.bank.toNat t dest
    else
      let w ← readM n t.region t.pa
      frameCount n o.bank.toNat t o.off.toNat (b.index o.mode)
      checkedLoad n 1 t.addr t.pa w
      if dest = .a then
        needCapld 1 t.perms w
        let (w, h) ← barrier n t.addr t.perms w
        setA n w
        healM n h
      else deliverM n dest w
      retireM n

/-- STA, STX, STY: R14, R73, R81, R157; a DEV store leaves at retirement. DESIGN CHOICE (log 81): it is not hedged. -/
def storeM (n : Nat) (o : PForm) (src : Bank → Word) (hedged : Bool) : M Unit := do
  settleM n
  let b ← getCur n
  let w := src b
  let t ← siteP n o 8 2 2 .word
  if t.region = .dev then
    needCapst 7 t.perms w
    if w.tag = Tag.pois then mchkAt n 0x12 7 t.addr t.pa
    if w.poisoned then mchkAt n 0x13 7 t.addr t.pa
    let s ← get
    let p := s.parishOf n
    let c := b.breg o.bank.toNat
    let acc := s.accessor p c
    let tag := s.tagTable p c t.addr (t.pa - controlBase)
    retireM n
    act (fun s => s.devStore acc tag t.pa w)
  else
    storeNormal n t w 2 hedged
    retireM n

/-- LDA. -/
def execLda (n : LCore) (o : PForm) (s : State) : Host.Outcome State Fault Refusal :=
  .next (s.instr n notFp (fun _ => illP o .wi) o.guard (loadM n o .a))

/-- LDX. -/
def execLdx (n : LCore) (o : PForm) (s : State) : Host.Outcome State Fault Refusal :=
  .next (s.instr n notFp (fun _ => illP o .wi) o.guard (loadM n o .x))

/-- LDY. -/
def execLdy (n : LCore) (o : PForm) (s : State) : Host.Outcome State Fault Refusal :=
  .next (s.instr n notFp (fun _ => illP o .wi) o.guard (loadM n o .y))

/-- STA. -/
def execSta (n : LCore) (o : PForm) (s : State) : Host.Outcome State Fault Refusal :=
  .next (s.instr n notFp (fun _ => illP o .w) o.guard (storeM n o (·.a) true))

/-- STX. -/
def execStx (n : LCore) (o : PForm) (s : State) : Host.Outcome State Fault Refusal :=
  .next (s.instr n notFp (fun _ => illP o .w) o.guard (storeM n o (·.x) false))

/-- STY. -/
def execSty (n : LCore) (o : PForm) (s : State) : Host.Outcome State Fault Refusal :=
  .next (s.instr n notFp (fun _ => illP o .w) o.guard (storeM n o (·.y) false))

/-! ### Bytes (R29, R30, R84, R312) -/

/-- LDB. DESIGN CHOICE (log 69): through B7 its word offset in the frame window is the floor of (8 * off + idx) / 8
(R59). -/
def ldbM (n : Nat) (o : PForm) : M Unit := do
  settleM n
  let b ← getCur n
  let t ← siteByte n o 1 1
  let w ← readM n t.region t.pa
  frameCount n o.bank.toNat t 0 ((8 * (o.off.toNat : Int) + b.index o.mode) / 8)
  consume n 1 t.addr t.pa w
  setA n (Word.fixNat (byteOf w t.pa))
  retireM n

/-- STB; a POIS word in a line that the core holds is met at once. -/
def stbM (n : Nat) (o : PForm) : M Unit := do
  settleM n
  let b ← getCur n
  let t ← siteByte n o 2 2
  if b.a.isCap then raiseExc { vec := vTagf }
  if (← get).cached n t.region then
    let w ← readM n t.region t.pa
    consume n 2 t.addr t.pa w
  let d := StoreData.byte (Fin.ofNat 8 (t.pa % 8)) (b.a.val.truncate 8)
  act (fun s => (s.ownStoreResv n (t.pa / 64)).coreStore n t.region (t.pa / 8) d none)
  retireM n

/-- LDB. -/
def execLdb (n : LCore) (o : PForm) (s : State) : Host.Outcome State Fault Refusal :=
  .next (s.instr n notFp (fun _ => illP o .w) o.guard (ldbM n o))

/-- STB. -/
def execStb (n : LCore) (o : PForm) (s : State) : Host.Outcome State Fault Refusal :=
  .next (s.instr n notFp (fun _ => illP o .w) o.guard (stbM n o))

/-! ### Tags (R26, R28, R85) -/

/-- R28: the codes SETT refuses. -/
def settRefused (t : Nat) : Bool :=
  decide (t = 0x07 ∨ (0x12 ≤ t ∧ t ≤ 0x3F) ∨ 0x80 ≤ t)

/-- R26: a well-formed CHR payload. -/
def chrOk (v : BitVec 64) : Bool :=
  decide (v.toNat ≤ 0x10FFFF) && !decide (0xD800 ≤ v.toNat ∧ v.toNat ≤ 0xDFFF)

/-- R85: TAG reads POIS and the tags 0x80-0xFE as 255. -/
def tagRead (w : Word) : Nat := if w.poisoned then 255 else w.tag.toNat

/-- TAG. -/
def tagM (n : Nat) (o : PForm) : M Unit := do
  settleM n
  let b ← getCur n
  let t ← siteP n o 8 1 1 .noDev
  let w ← readM n t.region t.pa
  frameCount n o.bank.toNat t o.off.toNat (b.index o.mode)
  noteM n 1 t.pa w
  setA n (Word.fixNat (tagRead w))
  retireM n

/-- R28: A with its tag set. -/
def settWord (a op : Word) : Option Word :=
  if !op.isFixRaw ∨ 255 < op.val.toNat then none
  else
    let t := op.val.toNat
    if settRefused t then none
    else if t = Tag.chr.toNat ∧ !chrOk a.val then none
    else if t = Tag.nil.toNat ∨ t = Tag.tru.toNat then some ⟨BitVec.ofNat 8 t, 0#64⟩
    else some ⟨BitVec.ofNat 8 t, a.val⟩

/-- SETT. -/
def settM (n : Nat) (o : PForm) : M Unit := do
  settleM n
  let op ← operand n o
  match settWord (← getCur n).a op with
  | none => raiseExc { vec := vTagf }
  | some w =>
    setA n w
    retireM n

/-- TAG: R73, R85. -/
def execTag (n : LCore) (o : PForm) (s : State) : Host.Outcome State Fault Refusal :=
  .next (s.instr n notFp (fun _ => illP o .w) o.guard (tagM n o))

/-- SETT: R28, R73. -/
def execSett (n : LCore) (o : PForm) (s : State) : Host.Outcome State Fault Refusal :=
  .next (s.instr n notFp (fun _ => illP o .wi) o.guard (settM n o))

/-! ### CLD (R63, R73, R157) -/

/-- CLD: the offset field holds the destination bank and a 13-bit word offset. DESIGN CHOICE (log 67): a POIS word raises
its MCHK before the CAPF of R63. -/
def cldM (n : Nat) (o : PForm) : M Unit := do
  settleM n
  let b ← getCur n
  let off := o.off.toNat % 2 ^ 13
  let t ← checkM n o.bank.toNat (fun base => eaWord base off (b.index o.mode)) 8 1 1 true .noDev
  touchM n o.bank.toNat t
  let w ← readM n t.region t.pa
  frameCount n o.bank.toNat t off (b.index o.mode)
  consume n 1 t.addr t.pa w
  needCapld 1 t.perms w
  if !w.isCap && w != Word.raw0 then raiseExc { vec := vCapf, acc := 1, detail := 0x01 }
  modCur n (fun b => b.setBreg (o.off.toNat / 2 ^ 13) w)
  retireM n

/-- CLD. -/
def execCld (n : LCore) (o : PForm) (s : State) : Host.Outcome State Fault Refusal :=
  .next (s.instr n notFp (fun _ => illP o .w) o.guard (cldM n o))

/-! ### DEV loads that a link answers (R333) -/

/-- R116, R213: what a DEV load does to its core once its answer is in: an FPX that meets its exception is taken first, and
the performed load is held for the instruction. -/
def State.devFinish (s : State) (n : Nat) (d : DevLoad) : State :=
  let c := s.core n
  let clear := s.setCore n { c with devLoad := none }
  match devAnswered n d s with
  | .ok _ t => t
  | .error e t =>
    if c.fpx && !c.em then
      (clear.setCore n { clear.core n with devHeld := some (Fin.ofNat 3 c.curId.code, d) }).takeEvent n .fpx
    else t.takeExc n true e

/-- The answer to a DEV load: it is kept while the core is in a transplant's pause (R213, R220), and lost with a core that
no longer runs. -/
def State.devDone (s : State) (n : Nat) (v : Reg64) (bad : Option AerBits) : State :=
  match (s.core n).devLoad with
  | none => s
  | some d =>
    if d.answer.isSome then s
    else
      let s := match bad with
        | some b => s.aer (4 * d.port + d.link) 0x31 6 b
        | none => s.received (4 * d.port + d.link) 8
      let d := { d with answer := some (v, bad.isSome) }
      match (s.core n).run with
      | .paused => s.setCore n { s.core n with devLoad := some d }
      | .running => s.devFinish n d
      | _ => s.setCore n { s.core n with devLoad := none }

/-- DEV_LOAD_COMPLETION: R333. -/
def execDevLoadCompletion (n : LCore) (r : DevCompletion) (s : State) : Host.Outcome State Fault Refusal :=
  .next (s.whole (fun s =>
    match r with
    | .data v => s.devDone n v none
    | .unsupported => s.devDone n allOnes (some aerUnsupported)
    | .abort => s.devDone n allOnes (some aerAbort)))

/-- DEV_LOAD_TIMEOUT: R333. -/
def execDevLoadTimeout (n : LCore) (s : State) : Host.Outcome State Fault Refusal :=
  .next (s.whole (fun s => s.devDone n allOnes (some aerTimeout)))

end Sys2Proof.Machine
end

