-- ==== Sys2Proof/Machine/CoreList.lean ====
section
/-! DEFINITION. Cells and allocation (R79, R80, R122-R125): CONS, ALC, CAR, CDR, RPLA, RPLD. -/

namespace Sys2Proof.Machine

/-! ### Allocation (R79) -/

/-- A store of one word of a range already checked: its CAPST is checked, its hedge met. -/
def hedgeAt (n acc : Nat) (t : Site) (i : Nat) (w : Word) (c : RunCtx := {}) : M (Option Card) :=
  hedge n acc (t.addr + 8 * i) w c

/-- The store of word `i` of a checked range. -/
def storeWordAt (n : Nat) (t : Site) (i : Nat) (w : Word) (card : Option Card) : M Unit := do
  let (r, pa) ← recordSite n t i
  act (fun s => (s.ownStoreResv n (pa / 64)).coreStore n r (pa / 8) (.word w) card)

/-- Runs `m`; where it raises, the card log slot `k` claimed before it is given back (R82). -/
def unclaiming {α : Type} (n : Nat) (k : Option Card) (m : M α) : M α := fun s =>
  match m s with
  | .ok a t => .ok a t
  | .error e t => .error e (t.cardUnclaim (t.parishOf n) k)

/-- CONS. -/
def consM (n : Nat) (o : PForm) (x : RunCtx := {}) : M Unit := do
  settleM n
  let (cdr, h) ← memBar n o x
  let c := (← get).core n
  if c.al.toNat < c.ac.toNat + 16 then raiseExc { vec := vAlloc }
  let t ← checkM n 6 (fun _ => (c.ac.toNat : Int)) 16 2 2 true .noDev
  touchM n 6 t
  let car := c.cur.a
  needCapst 2 t.perms car
  needCapst 2 t.perms cdr
  let k0 ← hedgeAt n 2 t 0 car x
  let k1 ← unclaiming n k0 (hedgeAt n 2 t 1 cdr x)
  storeWordAt n t 0 car k0
  storeWordAt n t 1 cdr k1
  healM n h x
  setA n ⟨Tag.cons, BitVec.ofNat 64 c.ac.toNat⟩
  act (fun s => s.setCore n { s.core n with ac := (s.core n).ac + 16 })
  retireM n

/-- ALC. -/
def alcM (n : Nat) (t : BitVec 8) (x : RunCtx := {}) : M Unit := do
  settleM n
  let s ← get
  let c := s.core n
  let a := c.cur.a
  if !a.isFix || decide (a.int < 1) || decide (0xFFFFFFFF < a.int) then raiseExc { vec := vTagf }
  if bits (x.entry s t) 0 2 ≠ 2 ∨ t = Tag.fwd then raiseExc { vec := vTagf }
  if c.al.toNat < c.ac.toNat + 8 * a.val.toNat then raiseExc { vec := vAlloc }
  setA n ⟨t, BitVec.ofNat 64 c.ac.toNat⟩
  act (fun s => s.setCore n { s.core n with ac := BitVec.ofNat 48 (c.ac.toNat + 8 * a.val.toNat) })
  retireM n

/-- CONS. -/
def execCons (n : LCore) (o : PForm) (s : State) : Host.Outcome State Fault Refusal :=
  .next (s.instr n notFp (fun _ => illP o .w) o.guard (vendorM n (fun x => consM n o x)))

/-- ALC. -/
def execAlc (n : LCore) (o : XRForm) (s : State) : Host.Outcome State Fault Refusal :=
  .next (s.instr n notFp (fun _ => illXR o 8 false) o.guard (if ((s.core n).ac.toNat) % 8 = 0 then alcM n o.sel else vendorM n (fun x => alcM n o.sel x)))

/-! ### CAR and CDR (R122, R123) -/

/-- CAR (`off` 0) and CDR (`off` 8). DESIGN CHOICE (log 86): LTRAP and CAPLD are looked at before EVAC. -/
def cellM (n bank off : Nat) (x : RunCtx := {}) : M Unit := do
  settleM n
  let s ← get
  let a := (s.cur n).a
  if a.tag = Tag.nil ∧ s.flag (Reg.gcCtl (s.parishOf n)) 2 then
    setA n Word.nil
    retireM n
  else
    if a.tag ≠ Tag.cons then raiseExc { vec := vTagf }
    let t ← checkM n bank (fun _ => (a.addr + off : Int)) 8 1 1 true .noDev
    touchM n bank t
    let w ← readM n t.region t.pa
    checkedLoad n 1 t.addr t.pa w x
    needCapld 1 t.perms w
    let (w, h) ← barrier n t.addr t.perms w x
    setA n w
    healM n h x
    retireM n

/-- CAR. -/
def execCar (n : LCore) (o : XRForm) (s : State) : Host.Outcome State Fault Refusal :=
  .next (s.instr n notFp (fun _ => illXR o 0 true) o.guard (vendorM n (fun x => cellM n o.bank.toNat 0 x)))

/-- CDR. -/
def execCdr (n : LCore) (o : XRForm) (s : State) : Host.Outcome State Fault Refusal :=
  .next (s.instr n notFp (fun _ => illXR o 0 true) o.guard (vendorM n (fun x => cellM n o.bank.toNat 8 x)))

/-! ### RPLA and RPLD (R73, R80, R81) -/

/-- RPLA (`off` 0) and RPLD (`off` 8): the cell pointer is M, and the cell is reached through the same bank. -/
def replaceM (n : Nat) (o : PForm) (off : Nat) (x : RunCtx := {}) : M Unit := do
  settleM n
  let (c, h) ← memBar n o x
  if c.tag ≠ Tag.cons then raiseExc { vec := vTagf }
  let a := (← getCur n).a
  let t ← checkM n o.bank.toNat (fun _ => (c.addr + off : Int)) 8 2 2 true .noDev
  touchM n o.bank.toNat t
  storeNormal n t a 2 true x
  healM n h x
  retireM n

/-- RPLA. -/
def execRpla (n : LCore) (o : PForm) (s : State) : Host.Outcome State Fault Refusal :=
  .next (s.instr n notFp (fun _ => illP o .w) o.guard (vendorM n (fun x => replaceM n o 0 x)))

/-- RPLD. -/
def execRpld (n : LCore) (o : PForm) (s : State) : Host.Outcome State Fault Refusal :=
  .next (s.instr n notFp (fun _ => illP o .w) o.guard (vendorM n (fun x => replaceM n o 8 x)))

end Sys2Proof.Machine
end

