-- ==== Sys2Proof/Machine/CoreAtomic.lean ====
section
/-! DEFINITION. Reservations, atomics and fences (R83, R277-R292). -/

namespace Sys2Proof.Machine

/-! ### Reservations (R287-R291) -/

/-- R290: LDR and STC of this region and line are made in the core's own cache. -/
def State.localResv (s : State) (n : Nat) (t : Site) : Bool := s.cached n t.region && !s.mirroredPa t.pa

/-- R287, R291: the word LDR reads, with its reservation set. -/
def State.reserve (s : State) (n : Nat) (t : Site) : State × Word :=
  let line := t.pa / 64
  let set (s : State) (home : Bool) : State :=
    s.setCore n { s.core n with resv := some { line := line, home := home, hold := true } }
  if s.localResv n t then
    let s := (s.ntFlush n (fun e => e.line == line)).ownWord n (t.pa / 8) 4
    (set s false, (s.core n).forward (t.pa / 8) (s.l2Word (s.physOf n) (t.pa / 8)))
  else
    let (s, w, _) :=
      ((s.drainStores n).ntFlush n (fun e => e.line == line)).coreAtomic n t.region (t.pa / 8) 4 (fun _ _ => none)
    (set s true, w)

/-- R287, R291: the reservation covers the line of an STC. -/
def State.reserved (s : State) (n : Nat) (t : Site) : Bool :=
  match (s.core n).resv with
  | some r => if r.home then r.line == t.pa / 64 else r.line / 2 == t.pa / 64 / 2
  | none => false

/-- LDR: R73, R80, R287. -/
def ldrM (n : Nat) (o : PForm) : M Unit := do
  settleM n
  let t ← siteP n o 8 1 4 .noDev
  let w ← actGet (fun s => s.reserve n t)
  checkedLoad n 4 t.addr t.pa w
  needCapld 4 t.perms w
  let (w, h) ← barrier n t.addr t.perms w
  setA n w
  healM n h
  retireM n

/-- STC: R81, R288: the reservation is tested as the store is performed. -/
def stcM (n : Nat) (o : PForm) : M Unit := do
  settleM n
  let t ← siteP n o 8 2 4 .noDev
  let a := (← getCur n).a
  needCapst 4 t.perms a
  if (← get).reserved n t then
    act (fun s => (s.drainStores n).ntFlush n (fun e => e.line == t.pa / 64))
    let card ← hedge n 4 t.addr a
    let wrote ← actGet (fun s =>
      let r := s.coreAtomic n t.region (t.pa / 8) 4 (fun s _ => if s.reserved n t then some a else none)
      (r.1, r.2.2))
    act (fun s => if wrote then s.cardWrite n card else s.cardUnclaim (s.parishOf n) card)
    setPredM n 6 wrote
  else setPredM n 6 false
  act (fun s => s.dropResv n)
  retireM n

/-- LDR. -/
def execLdr (n : LCore) (o : PForm) (s : State) : Host.Outcome State Fault Refusal :=
  .next (s.instr n notFp (fun _ => illP o .w) o.guard (ldrM n o))

/-- STC. -/
def execStc (n : LCore) (o : PForm) (s : State) : Host.Outcome State Fault Refusal :=
  .next (s.instr n notFp (fun _ => illP o .w) o.guard (stcM n o))

/-! ### XADD, XCHG, CAS (R83, R280) -/

/-- R34, R280: the old value of an atomic, after every older store is performed. -/
def atomicOld (n : Nat) (o : PForm) : M (Site × Word) := do
  settleM n
  let t ← siteP n o 8 3 3 .noDev
  act (fun s => s.drainAll n)
  let w ← actGet (fun s =>
    let r := s.coreAtomic n t.region (t.pa / 8) 3 (fun _ _ => none)
    (r.1, r.2.1))
  checkedLoad n 3 t.addr t.pa w
  return (t, w)

/-- The write of an atomic, in the same indivisible access. -/
def atomicWrite (n : Nat) (t : Site) (v : Word) (card : Option Card) : M Unit := do
  act (fun s => s.ownStoreResv n (t.pa / 64))
  act (fun s => (s.coreAtomic n t.region (t.pa / 8) 3 (fun _ _ => some v)).1)
  act (fun s => s.cardWrite n card)

/-- XADD: R73. -/
def xaddM (n : Nat) (o : PForm) : M Unit := do
  let (t, old) ← atomicOld n o
  let a := (← getCur n).a
  if !a.isFix || !old.isFix then raiseExc { vec := vTagf }
  atomicWrite n t (Word.fix (old.val + a.val)) none
  setA n old
  retireM n

/-- R80, R141: the old value is returned as the barrier has found it, without a heal; EVAC comes after the swap. -/
def returnOld (b : Barred) : M Word :=
  match b.evac with
  | some e => raiseExc e
  | none => pure b.w

/-- XCHG: R73, R80, R81. -/
def xchgM (n : Nat) (o : PForm) : M Unit := do
  let (t, old) ← atomicOld n o
  needCapld 3 t.perms old
  let a := (← getCur n).a
  needCapst 3 t.perms a
  let look ← barrierLook n t.addr t.perms old
  let card ← hedge n 3 t.addr a
  atomicWrite n t a card
  let w ← returnOld look
  setA n w
  retireM n

/-- CAS: R83. -/
def casM (n : Nat) (o : PForm) : M Unit := do
  let (t, old) ← atomicOld n o
  needCapld 3 t.perms old
  let b ← getCur n
  let hit := old.isFix && old.val == b.x.val
  let look ← barrierLook n t.addr t.perms old
  if hit then
    needCapst 3 t.perms b.a
    let card ← hedge n 3 t.addr b.a
    atomicWrite n t b.a card
  let w ← returnOld look
  setPredM n 6 hit
  setA n w
  retireM n

/-- XADD. -/
def execXadd (n : LCore) (o : PForm) (s : State) : Host.Outcome State Fault Refusal :=
  .next (s.instr n notFp (fun _ => illP o .w) o.guard (xaddM n o))

/-- XCHG. -/
def execXchg (n : LCore) (o : PForm) (s : State) : Host.Outcome State Fault Refusal :=
  .next (s.instr n notFp (fun _ => illP o .w) o.guard (xchgM n o))

/-- CAS. -/
def execCas (n : LCore) (o : PForm) (s : State) : Host.Outcome State Fault Refusal :=
  .next (s.instr n notFp (fun _ => illP o .w) o.guard (casM n o))

/-! ### Fences (R281) -/

/-- A fence completes once what it waits for is performed. -/
def State.fence (s : State) (n : Nat) (o : XNForm) (f : State → State) : State :=
  s.instr n notFp (fun _ => illXN o) o.guard do
    act f
    retireM n

/-- FNSL: every older store but the non-temporal ones. -/
def execFnsl (n : LCore) (o : XNForm) (s : State) : Host.Outcome State Fault Refusal :=
  .next (s.fence n o (fun s => s.drainStores n))

/-- FNNT: every older non-temporal store. -/
def execFnnt (n : LCore) (o : XNForm) (s : State) : Host.Outcome State Fault Refusal :=
  .next (s.fence n o (fun s => s.ntFlush n (fun _ => true)))

/-- FNIO: every older access. -/
def execFnio (n : LCore) (o : XNForm) (s : State) : Host.Outcome State Fault Refusal :=
  .next (s.fence n o (fun s => s.drainAll n))

/-- R281: the card log entries that core `n` still owes are written; where they cannot be, the fence waits. -/
def State.settleCards (s : State) (n : Nat) : State :=
  let mine (s : State) : List LateWrite := s.coh.late.filter (fun e => e.card && e.m == masterId 0 (s.physOf n))
  let s := ((mine s).map (fun e => e.pa / 64)).foldl (fun s l => (if isCommons (64 * l) then s else s.settle l).sinkLate l) s
  s.waitIf (!(mine s).isEmpty)

/-- FNAL: what FNIO waits for, with the card log entries and heals of older instructions. -/
def execFnal (n : LCore) (o : XNForm) (s : State) : Host.Outcome State Fault Refusal :=
  .next (s.fence n o (fun s => (s.drainAll n).settleCards n))

/-! ### The ends of the hold-offs (R289, R291) -/

/-- RESERVATION_HOLDOFF_EXPIRE: R289: the core answers snoops of its granule again. -/
def execReservationHoldoffExpire (n : LCore) (s : State) : Host.Outcome State Fault Refusal :=
  let c := s.core n
  .next (match c.resv with
    | some r => if r.home then s else (s.setCore n { c with resv := some { r with hold := false } }).sinkLogs
    | none => s)

/-- HOME_RESERVATION_HOLD_EXPIRE: R291: the slice admits waiting writes to the core's reserved line again. -/
def execHomeReservationHoldExpire (p : PCore) (s : State) : Host.Outcome State Fault Refusal :=
  .next (match s.logicalOf p with
    | some n =>
      let c := s.core n
      (match c.resv with
       | some r => if r.home then (s.setCore n { c with resv := some { r with hold := false } }).sinkLogs else s
       | none => s)
    | none => s)

end Sys2Proof.Machine
end

