-- ==== Sys2Proof/Machine/CoreLong.lean ====
section
/-! DEFINITION. The long instructions (R90-R95): MOVB, CMPB, SCNT, FIND. -/

namespace Sys2Proof.Machine

/-! ### Progress and interrupt points (R90, R91) -/

def progM (n : Nat) : M Nat := do return (← getCur n).prog

def setProgM (n k : Nat) : M Unit := modCur n (fun b => b.setProg k)

/-- R91, R116, R179: an interrupt point: an event that applies is taken here, a pending FPX first, and the instruction
goes no further. -/
def pointM (n : Nat) : M Bool := do
  match (← get).boundary n false with
  | some e =>
    act (fun s => s.takeEvent n e)
    return false
  | none => return true

/-- Repeats a step while it answers true; `k` bounds the steps. -/
def repeatM (step : M Bool) : Nat → M Unit
  | 0 => pure ()
  | k + 1 => do
    if ← step then repeatM step k

/-- R90: the count: A where the instruction is beginning, else PROG. -/
def countM (n : Nat) : M Nat := do
  let b ← getCur n
  if b.prog ≠ 0 then return b.prog
  if !b.a.isFix || decide (b.a.int < 0) || decide (0xFFFFFFFF < b.a.int) then raiseExc { vec := vTagf }
  return b.a.val.toNat

/-- R90: the instruction completes. -/
def completeM (n : Nat) : M Unit := do
  setProgM n 0
  retireM n

/-- A run of `k` words from index `x` of bank `breg`. -/
def runSite (n breg k : Nat) (x : Int) (need acc : Nat) : M Site :=
  checkM n breg (fun base => (base : Int) + 8 * x) (8 * k) need acc true .noDev

def incWord (w : Word) : Word := Word.fix (w.val + 1)

/-- One word of a long instruction is done: X, and Y where it moves, go up and PROG goes down. -/
def advanceM (n : Nat) (moveY : Bool) : M Nat := do
  modCur n (fun b => { (b.setProg (b.prog - 1)) with x := incWord b.x, y := if moveY then incWord b.y else b.y })
  progM n

/-- After a word: the instruction completes with `done`, goes on, or stops at an interrupt point. -/
def nextWord (n : Nat) (moveY : Bool) (done : M Unit) : M Bool := do
  let left ← advanceM n moveY
  if left = 0 then
    done
    completeM n
    return false
  else if (← getCur n).x.val.toNat % 8 = 0 then pointM n
  else return true

/-- Where word `i` of a checked run lies: its parish address, region and physical address. -/
def wordSite (n : Nat) (t : Site) (i : Nat) : M (Nat × Region × Nat) := do
  let (r, pa) ← recordSite n t i
  return (t.addr + 8 * i, r, pa)

/-- R235: word `i` of a run through bank register `breg` is accessed at its address and physical address. -/
def touchWord (n breg : Nat) (t : Site) (a pa : Nat) (r : Region) : M Unit :=
  touchM n breg { t with addr := a, pa := pa, region := r }

/-- How many words of the checked run are done. -/
def doneWords (n total : Nat) : M Nat := do return total - (← progM n)

/-! ### MOVB (R92, R282) -/

def movbStep (n bs total : Nat) (ts td : Site) : M Bool := do
  let i ← doneWords n total
  let (as, rs, pas) ← wordSite n ts i
  let (ad, rd, pad) ← wordSite n td i
  touchWord n bs ts as pas rs
  let w ← readM n rs pas
  let nt := rd == .wb
  if w.isCap then
    needCapld 1 ts.perms w
    needCapst (if nt then 5 else 2) td.perms w
  noteM n 1 pas w
  let w := if w.poisoned then Word.pois else w
  let card ← hedge n (if nt then 5 else 2) ad w
  act (fun s =>
    let s := s.ownStoreResv n (pad / 64)
    if nt then s.ntStore n (pad / 8) w card else s.coreStore n rd (pad / 8) (.word w) card)
  nextWord n true (pure ())

/-- MOVB: R92. DESIGN CHOICE (log 65): a fault of the destination's range check carries ACC 0x2, a store, also where the
words would be written by NT stores (R173). -/
def movbM (n bs bd : Nat) : M Unit := do
  settleM n
  let k ← countM n
  if k = 0 then completeM n
  else
    let b ← getCur n
    let ts ← runSite n bs k b.x.int 1 1
    let td ← runSite n bd k b.y.int 2 2
    setProgM n k
    repeatM (movbStep n bs k ts td) k

/-! ### CMPB (R93) -/

/-- R93: a word as CMPB compares it. -/
def cmpKey (w : Word) : Nat := if w.isCap then w.tag.toNat * 2 ^ 64 else w.toNat72

def cmpPreds (n : Nat) (lt eq gt : Bool) : M Unit := do
  setPredM n 1 lt
  setPredM n 2 eq
  setPredM n 3 gt

def cmpbStep (n bs bd total : Nat) (ts td : Site) : M Bool := do
  let i ← doneWords n total
  let (as, rs, pas) ← wordSite n ts i
  let (ad, rd, pad) ← wordSite n td i
  touchWord n bs ts as pas rs
  touchWord n bd td ad pad rd
  let ws ← readM n rs pas
  consume n 1 as pas ws
  let wd ← readM n rd pad
  consume n 1 ad pad wd
  if cmpKey ws = cmpKey wd then nextWord n true (cmpPreds n false true false)
  else
    cmpPreds n (decide (cmpKey ws < cmpKey wd)) false (decide (cmpKey wd < cmpKey ws))
    completeM n
    return false

def cmpbM (n bs bd : Nat) : M Unit := do
  settleM n
  let k ← countM n
  if k = 0 then
    cmpPreds n false true false
    completeM n
  else
    let b ← getCur n
    let ts ← runSite n bs k b.x.int 1 1
    let td ← runSite n bd k b.y.int 1 1
    setProgM n k
    repeatM (cmpbStep n bs bd k ts td) k

/-! ### SCNT (R94) -/

def scntStep (n bs total sel : Nat) (ts : Site) : M Bool := do
  let i ← doneWords n total
  let (as, rs, pas) ← wordSite n ts i
  touchWord n bs ts as pas rs
  let w ← readM n rs pas
  noteM n 1 pas w
  if tagRead w = sel then
    setPredM n 5 true
    completeM n
    return false
  else nextWord n false (setPredM n 5 false)

def scntM (n bs sel : Nat) : M Unit := do
  settleM n
  let k ← countM n
  if k = 0 then
    setPredM n 5 false
    completeM n
  else
    let ts ← runSite n bs k (← getCur n).x.int 1 1
    setProgM n k
    repeatM (scntStep n bs k sel ts) k

/-! ### FIND (R95) -/

/-- The key, read once at each beginning and resumption. -/
def findKey (n : Nat) (o : XMForm) : M (Word × Option Heal) := do
  let t ← siteX n o 8 1 1 true .noDev
  let w ← readM n t.region t.pa
  consume n 1 t.addr t.pa w
  barrier n t.addr t.perms w

/-- FIND completes with A and P5. -/
def foundM (n : Nat) (w : Word) (hit : Bool) : M Bool := do
  setA n w
  setPredM n 5 hit
  completeM n
  return false

/-- A word of the cell at `a`. -/
def cellWord (n : Nat) (t : Site) (i : Nat) : M (Word × Option Heal) := do
  let (a, r, pa) ← wordSite n t i
  let w ← readM n r pa
  consume n 1 a pa w
  barrier n a t.perms w

/-- One cell; its heals are made when it commits, that of the key with the first (R140). -/
def findStep (n bank : Nat) (key : Word) (hk : Option Heal) : M Bool := do
  let y := (← getCur n).y.val
  let t ← checkM n bank (fun _ => ((y.toNat % 2 ^ 48 : Nat) : Int)) 16 1 1 true .noDev
  touchM n bank t
  let (car, h0) ← cellWord n t 0
  if car = key then
    healM n hk
    healM n h0
    foundM n ⟨Tag.cons, y⟩ true
  else
    let (d, h1) ← cellWord n t 1
    if d.tag ≠ Tag.nil ∧ d.tag ≠ Tag.cons then raiseExc { vec := vTagf }
    healM n hk
    healM n h0
    healM n h1
    modCur n (fun b => { (b.setProg (b.prog - 1)) with x := incWord b.x })
    if d.tag = Tag.nil then foundM n Word.nil false
    else
      modCur n (fun b => { b with y := Word.fix d.val })
      if (← progM n) = 0 then foundM n d false else pointM n

def findM (n : Nat) (o : XMForm) : M Unit := do
  settleM n
  let b ← getCur n
  let go : M Unit := do
    let (key, h) ← findKey n o
    if b.prog = 0 then
      let lim := if b.x.val = 0 then 0xFFFFFFFF else b.x.val.toNat
      modCur n (fun c => { (c.setProg lim) with y := Word.fix c.a.val, x := Word.fix 0 })
    if ← findStep n o.bank.toNat key h then repeatM (findStep n o.bank.toNat key none) (← progM n)
  if b.prog ≠ 0 then go
  else if b.a.tag = Tag.nil then
    setPredM n 5 false
    completeM n
  else
    if b.a.tag ≠ Tag.cons then raiseExc { vec := vTagf }
    if b.x.int < 0 ∨ 0xFFFFFFFF < b.x.int then raiseExc { vec := vTagf }
    go

/-- MOVB. -/
def execMovb (n : LCore) (o : XRForm) (s : State) : Host.Outcome State Fault Refusal :=
  .next (s.instr n notFp (fun _ => illXR o 3 true) o.guard (movbM n o.bank.toNat o.sel.toNat))

/-- CMPB. -/
def execCmpb (n : LCore) (o : XRForm) (s : State) : Host.Outcome State Fault Refusal :=
  .next (s.instr n notFp (fun _ => illXR o 3 true) o.guard (cmpbM n o.bank.toNat o.sel.toNat))

/-- SCNT. -/
def execScnt (n : LCore) (o : XRForm) (s : State) : Host.Outcome State Fault Refusal :=
  .next (s.instr n notFp (fun _ => illXR o 8 true) o.guard (scntM n o.bank.toNat o.sel.toNat))

/-- FIND. -/
def execFind (n : LCore) (o : XMForm) (s : State) : Host.Outcome State Fault Refusal :=
  .next (s.instr n notFp (fun _ => illXM o) o.guard (findM n o))

end Sys2Proof.Machine
end

