-- ==== Sys2Proof/Machine/CoreCache.lean ====
section
/-! DEFINITION. Cache operations, LOCKF and the core stride prefetch (R87, R235-R245). -/

namespace Sys2Proof.Machine

/-! ### Cache operations (R241-R245) -/

/-- The operations of R241. -/
inductive CacheOp where
  | cwb | cinv | cwbi
deriving DecidableEq, Repr

/-- R241, R242: an operation on one line of the L2 of core `p`; `discard` where CINV may drop dirty words. -/
def State.cacheLine (s : State) (p : Nat) (op : CacheOp) (line : Nat) (discard : Bool) : State :=
  if ((s.physCore p).l2.find line).isNone then s
  else
    match op with
    | .cwb => s.writeBack p line true
    | .cinv => (if discard then s.l2Drop p line else s.writeBack p line false).loseLine p line
    | .cwbi => (s.writeBack p line false).loseLine p line

/-- R244: older stores to the lines reach the L2 first; the queue keeps its order. -/
def State.drainFor (s : State) (n : Nat) (f : Nat → Bool) : State :=
  if (s.core n).sq.any (fun e => f (e.word / 8)) then s.drainStores n else s

/-- The operand of a one-line operation: a byte with R, alignment aside (R241). -/
def lineSite (n : Nat) (o : XMForm) (d : DevRule) : M Site := do
  let b ← getCur n
  checkM n o.bank.toNat (fun base => eaWord base o.off.toNat (b.index o.mode)) 1 1 1 false d

/-- CWB, CINV, CWBI. -/
def lineM (n : Nat) (o : XMForm) (op : CacheOp) : M Unit := do
  settleM n
  let t ← lineSite n o .noDev
  let s ← get
  let e := s.capEntry (s.parishOf n) (capIndex ((s.cur n).breg o.bank.toNat))
  let first := t.addr / 64 * 64
  let inside := decide (e.lo ≤ first ∧ first + 64 ≤ e.lo + e.len)
  if t.region = .wb then
    act (fun s => (s.drainFor n (· == t.pa / 64)).cacheLine (s.physOf n) op (t.pa / 64)
      (inside && hasPerm t.perms pDisc))
  retireM n

/-- R243: the operation on the line at parish address `64 * l` of a range. -/
def State.rangeLine (s : State) (n : Nat) (op : CacheOp) (t : Site) (len l : Nat) : State :=
  match s.translate (s.parishOf n) (64 * l) with
  | (.wb, pa) =>
    let whole := decide (t.addr ≤ 64 * l ∧ 64 * l + 64 ≤ t.addr + len)
    (s.drainFor n (· == pa / 64)).cacheLine (s.physOf n) op (pa / 64) (whole && hasPerm t.perms pDisc)
  | _ => s

/-- CWB.R, CINV.R, CWBI.R: R87. -/
def rangeM (n bank : Nat) (op : CacheOp) : M Unit := do
  settleM n
  let b ← getCur n
  if !b.a.isFix || decide (b.a.int < 1) || decide (0x200000 < b.a.int) then raiseExc { vec := vTagf }
  let len := b.a.val.toNat
  let t ← checkM n bank (fun base => (base : Int) + 8 * b.x.int) len 1 1 false .noDev
  let first := t.addr / 64
  act (fun s => (List.range ((t.addr + len - 1) / 64 - first + 1)).foldl
    (fun s i => s.rangeLine n op t len (first + i)) s)
  retireM n

/-- CWB. -/
def execCwb (n : LCore) (o : XMForm) (s : State) : Host.Outcome State Fault Refusal :=
  .next (s.instr n notFp (fun _ => illXM o) o.guard (lineM n o .cwb))

/-- CINV. -/
def execCinv (n : LCore) (o : XMForm) (s : State) : Host.Outcome State Fault Refusal :=
  .next (s.instr n notFp (fun _ => illXM o) o.guard (lineM n o .cinv))

/-- CWBI. -/
def execCwbi (n : LCore) (o : XMForm) (s : State) : Host.Outcome State Fault Refusal :=
  .next (s.instr n notFp (fun _ => illXM o) o.guard (lineM n o .cwbi))

/-- CWB.R. -/
def execCwbR (n : LCore) (o : XRForm) (s : State) : Host.Outcome State Fault Refusal :=
  .next (s.instr n notFp (fun _ => illXR o 0 true) o.guard (rangeM n o.bank.toNat .cwb))

/-- CINV.R. -/
def execCinvR (n : LCore) (o : XRForm) (s : State) : Host.Outcome State Fault Refusal :=
  .next (s.instr n notFp (fun _ => illXR o 0 true) o.guard (rangeM n o.bank.toNat .cinv))

/-- CWBI.R. -/
def execCwbiR (n : LCore) (o : XRForm) (s : State) : Host.Outcome State Fault Refusal :=
  .next (s.instr n notFp (fun _ => illXR o 0 true) o.guard (rangeM n o.bank.toNat .cwbi))

/-! ### LOCKF (R238) -/

def State.setLocks (s : State) (p : Nat) (ls : List Nat) : State := s.setPhys p { s.physCore p with locks := ls }

/-- The entry's lock bit is set. -/
def State.lockEntry (s : State) (p e : Nat) : State :=
  let ls := (s.physCore p).locks
  if ls.contains e then s else s.setLocks p (ls ++ [e])

/-- R232, R238: the occupant of way `w` in the set of `line` is replaced, and not counted as lost. -/
def State.clearEntry (s : State) (p line : Nat) (w : Fin 16) : State :=
  match (l2Mates (s.physCore p) line).find? (fun e => e.2.way == w) with
  | none => s
  | some (v, _) =>
    let ls := (s.physCore p).locks
    let s := s.setLocks p (ls.filter (· ≠ 4 * l2Set (64 * line) + (w.val - 12)))
    let s := s.writeBack p v false
    (s.setLocks p ls).loseLine p v

/-- A fill under way holds the entry in way `w` of the set of `line`. -/
def PhysCore.filling (c : PhysCore) (line : Nat) (w : Fin 16) : Bool :=
  c.fills.any (fun f => l2Set (64 * f.1) == l2Set (64 * line) && f.2 == w)

/-- R238 after its checks; an entry that a fill holds is waited for. -/
def State.lockf (s : State) (n line : Nat) (k : Fin 4) : State :=
  let p := s.physOf n
  let e := 4 * l2Set (64 * line) + k.val
  let w : Fin 16 := Fin.ofNat 16 (12 + k.val)
  if !s.flag (Reg.cctl p) 0 then (s.waitIf ((s.physCore p).filling line w)).lockEntry p e
  else
    let s := if ((s.physCore p).l2.find line).isSome then s else s.settle line
    let s := s.waitIf ((s.physCore p).filling line w)
    match (s.physCore p).l2.find line with
    | some l =>
      if l.way = w then s.lockEntry p e
      else (((s.clearEntry p line w).l2Put p line { l with way := w }).l2Touch p line).lockEntry p e
    | none =>
      let (s, st, ws) := (s.clearEntry p line w).rdsFor n line 1
      (s.l2Install p line st ws w.val).lockEntry p e

/-- LOCKF. -/
def lockfM (n : Nat) (o : XMForm) : M Unit := do
  settleM n
  let t ← lineSite n o .wbOnly
  let y := (← getCur n).y
  if !y.isFix || decide (y.int < 0) || decide (3 < y.int) then raiseExc { vec := vTagf }
  act (fun s => (s.drainFor n (· == t.pa / 64)).lockf n (t.pa / 64) (Fin.ofNat 4 y.val.toNat))
  retireM n

/-- LOCKF: its modes are none and +X. -/
def execLockf (n : LCore) (o : XMForm) (s : State) : Host.Outcome State Fault Refusal :=
  .next (s.instr n notFp (fun _ => illXM o || o.mode == 2#2) o.guard (lockfM n o))

/-! ### The core stride prefetch (R235, R236) -/

/-- The stream at `ins` has fetched a line ahead. -/
def State.streamAhead (s : State) (p ins line : Nat) : State :=
  let c := s.physCore p
  s.setPhys p { c with streams := c.streams.map (fun u =>
    if u.ins = ins then { u with ahead := u.ahead ++ [line] } else u) }

/-- R232, R236, R250, R263, R270: one line is fetched ahead into the L2 with RDS: at once, or, where its snoop-filter set is
at the cap, its line busy or an older request waiting, through the retry queue; it is dropped where every unlocked entry of
its set is busy, and stays at its sender while the queue is full. -/
def State.fetchAhead (s : State) (n ins line : Nat) : State :=
  let p := s.physOf n
  match s.l2Room p line with
  | (s, none) => s
  | (s, some w) =>
    let r : Req := { kind := .rds, master := BitVec.ofNat 12 (masterId 0 p), line := line }
    if s.queueFull line then s
    else if !s.admitsNow r then
      let s := s.streamAhead p ins line
      (s.setPhys p { s.physCore p with fills := (s.physCore p).fills.ins line (Fin.ofNat 16 w) }).request r
    else
      let s := s.streamAhead p ins line
      let (s, st, ws) := s.rdsFor n line 0xE
      s.l2Install p line st ws w

/-- CORE_PREFETCH: the nearest line ahead that the L2 lacks is fetched, and the two nearest lines are placed in the L1D
where the L2 holds them. -/
def State.prefetch (s : State) (n ins : Nat) : State :=
  let p := s.physOf n
  let c := s.physCore p
  if !s.coreValid n || !s.cachesOn p || !s.flag (Reg.cctl p) 2 || (s.core n).run != .running then s
  else
    match c.streams.find? (fun t => t.ins == ins && decide (2 ≤ t.hits)) with
    | none => s
    | some t =>
      let lines := t.ahead?.filterMap (fun a => s.aheadLine (s.parishOf n) true t a)
      let s := match lines.find? (fun l => (c.l2.find l).isNone && (c.fills.find l).isNone) with
        | none => s
        | some line => s.fetchAhead n ins line
      (lines.take 2).foldl (fun s l => s.l1dAccess p l) s

/-- CORE_PREFETCH: R235, R236. -/
def execCorePrefetch (n : LCore) (stream : BitVec 48) (s : State) : Host.Outcome State Fault Refusal :=
  .next (s.whole (fun s => if s.phase = phService ∧ s.stop = .running then s.prefetch n stream.toNat else s))

end Sys2Proof.Machine
end

