-- ==== Sys2Proof/Machine/CoreRetry.lean ====
section
/-! DEFINITION. Instruction retry, transplants to fallow cores, and control-store reloads (R205-R226). -/

namespace Sys2Proof.Machine

/-! ### Deferrable machine checks (R486) -/

/-- R486: an MCHK becomes pending at the parish's FC_MCORE core; X is the line in its lowest run that maps it. -/
def State.pendMchk (s : State) (p src acc pa : Nat) : State :=
  let n := s.fld (Reg.fcMcore p) 0 6
  let c := s.core n
  if c.mchk.isSome then s
  else
    let x := match (s.mapping pa).find? (fun r => r.parish == p) with
      | some r => r.parishAddr pa
      | none => 0
    s.setCore n { c with mchk := some { src := BitVec.ofNat 8 src, acc := BitVec.ofNat 4 acc,
                                        x := BitVec.ofNat 64 x } }

/-- R214, R219: a line is lost: POIS at home, ACTION, and a machine check for the parish of core `n`. -/
def State.lostLine (s : State) (n line src acc : Nat) (err : SramErr := 0) : State :=
  let s := (if isCommons (64 * line) then s else s.settle line).homeWrite line 0xFF#8 poisLine (masterId 0 (s.physOf n)) acc
  (s.coreFault n src acc (some (64 * line)) (hsiaoSynd err)).pendMchk (s.parishOf n) src acc (64 * line)

/-! ### Retry (R209-R215) -/

/-- R214, R297: an error in the oldest entry of the store queue, or else of the combining buffer. -/
def State.storeError (s : State) (n : Nat) (err : SramErr) : State :=
  let c := s.core n
  let bad := hsiaoDecode err == .ue
  match c.sq, c.nt with
  | e :: _, _ =>
    if !bad then s.coreFault n 0x05 2 (some (8 * e.word)) (hsiaoSynd err)
    else
      let s := if isCommons (8 * e.word) then s else s.settle (e.word / 8)
      let c := s.core n
      if c.sq.head? = some e then
        ((s.setCore n { c with sq := c.sq.tail }).lostLine n (e.word / 8) 0x06 2 err).cardWrite n e.card
      else s.lostLine n (e.word / 8) 0x06 2 err
  | [], e :: rest =>
    if !bad then s.coreFault n 0x05 5 (some (64 * e.line)) (hsiaoSynd err)
    else
      e.cards.foldl (fun s k => s.cardWrite n (some k))
        ((s.setCore n { c with nt := rest }).lostLine n e.line 0x06 5 err)
  | [], [] => s

/-- A core that executes instructions, or waits in one. -/
def State.active (s : State) (n : Nat) : Bool :=
  s.coreValid n && s.phase == phService && s.stop == .running &&
    ((s.core n).run == .running || (s.core n).run == .idle)

/-- R210, R213: a detector fires for an instruction that has not retired. With a DEV load outstanding, `uncorrectable` tells
that the data returned failed its check (log 34); any other retry does not issue the load again. -/
def State.detectRetry (s : State) (n det : Nat) (uncorrectable : Bool) : State :=
  match (s.core n).devLoad with
  | some d =>
    if uncorrectable then (s.setFld (Reg.rtyStat (s.physOf n)) 28 4 det).devFinish n { d with failed := true }
    else s.retryOnce n det
  | none => s.retryOnce n det

/-- R230: a parity error of an L1 line drops it, and the instruction is retried; an L2 word takes the error, and where
the instruction reads it, is corrected, or its line is dropped and the instruction retried, or goes home as POIS. -/
def State.detectCache (s : State) (n det : Nat) (uncorrectable : Bool) (hit : CacheHit) : State :=
  let p := s.physOf n
  match hit with
  | .none => s.detectRetry n det uncorrectable
  | .l1 line =>
    let c := s.physCore p
    (s.setPhys p (if det = 1 then { c with l1i := c.l1i.drop line.toNat } else { c with l1d := c.l1d.drop line.toNat })).detectRetry
      n det uncorrectable
  | .l2 line w err met =>
    let l := line.toNat
    match (s.physCore p).l2.find l with
    | none => s
    | some e =>
      let s := { s with mem := s.mem.flipCell (l2Cell p l w.val) err }
      if !met then s
      else
        let (s, bad) := s.l2Decode p l w.val 1
        if !bad then s
        else if e.st = .m then (s.writeBack p l false).loseLine p l
        else ((s.l2Drop p l).loseLine p l).retryOnce n 2

/-- R209, R210, R214, R216, R297: what a detector's firing does. A store that has retired has an error whatever its core is
doing; the word of the checkpoint array or of a store that shows no error fires no detector. -/
def State.detect (s : State) (n det : Nat) (find : ErrorFind) : State :=
  let last := s.setFld (Reg.rtyStat (s.physOf n)) 28 4 det
  if 8 ≤ det ∧ hsiaoDecode find.err = .clean then s
  else if det = 8 then (if s.coreValid n && s.phase == phService then last.storeError n find.err else s)
  else if !s.active n || decide (det = 0 ∨ 9 < det) then s
  else if det ≤ 2 then s.detectCache n det find.uncorrectable find.hit
  else if det ≤ 7 then s.detectRetry n det find.uncorrectable
  else if hsiaoDecode find.err = .ue then last.startTransplant n 24
  else last

/-- RETRY: R210-R214, R230. -/
def execRetry (n : LCore) (detector : BitVec 4) (find : ErrorFind) (s : State) :
    Host.Outcome State Fault Refusal := .next (s.whole (fun s => s.detect n detector.toNat find))

/-- RETRY_RATE_THRESHOLD: R215: at a retirement the transplant starts; an instruction that is being retried first
retires. -/
def execRetryRateThreshold (n : LCore) (s : State) : Host.Outcome State Fault Refusal :=
  .next (if s.active n = true ∧ s.rateReached n = true then
      if (s.core n).attempts = 0 then s.startTransplant n 25 else s.setCore n { s.core n with thrHit := true }
    else s)

/-! ### Transplant (R216-R223) -/

/-- R219: the failing core's lines: dirty ones go home, unreadable ones as POIS; clean ones are dropped. -/
def State.evacuate (s : State) (n : Nat) (unreadable : List Nat) : State :=
  let p := s.physOf n
  let s := ((s.physCore p).l2.map (·.1)).foldl (fun s l =>
    if ((s.physCore p).l2.find l).map (·.st) = some .m ∧ (l ∈ unreadable ∨ s.mem.l2Bad p l ≠ 0) then
      (s.l2Drop p l).lostLine n l 0x07 0xD (s.mem.l2Bad p l)
    else s.writeBack p l false) s
  (s.coh.sf.map (·.1)).foldl (fun s l =>
    let e := s.sfEntry l
    s.setSf l { e with pres := e.pres &&& ~~~(BitVec.ofNat 48 (2 ^ p)) }) s

/-- R216, R222: the fallow cores in the order of choice: the failing core's chiplet first, and none that another
transplant holds. -/
def State.targets (s : State) (p : Nat) : List Nat :=
  let fs := (List.range 48).filter (fun q => s.flag Reg.fallowStat q && !s.flag Reg.failedMap q &&
    !s.cores.any (fun e => e.2.target == some q))
  fs.filter (fun q => q / 12 == p / 12) ++ fs.filter (fun q => q / 12 != p / 12)

/-- R217: step 4's check of a target's control store against the Granary copy. -/
def State.storeMatches (s : State) (q : Nat) : Bool :=
  (s.physCore q).ucode.all (fun e => e.2.good && (List.range 3).all (fun j =>
    s.mem.copyAt (3 * e.1 + j) == copyWord e.2.w j))

/-- R221: the logical core checkstops. -/
def State.lostCore (s : State) (n : Nat) : State :=
  let s := s.setCore n { s.core n with run := .checkstopped, target := none }
  let s := s.setFlag (Reg.lcoreMap n) 7 false
  ((s.raise (s.physOf n)).coreFault n 0x04 0xF none).crstWaiting n

/-- R217: steps 1 to 4. -/
def State.transplantSteps (s : State) (n : Nat) (ckptOk : Bool) (refused unreadable : List Nat) : State :=
  let p := s.physOf n
  let s := (s.drainAll n).evacuate n unreadable
  let s := s.setFlag (Reg.cctl p) 1 false
  if !ckptOk then s.lostCore n
  else
    let ts := s.targets p
    let fails (q : Nat) : Bool := refused.contains q || !s.storeMatches q
    let s := (ts.takeWhile fails).foldl (fun s q => s.setFlag Reg.failedMap q true) s
    match ts.dropWhile fails with
    | [] => s.lostCore n
    | t :: _ =>
      (s.setPhys t { PhysCore.reset with ucode := (s.physCore t).ucode }).setCore n { s.core n with target := some t }

/-- TRANSPLANT: R217, R219, R221. -/
def execTransplant (n : LCore) (ckptOk : Bool) (refused : List PCore) (unreadable : List LineAddr) (s : State) :
    Host.Outcome State Fault Refusal :=
  .next (s.whole (fun s =>
    if (s.core n).run = .paused ∧ (s.core n).target = none then
      s.transplantSteps n ckptOk (refused.map (·.val)) (unreadable.map (·.toNat))
    else s))

/-- R213, R217, R218, R253: step 5, and the first issue on the target; an answer that came in the pause is taken. -/
def State.resumeOn (s : State) (n t : Nat) : State :=
  let p := s.physOf n
  let cctl := s.reg (Reg.cctl p)
  let s := s.coreFault n 0x02 0xF none
  let s := (s.setFld (Reg.lcoreMap n) 0 6 t).setFlag Reg.fallowStat t false
  let s := s.setFlag Reg.failedMap p true
  let s := s.setReg (Reg.cctl t) (cctl &&& 5#64)
  let s := s.setCore n { s.core n with run := .running, target := none, attempts := 0, retryTimes := [], thrHit := false,
                                        resv := none }
  let s := match (s.core n).devLoad with
    | some d => if d.answer.isSome then s.devFinish n d else s
    | none => s
  s.crstWaiting n

/-- TRANSPLANT_RESUME: R218. -/
def execTransplantResume (n : LCore) (s : State) : Host.Outcome State Fault Refusal :=
  .next (s.whole (fun s =>
    match (s.core n).run, (s.core n).target with
    | .paused, some t => s.resumeOn n t
    | _, _ => s))

/-! ### Control-store reloads (R205, R206) -/

/-- R201, R205: the MCHK of a microword that cannot be had: the routine in progress leaves its record; a vendor routine one
that begins it again under the entries sampled, unless its instruction has a record already (log 18). -/
def State.badReload (s : State) (n addr : Nat) : State :=
  let before := s
  let s := s.coreFault n 0x09 0xC none
  let c := s.core n
  let kept := c.save c.curId
  let m : MicroSave := match c.routine with
    | some r => r.record (s.cur n).pc r.upc
    | none =>
      if kept.valid && kept.pc == (s.cur n).pc then kept
      else { MicroSave.none with valid := true, pc := (s.cur n).pc, upc := BitVec.ofNat 14 addr, entries := s.sampledTat }
  State.faultAt before (s.setRecord n m) n (badMicroword s n)

/-- CONTROL_STORE_RELOAD: R205: core `n` meets a microword whose parity fails; one marked bad before raises its MCHK
again. -/
def State.reload (s : State) (n addr : Nat) (copyOk parityOk : Bool) : State :=
  if (s.physCore (s.physOf n)).badU.contains addr then s.badReload n addr
  else
    let (s, ok) := s.reloadWord n addr copyOk parityOk
    if ok then s else s.badReload n addr

/-- CONTROL_STORE_RELOAD: R205. -/
def execControlStoreReload (n : LCore) (addr : BitVec 14) (copyOk parityOk : Bool) (s : State) :
    Host.Outcome State Fault Refusal :=
  .next (s.whole (fun s => if s.runnable n then s.reload n addr.toNat copyOk parityOk else s))

end Sys2Proof.Machine
end

