-- ==== Sys2Proof/Machine/Fabric.lean ====
section
/-! DEFINITION. The fabric messages one at a time (R259-R271), the slice arbiter, and the timed drains of the
combining and merge buffers (R282, R300). -/

namespace Sys2Proof.Machine

/-- The fabric carries messages: SERVICE or RECOVERY, its supply not lost. -/
def State.fabricOn (s : State) : Bool :=
  (s.phase == phService || s.phase == phRecovery) && s.stop != .vinLoss && s.stop != .trip && s.stop != .startup

/-- R248: the logical core of physical core `p` that may make accesses: executing, and no sweep of its caches. -/
def State.sender (s : State) (p : Nat) : Option Nat :=
  match s.logicalOf p with
  | some n => if s.fabricOn && s.active n && !s.flag (Reg.cctl p) 1 then some n else none
  | none => none

/-- The logical core of physical core `p` that may request lines for its caches. -/
def State.requester (s : State) (p : Nat) : Option Nat := if s.cachesOn p then s.sender p else none

/-- A master that is a core makes accesses only while it may. -/
def State.mayAccess (s : State) (master : Nat) : Bool :=
  s.fabricOn && (master / 0x100 != 0 || (s.sender master).isSome)

/-- R169: the line lies in WB memory of the parish of core `n`. -/
def State.wbLine (s : State) (n line : Nat) : Bool :=
  (s.mapping (64 * line)).any (fun r => r.parish == s.parishOf n && r.ty == .wb)

/-- A request of this master for the line is waiting or open. -/
def State.asked (s : State) (m line : Nat) : Bool :=
  s.coh.retryQ.any (fun r => r.master.toNat == m && r.line == line) ||
    (match s.coh.txns.find line with
     | some t => t.req.master.toNat == m
     | none => false)

/-- Stored bits of a line's burst flip before it is read (R293, log 74). -/
def State.burstFlip (s : State) (line : Nat) (err : BurstErr) : State :=
  if err = [] then s else { s with mem := s.mem.flipBurst line err }

/-- R232, R250: a request that will fill a line first takes an entry of its set, whose dirty victim goes home. -/
def State.fillRequest (s : State) (p line : Nat) (k : ReqKind) : State :=
  if s.queueFull line then s
  else
    match s.l2Room p line with
    | (s, none) => s
    | (s, some w) =>
      (s.setPhys p { s.physCore p with fills := (s.physCore p).fills.ins line (Fin.ofNat 16 w) }).request
        { kind := k, master := BitVec.ofNat 12 (masterId 0 p), line := line }

/-- A cache request of core `p`; `held` tells whether the L2's state of the line calls for it (R266). -/
def State.cacheRequest (s : State) (p line : Nat) (k : ReqKind) (err : BurstErr) (held : Option L2St → Bool) : State :=
  match s.requester p with
  | none => s
  | some n =>
    if s.wbLine n line && held (((s.physCore p).l2.find line).map (·.st)) && !s.asked (masterId 0 p) line &&
        !s.wbkOut p line then
      let s := s.burstFlip line err
      match k with
      | .upg => s.request { kind := .upg, master := BitVec.ofNat 12 (masterId 0 p), line := line }
      | _ => s.fillRequest p line k
    else s

/-- RDS: R265. -/
def execRds (p : PCore) (line : LineAddr) (err : BurstErr) (s : State) : Host.Outcome State Fault Refusal :=
  .next (s.whole (fun s => s.cacheRequest p line.toNat .rds err (· == none)))

/-- RDO: R265. -/
def execRdo (p : PCore) (line : LineAddr) (err : BurstErr) (s : State) : Host.Outcome State Fault Refusal :=
  .next (s.whole (fun s => s.cacheRequest p line.toNat .rdo err (· == none)))

/-- UPG: R265; a line of a mirrored parish is never M (R234). -/
def execUpg (p : PCore) (line : LineAddr) (s : State) : Host.Outcome State Fault Refusal :=
  .next (s.whole (fun s => if s.mirroredPa (64 * line.toNat) then s
    else s.cacheRequest p line.toNat .upg [] (· == some .s)))

/-- R320: a Commons reads the words of `mask` of a line itself, after their merge entries. -/
def State.commonsWords (s : State) (line : Nat) (mask : BitVec 8) (w : Who) : State × List Word :=
  (List.range 8).foldl (fun (r : State × List Word) i =>
    if mask.getLsbD i then
      let d := (r.1.drainMerge (8 * line + i)).cmnRead (8 * line + i) w
      (d.1, r.2 ++ [d.2])
    else (r.1, r.2 ++ [Word.raw0])) (s, [])

/-- R265: the master reads the line at home: a core does so on UC memory or with its caches off only. -/
def State.readsAtHome (s : State) (master line : Nat) : Bool :=
  master / 0x100 != 0 || !s.cachesOn master ||
    (match s.logicalOf master with
     | some n => !s.wbLine n line
     | none => true)

/-- RDH: R265, R267, R320. -/
def State.rdh (s : State) (master line : Nat) (mask : BitVec 8) (err : BurstErr) : State :=
  if !s.mayAccess master then s
  else if isCommons (64 * line) then
    let w : Who :=
      { master := master, acc := (ReqKind.rdh mask).acc (master / 0x100 == 0), parish := s.ownerOf (64 * line) }
    let (s, ws) := s.commonsWords line mask w
    (s.noteWords line mask ws w).send (.words mask ws) master line noTxn
  else if isDram (64 * line) && !s.asked master line && s.readsAtHome master line then
    (s.burstFlip line err).request { kind := .rdh mask, master := BitVec.ofNat 12 master, line := line }
  else s

/-- RDH: R265. -/
def execRdh (master : BitVec 12) (line : LineAddr) (mask : BitVec 8) (err : BurstErr) (s : State) :
    Host.Outcome State Fault Refusal := .next (s.whole (fun s => s.rdh master.toNat line.toNat mask err))

/-- R311, R45: an atomic made at home has found a poisoned word, which core `n` consumes: MCHK, X the word's parish
address. -/
def State.atmPoison (s : State) (n : Nat) (op : AtmOp) (w : Nat) (old : Word) : State :=
  if !atmReads op || !old.poisoned || !s.active n then s
  else
    let acc := (ReqKind.atm op w old old).acc true
    let src := if old.tag = Tag.pois then 0x12 else 0x13
    let ea := match (s.mapping (8 * w)).find? (fun r => r.parish == s.parishOf n) with
      | some r => r.parishAddr (8 * w)
      | none => 0
    State.faultAt s (s.coreFault n src acc (some (8 * w))) n
      { vec := vMchk, acc := acc, detail := src * 256, ea := some (ea : Int) }

/-- R320: an atomic performed by the Commons bank of its word. -/
def State.commonsAtm (s : State) (n p : Nat) (op : AtmOp) (w : Nat) (a x : Word) : State :=
  let (s, old) := (s.drainMerge w).cmnRead w
    { master := masterId 0 p, acc := (ReqKind.atm op w a x).acc true, parish := some (s.parishOf n) }
  let (new, wr) := atmNew op old a x
  let wr := wr && (op != .stc || s.homeResv p (w / 8))
  let s := if atmReads op && old.poisoned then s else s.homeResvAfter p (w / 8) op
  let s := if wr then s.homeWriteWord w new (masterId 0 p) ((ReqKind.atm op w a x).acc true) else s
  s.atmPoison n op w old

/-- R290: the atomics of core `n` on this line are made at home. -/
def State.atmAtHome (s : State) (n p line : Nat) : Bool :=
  !s.cachesOn p || !s.wbLine n line || s.mirroredPa (64 * line)

/-- ATM: R265, R280, R290; without a mirror credit the write is held (R459). -/
def State.atm (s : State) (n p : Nat) (op : AtmOp) (w : Nat) (a x : Word) (err : BurstErr) : State :=
  if isCommons (8 * w) then s.commonsAtm n p op w a x
  else if isDram (8 * w) && s.atmAtHome n p (w / 8) && !s.asked (masterId 0 p) (w / 8) then
    ((s.waitIf (op != .ldr && s.mirrorFull (w / 8))).burstFlip (w / 8) err).request
      { kind := .atm op w a x, master := BitVec.ofNat 12 (masterId 0 p), line := w / 8 }
  else s

/-- ATM: R265, R280, R290. -/
def execAtm (p : PCore) (op : AtmOp) (loc : AtmAddr) (a x : Word) (s : State) :
    Host.Outcome State Fault Refusal :=
  .next (s.whole (fun s => match s.sender p with
    | some n => s.atm n p op (loc.pa.toNat / 8) a x loc.err
    | none => s))

/-- R237: the master of the Granary stream that has fetched the line ahead; else the first channel port (log 76). -/
def State.pfgMaster (s : State) (line : Nat) : Nat :=
  match s.mem.gstreams.find? (fun t => t.2.ahead.contains line) with
  | some t => t.2.ins
  | none => masterId 1 0

/-- PFG: R237, R265. -/
def execPfg (line : LineAddr) (err : BurstErr) (s : State) : Host.Outcome State Fault Refusal :=
  .next (s.whole (fun s => if s.fabricOn then
      (if isDram (64 * line.toNat) then s.burstFlip line.toNat err else s).pfg (s.pfgMaster line.toNat) line.toNat
    else s))

/-- Stores at the head of the queue that the core's own L2 takes are performed (R277). -/
def State.runL2Heads : Nat → State → Nat → State
  | 0, s, _ => s
  | k + 1, s, n =>
    let c := s.core n
    match c.sq with
    | e :: rest =>
      if e.path = .l2 then State.runL2Heads k ((s.setCore n { c with sq := rest }).performStore n e) n else s
    | [] => s

/-- R266, R279: the store at the head of the queue of core `n` is sent by its path, one at a time; a WRT of a line that
the L2 lacks asks for the line first, and with the caches off goes as a WRH. The stores of a core that is failing go with
the transplant (R217). -/
def State.sendStore (s : State) (n : Nat) (path : StorePath) : State :=
  let p := s.physOf n
  let s := State.runL2Heads (s.core n).sq.length s n
  let c := s.core n
  match c.sq with
  | [] => s
  | e :: rest =>
    let line := e.word / 8
    if e.path ≠ path then s
    else if isCommons (8 * e.word) then (s.setCore n { c with sq := rest }).performStore n e
    else if s.asked (masterId 0 p) line || c.run == .paused then s
    else if path = .wrt ∧ s.cachesOn p = true ∧ ((s.physCore p).l2.find line).isNone = true then
      s.fillRequest p line .rdo
    else
      let k : ReqKind := if path = .wrt ∧ s.cachesOn p = true then .wrt e else .wrh e
      s.request { kind := k, master := BitVec.ofNat 12 (masterId 0 p), line := line }

/-- WRT: R234, R265, R269. -/
def execWrt (n : LCore) (s : State) : Host.Outcome State Fault Refusal :=
  .next (s.whole (fun s => if s.fabricOn && s.coreValid n then s.sendStore n .wrt else s))

/-- R39, R300: the bytes of a DMA master's write to a line of a Commons. -/
def State.commonsLine (s : State) (line : Nat) (mask : BitVec 64) (bytes : List Byte) (m : Nat) : State :=
  (List.range 8).foldl (fun s i =>
    let part := mask.extractLsb' (8 * i) 8
    let bs := (List.range 8).map (fun k => bytes.getD (8 * i + k) 0)
    if part = 0#8 then s
    else if part = 0xFF#8 then s.homeWriteWord (8 * line + i) (mergeBytes Word.raw0 bs 0xFF#8) m
    else
      let (s, lost) := s.narrowWrite (8 * line + i) bs part m
      if lost then s.partLost (8 * line + i) m else s) s

/-- A DMA master's WRH (R39, R300); without a mirror credit it is held (R459). -/
def State.dmaWrh (s : State) (master : BitVec 12) (line : Nat) (mask : BitVec 64) (bytes : List Byte) : State :=
  if isCommons (64 * line) then
    if inCommons (8 * line) then s.commonsLine line mask bytes master.toNat else s
  else if isDram (64 * line) && !s.asked master.toNat line then
    (s.waitIf (s.mirrorFull line)).request { kind := .wrhDma mask bytes, master := master, line := line }
  else s

/-- WRH: R265, R277. -/
def execWrh (src : WrhSrc) (s : State) : Host.Outcome State Fault Refusal :=
  .next (s.whole (fun s => if !s.fabricOn then s
    else match src with
      | .core n => if s.coreValid n then s.sendStore n .wrh else s
      | .dma m line mask bytes => if m.toNat / 0x100 = 0 then s else s.dmaWrh m line.toNat mask bytes))

/-- R260: the write-backs of core `p` at a slice that are not acknowledged. -/
def State.wbksAt (s : State) (p slice : Nat) : Nat :=
  (s.coh.msgs.filter (fun m => s.wbkOut p m.line && m.p == p && m.txn == noTxn && sliceOf (64 * m.line) == slice)).length

def isWbk (m : Msg) : Bool :=
  match m.kind with
  | .wbk _ _ => true
  | _ => false

/-- WBK: R260, R270: a write-back in flight arrives; else a dirty line is sent, and arrives at once unless a snoop of
the line is on its way to the core. -/
def State.wbk (s : State) (p line : Nat) (keep : Bool) : State :=
  let mine (m : Msg) : Bool := isWbk m && m.p == p && m.line == line
  if s.coh.msgs.any mine then s.deliverFirst mine
  else
    match (s.physCore p).l2.find line with
    | none => s
    | some l =>
      if l.st ≠ .m ∨ 4 ≤ s.wbksAt p (sliceOf (64 * line)) then s
      else
        let (s, ws) := s.l2Out p line
        let s := if keep then s.l2Put p line { l with st := .e, data := ws } else (s.l2Drop p line).loseLine p line
        let snooped := s.coh.msgs.any (fun m => isSnoop m && m.p == p && m.line == line)
        let s := s.send (.wbk ws keep) p line noTxn
        if snooped then s else s.deliverFirst mine

/-- WBK: R265. -/
def execWbk (p : PCore) (line : LineAddr) (keep : Bool) (s : State) : Host.Outcome State Fault Refusal :=
  .next (s.whole (fun s => if s.fabricOn then s.wbk p line.toNat keep else s))

/-- The first message of a kind for a master and line reaches its receiver, or one that such a core sent. -/
def State.arrive (s : State) (m : Nat) (line : LineAddr) (f : MsgKind → Bool) : State :=
  s.whole (fun s => if s.fabricOn then s.deliverFirst (fun x => f x.kind && x.p == m && x.line == line.toNat) else s)

/-- A snoop arrives, unless the core delays its answer (R268, R289). -/
def State.arriveSnoop (s : State) (p : PCore) (line : LineAddr) (k : MsgKind) : State :=
  if s.heldOff p line.toNat then s else s.arrive p line (· == k)

/-- SNP-S: R268. -/
def execSnpS (p : PCore) (line : LineAddr) (s : State) : Host.Outcome State Fault Refusal :=
  .next (s.arriveSnoop p line .snpS)

/-- SNP-I: R268. -/
def execSnpI (p : PCore) (line : LineAddr) (s : State) : Host.Outcome State Fault Refusal :=
  .next (s.arriveSnoop p line .snpI)

/-- BINV: R268, R271. -/
def execBinv (p : PCore) (line : LineAddr) (s : State) : Host.Outcome State Fault Refusal :=
  .next (s.arriveSnoop p line .binv)

/-- R265: DATA, a line or words. -/
def MsgKind.isData (k : MsgKind) : Bool :=
  match k with
  | .data _ _ => true
  | .words _ _ => true
  | _ => false

def MsgKind.isAck (k : MsgKind) : Bool :=
  match k with
  | .ack _ _ => true
  | _ => false

def MsgKind.isSack (k : MsgKind) : Bool :=
  match k with
  | .sack _ => true
  | _ => false

def MsgKind.isSdata (k : MsgKind) : Bool :=
  match k with
  | .sdata _ => true
  | _ => false

/-- DATA: R266. -/
def execData (master : BitVec 12) (line : LineAddr) (s : State) : Host.Outcome State Fault Refusal :=
  .next (s.arrive master.toNat line MsgKind.isData)

/-- GNT: R266. -/
def execGnt (p : PCore) (line : LineAddr) (s : State) : Host.Outcome State Fault Refusal :=
  .next (s.arrive p line (· == .gnt))

/-- What the ACK of an ATM brings its core: the operation, the word and the value it found. -/
def State.ackOld (s : State) (p line : Nat) : Option (AtmOp × Nat × Word) :=
  match takeMsg (fun m => m.kind.isAck && m.p == p && m.line == line) s.coh.msgs with
  | some (m, _) =>
    match m.kind, (s.coh.txns.find m.txn).map (·.req.kind) with
    | .ack _ (some old), some (ReqKind.atm op w _ _) => some (op, w, old)
    | _, _ => none
  | none => none

/-- ACK: R264, R266, R279: the store leaves its queue, and what the L2 itself takes follows where nothing keeps it waiting; poison that an ATM found is
consumed (R311). -/
def State.ackArrive (s : State) (m line : Nat) : State :=
  if !s.fabricOn then s
  else
    let t := s.deliverFirst (fun x => x.kind.isAck && x.p == m && x.line == line)
    match (if m / 0x100 = 0 then t.logicalOf m else none) with
    | none => t
    | some n =>
      let u := State.runL2Heads (t.core n).sq.length t n
      let t := if u.waiting.isSome then t else u
      match s.ackOld m line with
      | some (op, w, old) => t.atmPoison n op w old
      | none => t

/-- ACK: R265. -/
def execAck (master : BitVec 12) (line : LineAddr) (s : State) : Host.Outcome State Fault Refusal :=
  .next (s.whole (fun s => s.ackArrive master.toNat line.toNat))

/-- SACK: R267. -/
def execSack (p : PCore) (line : LineAddr) (s : State) : Host.Outcome State Fault Refusal :=
  .next (s.arrive p line MsgKind.isSack)

/-- SDATA: R267. -/
def execSdata (p : PCore) (line : LineAddr) (s : State) : Host.Outcome State Fault Refusal :=
  .next (s.arrive p line MsgKind.isSdata)

/-- MISS: R267. -/
def execMiss (p : PCore) (line : LineAddr) (s : State) : Host.Outcome State Fault Refusal :=
  .next (s.arrive p line (· == .miss))

/-- NDATA-WBP: R270. -/
def execNdataWbp (p : PCore) (line : LineAddr) (s : State) : Host.Outcome State Fault Refusal :=
  .next (s.arrive p line (· == .ndataWbp))

/-- ARBITER_ADMIT: R259, R262, R263, R273, R475. -/
def State.arbiterAdmit (s : State) (slice : Nat) (err : SramErr) : State :=
  let s := s.noteCap slice
  match pickReq s [] (s.retryAt slice) with
  | none => s
  | some (r, _) =>
    let (t, ok) := (s.bookFlip r.line err).bookMeet r.line r.master.toNat (r.kind.acc r.coreOf.isSome)
    if ok then t.admitNext slice else t

/-- ARBITER_ADMIT: R259. -/
def execArbiterAdmit (slice : Fin 64) (err : SramErr) (s : State) : Host.Outcome State Fault Refusal :=
  .next (s.whole (fun s => if s.fabricOn then s.arbiterAdmit slice err else s))

/-- NT_FLUSH_TIMEOUT: R282: the oldest combining entry goes home. -/
def execNtFlushTimeout (n : LCore) (s : State) : Host.Outcome State Fault Refusal :=
  .next (s.whole (fun s => match (s.core n).nt with
    | e :: _ => if s.fabricOn then s.ntFlush n (fun x => x.line == e.line) else s
    | [] => s))

/-- MERGE_DRAIN_TIMEOUT: R300. -/
def execMergeDrainTimeout (word : BitVec 49) (s : State) : Host.Outcome State Fault Refusal :=
  let w := word.toNat
  .next (s.whole (fun s => if s.fabricOn && s.mem.merge.any (fun e => e.word == w) then
    (if isCommons (8 * w) then s else s.settle (w / 8)).drainMerge w else s))

end Sys2Proof.Machine
end

