-- ==== Sys2Proof/Machine/Stored.lean ====
section
/-! DEFINITION. Stored data: the gleaner (R304-R307), mends (R309, R310), sweeps of the SRAMs (R297, R298, R475),
and the Commons banks (R320-R323). -/

namespace Sys2Proof.Machine

/-! ### The gleaner's place (R296, R315) -/

/-- R299: the gleaner as a master. -/
def gleaner (ix : Nat) : Nat := masterId 4 ix

/-- R296: the first line of memory channel `c`. -/
def State.firstLine (s : State) (c : Nat) : Nat := 4 * (s.installed.findIdx (· == c))

/-- R296: the line of channel `c` after `l`, and whether the pass wraps there. -/
def State.lineAfter (s : State) (c l : Nat) : Nat × Bool :=
  let n := if l % 4 < 3 then l + 1 else (l / 4 + s.installed.length) * 4
  if 64 * n < s.dramEnd then (n, false) else (s.firstLine c, true)

/-- The line of channel `c` the gleaner takes next. -/
def State.gleanNext (s : State) (c : Nat) : Nat := (s.mem.glnNext.find c).getD (s.firstLine c)

/-- R306, R315, R519: the gleaner has scrubbed `l` of channel `c`. -/
def State.gleaned (s : State) (c l : Nat) : State :=
  let (n, wrap) := s.lineAfter c l
  let s := { s with mem := { s.mem with glnNext := s.mem.glnNext.ins c n } }
  let s := s.tal 0xE c
  if s.installed.head? = some c then
    let s := s.setFld Reg.glnStat 0 36 n
    if wrap then (s.countMod Reg.glnStat 40 24).raise 124 else s
  else s

/-! ### DRAM lines (R307, R309) -/

/-- R306: the gleaner has a transaction open on a line of this kind. -/
def State.gleanOpen (s : State) (f : Nat → Bool) : Bool :=
  s.coh.txns.any (fun t => t.2.req.master.toNat / 0x100 == 4 && f t.1)

/-- A transaction of the gleaner stays open on a line that is being mended (R309): it reads no word for anyone. -/
def State.gleanHold (s : State) (line m : Nat) : State :=
  if s.mem.mends.any (fun x => x.1 == line) && (s.coh.txns.find line).isNone then
    s.setTxn line { req := { kind := .rdh 0, master := BitVec.ofNat 12 m, line := line }, way := none, await := [],
                    wbp := [], got := [], victim := none, answered := false }
  else s

/-- R304: a scrub has written corrected data back to a location. -/
def State.noteScrub (s : State) (k : Nat) : State :=
  { s with mem := { s.mem with scrubbed := s.mem.scrubbed.filter (· ≠ k) ++ [k] } }

/-- R307: UE or ADDR in a line the Granary holds: its data goes to DRAM. -/
def State.granaryMend (s : State) (line : Nat) (g : GranLine) (w : Who) (e : BurstErr) : State :=
  let s := s.dramWrite line g.data
  let s := { s with mem := { s.mem with gran := s.mem.gran.ins line { g with dirty := false },
                                        granDirty := s.mem.granDirty.filter (· ≠ line) } }
  (s.memFault 0x20 line w e).remapLine line w

/-- R300, R307: the gleaner reads one line, and writes a corrected burst back. -/
def State.gleanLine (s : State) (c line : Nat) : State :=
  let w : Who := { master := gleaner c, acc := 0xA, parish := s.ownerOf (64 * line) }
  match (s.drainLine line).burstDecode line w with
  | (s, .words ws) =>
    let s := s.noteWords line 0xFF#8 ws w
    if s.mem.burstErr line = [] then s else (s.dramWrite line ws).noteScrub line
  | (s, .lost src e) =>
    let s := s.granCheck line 0xFF#8 w
    match s.mem.gran.find line with
    | some g => s.granaryMend line g w e
    | none => if s.canMend line then (s.openMend line src w e).gleanHold line (gleaner c) else s.poisonLine line src w e

/-- GLEANER_LINE: R306, R307; it waits while the line has a transaction open, or the gleaner one on the channel. -/
def execGleanerLine (ch : Fin 12) (err : BurstErr) (s : State) : Host.Outcome State Fault Refusal :=
  let l := s.gleanNext ch.val
  .next (s.whole (fun s => if s.fabricOn && s.fld Reg.glnCtl 0 8 != 0 && s.installed.contains ch.val &&
      decide (64 * l < s.dramEnd) && !s.lineBusy l && !s.gleanOpen (fun x => s.channelOf (64 * x) == ch.val) then
    ((s.burstFlip l err).gleanLine ch.val l).gleaned ch.val l else s))

/-- R309, R310: the mend of a line ends: the requests waiting on it go on. -/
def State.endMend (s : State) (line : Nat) : State :=
  let s := { s with mem := { s.mem with mends := s.mem.mends.filter (fun m => m.1 ≠ line) } }
  match s.coh.txns.find line with
  | none => s.sinkLine line
  | some t => if t.req.kind = .rdh 0#8 then s.closeTxn line else State.advance 3 s line

/-- Who met the error that a mend repairs. -/
def State.mendWho (s : State) (line : Nat) (e : MendErr) : Who :=
  { master := e.master, acc := e.acc, parish := s.ownerOf (64 * line) }

/-- R309, R441: the partner's copy is written. -/
def State.mended (s : State) (line : Nat) (e : MendErr) (ws : List Word) : State :=
  let w := s.mendWho line e
  let s := s.dramWrite line ws
  let s := match s.mem.gran.find line with
    | some _ => s.granPut line 0xFF#8 ws false
    | none => s
  (((s.logPages line e.master).memFault 0x23 line w e.err).remapLine line w).endMend line

/-- R310: the line cannot be mended. -/
def State.mendFailed (s : State) (line : Nat) (e : MendErr) : State :=
  (s.poisonLine line e.src (s.mendWho line e) e.err).endMend line

/-- The open mend of a line ends with the partner's copy, or without one. -/
def State.mendReply (s : State) (line : Nat) (copy : Option (List Word)) : State :=
  match s.mem.mends.find? (fun m => m.1 == line) with
  | none => s
  | some (_, e) =>
    match copy with
    | some ws => s.mended line e ws
    | none => s.mendFailed line e

/-- R310: the partner is lost: every open mend fails. -/
def State.mendsLost (s : State) : State := (s.mem.mends.map (·.1)).foldl (fun s l => s.mendReply l none) s

/-- MEND_RESPONSE: R309, R310. -/
def execMendResponse (line : LineAddr) (ok : Bool) (words : List Word) (s : State) :
    Host.Outcome State Fault Refusal :=
  .next (s.whole (fun s => s.mendReply line.toNat (if ok ∧ words.length = 8 then some words else none)))

/-! ### The SRAM sweeps (R297, R298, R304, R475) -/

/-- R299: the gleaner as it sweeps an SRAM. -/
def State.sweeper (s : State) (line : Nat) : Who := { master := gleaner 0, acc := 0xA, parish := s.ownerOf (64 * line) }

/-- R298: a clean Granary line that was dropped is read again from DRAM. -/
def State.granReread (s : State) (line : Nat) : State :=
  match s.burstRead line (s.sweeper line) with
  | (s, some ws) => s.granPut line 0xFF#8 ws false
  | (s, none) => s.gleanHold line (gleaner 0)

/-- R300, R304, R307: a word of a Granary line is read by the sweep, and a corrected one written back. -/
def State.sweepGran (s : State) (line w : Nat) (err : SramErr) : State :=
  let s := s.drainMerge (8 * line + w)
  if (s.mem.gran.find line).isNone then s
  else
    let home := s.mem.granHome line w
    let s := { s with mem := s.mem.flipCell (s.mem.granCellOf line w) err }
    let s := s.granRead line w (s.sweeper line)
    let s := s.noteWords line (BitVec.ofNat 8 (2 ^ w)) (((s.mem.gran.find line).map (·.data)).getD []) (s.sweeper line)
    let cell := s.mem.granCellOf line w
    if (s.mem.gran.find line).isNone then (s.granReread line).noteScrub home
    else if s.mem.cellErr cell = 0 then s
    else ({ s with mem := s.mem.setCell cell 0 }).noteScrub home

/-- R304, R307: a word of a Commons that the sweep has corrected is written back. -/
def State.scrubCmn (s : State) (k : Nat) : State :=
  let cell := s.mem.cmnCell k
  if s.mem.cellErr cell = 0 then s else ({ s with mem := s.mem.setCell cell 0 }).noteScrub k

/-- R302, R304: the Commons word at `k` is read by the sweep. -/
def State.sweepWord (s : State) (k : Nat) (err : SramErr) : State :=
  if (s.mem.cmnValid.find k).isNone then s
  else
    let s := { s with mem := s.mem.flipCell (s.mem.cmnCell k) err }
    let (s, x) := s.cmnRead k (s.sweeper (k / 8))
    (s.noteWords (k / 8) (BitVec.ofNat 8 (2 ^ (k % 8))) (List.replicate 8 x) (s.sweeper (k / 8))).scrubCmn k

/-- R300, R307: a word of Commons `cn` is read by the sweep. -/
def State.sweepCmn (s : State) (cn w : Nat) (err : SramErr) : State :=
  let k := commonsBase / 8 + cn * 2 ^ 20 + w
  (s.drainMerge k).sweepWord k err

/-- R475: a snoop-filter entry is read by the sweep; with `later` its bits flip after that. One that names no line has no
address to give. -/
def State.sweepSf (s : State) (sl line : Nat) (later : Bool) (err : SramErr) : State :=
  if sliceOf (64 * line) ≠ sl then s
  else if later then (s.bookLook line (gleaner 0) 0xA).bookFlip line err
  else if (s.coh.sf.find line).isSome then (s.bookFlip line err).bookLook line (gleaner 0) 0xA
  else (s.bookRead { src := 0x2B, acc := 0xA, master := gleaner 0, parish := s.ownerOf (64 * line), pa := none, synd := 0 } err).1

/-- GLEANER_SRAM_SWEEP: R306, R475. -/
def execGleanerSramSweep (w : SramWord) (err : SramErr) (s : State) : Host.Outcome State Fault Refusal :=
  .next (s.whole (fun s => if !s.fabricOn || s.fld Reg.glnCtl 0 8 == 0 then s
    else match w with
      | .granary line i =>
        if s.lineBusy line.toNat || s.gleanOpen (fun x => sliceOf (64 * x) == sliceOf (64 * line.toNat)) then s
        else s.sweepGran line.toNat i err
      | .commons cn i => s.sweepCmn cn i.toNat err
      | .snoop sl line later => s.sweepSf sl line.toNat later err))

/-! ### Commons banks (R320-R323) -/

/-- R322: the class of a request by its master's kind; the Commons' own rank with the request that caused them. -/
def reqRank (r : CmnReq) : Nat :=
  let kind := r.master.toNat / 0x100
  match (if kind = 7 then r.cause.toNat else kind) with
  | 0 => 0
  | 1 => 1
  | 2 => 2
  | 3 => 2
  | _ => 3

/-- R322: `a` goes before `b`: class, then age, then the lowest master ID. -/
def reqBefore (a b : CmnReq) : Bool :=
  decide (reqRank a < reqRank b) ||
    (reqRank a == reqRank b && (decide (b.age < a.age) || (a.age == b.age && decide (a.master.toNat < b.master.toNat))))

/-- The best of a list of held requests. -/
def bestHeld : List CmnHeld → Option CmnHeld
  | [] => none
  | h :: hs =>
    match bestHeld hs with
    | none => some h
    | some g => if reqBefore g.req h.req then some g else some h

/-- R477: the access type of a read of a Commons bank by master `m`. -/
def cmnReadAcc (m : Nat) : Nat :=
  match m / 0x100 with
  | 0 => 1
  | 4 => 0xA
  | 7 => 0xF
  | _ => 8

/-- R39, R320: the bank accesses one word for a request; what a master that is no core writes is RAW. -/
def State.cmnWordAccess (s : State) (w : Nat) (r : CmnReq) (mask : BitVec 8) (v : Word) : State :=
  let m := r.master.toNat
  let v := if m / 0x100 = 0 then v else Word.raw v.val
  let who : Who := { master := m, acc := cmnReadAcc m, parish := none }
  if mask = 0#8 then s
  else if !r.write then
    let (s, x) := (s.drainMerge w).cmnRead w who
    s.noteWords (w / 8) (BitVec.ofNat 8 (2 ^ (w % 8))) (List.replicate 8 x) who
  else if mask = 0xFF#8 then s.homeWriteWord w v m
  else
    let (s, lost) := s.narrowWrite w (bytesOf v.val) mask m
    if lost then s.partLost w m else s

/-- R297: stored bits of a Commons word flip. -/
def State.cmnFlip (s : State) (w : Nat) (err : SramErr) : State :=
  if err = 0 ∨ (s.mem.cmnValid.find w).isNone then s else { s with mem := s.mem.flipCell (s.mem.cmnCell w) err }

/-- R320, R323: an access that is granted; the bits that flip stand in its first word. -/
def State.cmnAccess (s : State) (cn : Nat) (r : CmnReq) : State :=
  let w := commonsBase / 8 + cn * 2 ^ 20 + r.word.toNat
  let s := s.cmnFlip w r.err
  (s.cmnWordAccess w r (r.mask.extractLsb' 0 8) r.data).cmnWordAccess (w + 1) r (r.mask.extractLsb' 8 8) r.data2

def cmnKey (cn bank : Nat) : Nat := 64 * cn + bank

def State.cmnWaiting (s : State) (cn bank : Nat) : List CmnHeld := SMap.get [] s.mem.cmnHeld (cmnKey cn bank)

def State.setWaiting (s : State) (cn bank : Nat) (hs : List CmnHeld) : State :=
  { s with mem := { s.mem with cmnHeld := s.mem.cmnHeld.set [] (cmnKey cn bank) hs } }

/-- R323: the other bank an access needs. -/
def secondBank (r : CmnReq) : Option Nat :=
  if r.mask.extractLsb' 8 8 = 0#8 then none else some ((r.word.toNat + 1) % 64)

/-- The same access of the same master, at either of its banks. -/
def sameReq (a b : CmnReq) : Bool := { a with age := 0 } == { b with age := 0 }

/-- A request that is held over to the next cycle. -/
def CmnHeld.over1 (h : CmnHeld) : CmnHeld := { req := { h.req with age := h.req.age + 1 }, denied := h.denied + 1 }

/-- R322: CORE_FIRST. -/
def State.coreFirst (s : State) (cn : Nat) : Bool := s.fld (Reg.cmnCtl cn) 0 2 == 1

/-- R322: the non-core request that has been denied for 256 cycles, if there is one. -/
def State.breakerDue (s : State) (cn bank : Nat) : Option CmnHeld :=
  if s.coreFirst cn then
    bestHeld ((s.cmnWaiting cn bank).filter (fun h => decide (reqRank h.req ≠ 0 ∧ 256 ≤ h.denied)))
  else none

/-- R322: the winner at a bank among the requests held over and the new ones. -/
def State.bankWinner (s : State) (cn bank : Nat) (fresh : List CmnHeld) : Option CmnHeld :=
  let held := s.cmnWaiting cn bank
  (s.breakerDue cn bank).or
    (if s.coreFirst cn then bestHeld (held ++ fresh) else (bestHeld held).or (bestHeld fresh))

/-- R323: what a grant of `r` at one bank leaves to do at the other: nothing, or the request also wins there, against the new
requests of the cycle too. -/
def State.winsOther (s : State) (cn : Nat) (r : CmnReq) (new : List CmnReq) : Bool :=
  match secondBank r with
  | none => true
  | some b =>
    match s.bankWinner cn b ((new.filter (fun q => q.word.toNat % 64 == b)).map (fun q => ⟨q, 0⟩)) with
    | some h => sameReq h.req r
    | none => false

/-- The requests without the first that is `r`. -/
def dropReq (r : CmnReq) : List CmnHeld → List CmnHeld
  | [] => []
  | h :: hs => if sameReq h.req r then hs else h :: dropReq r hs

/-- A cycle of a bank in which `r` is granted: the others are held over, their counts of denied cycles by `count`. -/
def State.heldOver (s : State) (cn bank : Nat) (all : List CmnHeld) (r : Option CmnReq) (count : CmnHeld → CmnHeld) : State :=
  let rest := match r with
    | some r => dropReq r all
    | none => all
  s.setWaiting cn bank (rest.map count)

/-- R322, R323: a grant at a bank, and at the other bank of an access to two. -/
def State.cmnGrant (s : State) (cn bank : Nat) (all : List CmnHeld) (h : CmnHeld) (count : CmnHeld → CmnHeld) : State :=
  let s := s.heldOver cn bank all (some h.req) count
  let s := match secondBank h.req with
    | some b => s.heldOver cn b (s.cmnWaiting cn b) (some h.req) CmnHeld.over1
    | none => s
  s.cmnAccess cn h.req

/-- R322, R327, R519: the breaker grants; its count restarts. -/
def State.breakerGrant (s : State) (cn bank : Nat) (all : List CmnHeld) (h : CmnHeld) : State :=
  let s := ((s.countSat (Reg.cmnStat cn) 48 16).setEv (Reg.cmnStat cn) 0 (124 + cn)).tal 0xD cn
  s.cmnGrant cn bank all h (fun x => { x.over1 with denied := 0 })

/-- R323: an access across the end of a Commons is made as two: the second part goes to the next Commons' first bank. -/
def State.splitEnd (s : State) (cn : Nat) (r : CmnReq) : State × CmnReq :=
  if r.word ≠ 0xFFFFF#20 ∨ secondBank r = none then (s, r)
  else
    let q : CmnReq := { r with word := 0, mask := (r.mask.extractLsb' 8 8).setWidth 16, data := r.data2 }
    (if cn = 3 then s else s.setWaiting (cn + 1) 0 (s.cmnWaiting (cn + 1) 0 ++ [⟨q, 0⟩]),
     { r with mask := (r.mask.extractLsb' 0 8).setWidth 16 })

/-- R322, R323: new requests reach a bank; one that needs a second bank waits there too. -/
def State.newReqs (s : State) (cn bank : Nat) (new : List CmnReq) : State × List CmnHeld :=
  (new.filter (fun r => r.word.toNat % 64 == bank)).foldl (fun (acc : State × List CmnHeld) r =>
    let (s, r) := acc.1.splitEnd cn r
    let s := match secondBank r with
      | some b => s.setWaiting cn b (s.cmnWaiting cn b ++ [⟨r, 0⟩])
      | none => s
    (s, acc.2 ++ [⟨r, 0⟩])) (s, [])

/-- R322, R323: one cycle of a bank: held-over requests and new ones. A winner that needs a second bank and does not win
there takes neither. -/
def State.bankCycle (s : State) (cn bank : Nat) (new : List CmnReq) : State :=
  let (s, fresh) := s.newReqs cn bank new
  let all := s.cmnWaiting cn bank ++ fresh
  match s.bankWinner cn bank fresh with
  | none => s
  | some h =>
    if !s.winsOther cn h.req new then s.heldOver cn bank all none CmnHeld.over1
    else if (s.breakerDue cn bank).isSome then s.breakerGrant cn bank all h
    else s.cmnGrant cn bank all h CmnHeld.over1

/-- COMMONS_BANK_GRANT: R322. -/
def execCommonsBankGrant (cn : Fin 4) (bank : Fin 64) (new : List CmnReq) (s : State) :
    Host.Outcome State Fault Refusal := .next (s.whole (fun s => if s.fabricOn then s.bankCycle cn bank new else s))

/-- COMMONS_BREAKER_GRANT: R322, R323. -/
def execCommonsBreakerGrant (cn : Fin 4) (bank : Fin 64) (s : State) : Host.Outcome State Fault Refusal :=
  .next (s.whole (fun s => if !s.fabricOn then s
    else match s.breakerDue cn bank with
      | some h => if s.winsOther cn h.req [] then s.breakerGrant cn bank (s.cmnWaiting cn bank) h else s
      | none => s))

end Sys2Proof.Machine
end

