-- ==== Sys2Proof/Machine/Power.lean ====
section
/-! DEFINITION. Resets, supplies, and the power-fail flush (R17-R19, R483, R505, R507, R525-R537, R574). -/

namespace Sys2Proof.Machine

/-! ### What is lost (R532, R574) -/

/-- The VIN-fed units lose what they hold: cores, caches, memory, buffers, ledger, queues, engines, the pair link,
trace. A settled role stands (R455). -/
def State.loseUnits (s : State) : State :=
  { s with cores := [], phys := [], mem := .reset, coh := .reset, clog := [], plog := [],
           io := { Io.reset with links := s.io.links.map (fun e => (e.1, { e.2 with rsp := none, down := [] })) },
           pair := { Pair.reset with dioHeld := s.pair.dioHeld, settled := s.pair.settled }, trace := .reset, image := [], badRoutes := [],
           flushT0 := none }

/-- Registers kept where a condition on their offset holds; every other goes to its Reset column. -/
def State.keepRegs (s : State) (f : Nat → Bool) : State := { s with regs := s.regs.filter (fun e => f e.1) }

/-- The registers that the always-on domain holds through a loss of VIN. -/
def vauxReg (off : Nat) : Bool :=
  decide (off < 0x50400 ∨ off = Reg.pairCfg ∨ off = Reg.pairStat ∨ (Reg.dioOen ≤ off ∧ off ≤ Reg.dioStat))

/-- R483, R493-R495, R539: the registers whose Reset column says kept. -/
def keptReg (off : Nat) : Bool :=
  decide ((Reg.fcStat ≤ off ∧ off < Reg.fcEsc 0) ∨ off = Reg.pwrStat ∨ (Reg.monT 0 ≤ off ∧ off < 0x50400))

/-- R526: the timestamp stops and holds its count; the clocks have lost their PLLs. -/
def State.stopClocks (s : State) : State :=
  ({ s with tsRun := false, start := { s.start with pllLocked := false } }).setReg Reg.clkStat 0#64

/-- PAIR_STAT.LINK changes (R487). -/
def State.setLinkUp (s : State) (up : Bool) : State :=
  if s.flag Reg.pairStat 3 = up then s else (s.setFlag Reg.pairStat 3 up).raise 341

/-- R574: the VIN-fed regulators are off. -/
def State.unitsOff (s : State) : State :=
  let s := ((s.stopClocks.loseUnits).keepRegs vauxReg)
  ((s.setLinkUp false).setFld Reg.pairStat 4 2 0).levelOff 0x4B

/-! ### Leaving reset (R18, R483, R505) -/

def State.step? (s : State) : Nat := s.fld Reg.imgStat 4 3
def State.setStep (s : State) (k : Nat) : State := s.setFld Reg.imgStat 4 3 k

/-- R505, R483: S1 begins once everything it waits for holds. -/
def State.maybeBegin (s : State) : State :=
  let p := s.pins
  if p.vaux && p.resetN && p.vin && p.pwrgood && !p.powerfail && !p.thermtrip && s.phase == phStartup &&
      s.start.s0Ended && !s.start.waitPwr && s.stop == .running && !s.flag Reg.fcStat 3 && s.step? == 0 then
    s.setStep 1
  else s

/-- R483: VALID bits of records captured in SERVICE are cleared. -/
def State.dropServiceCaptures (s : State) : State :=
  (List.range 4).foldl (fun s c =>
    if s.fld (Reg.fcInfo c) 54 2 = phService then s.setFlag Reg.fcStat c false else s) s

/-- R516, R532: what a monitor register keeps through RESET_N. -/
def State.keepMonitors (s : State) : State :=
  let s := (List.range 64).foldl (fun s n => s.setFld (Reg.monT n) 32 17 0) s
  let s := (List.range 24).foldl (fun s n => s.setFlag (Reg.monV n) 48 false) s
  (List.range 16).foldl (fun s n => s.setFld (Reg.monP n) 24 25 0) s

/-- R8, R18, R19, R501: RESET_N is seen deasserted with VAUX present: what was set while it was low stands at its Reset
column, but for what is kept, and the straps are sampled. -/
def State.leaveReset (s : State) : State :=
  let s := ((s.keepRegs keptReg).keepMonitors).dropServiceCaptures
  if s.pins.testmode then s.setPhase phTest
  else ((s.setPhase phStartup).setFld Reg.imgStat 16 2 s.pins.bootsel.toNat).maybeBegin

/-! ### Reset and supplies -/

/-- RESET_N_ASSERT: R532. -/
def State.assertReset (s : State) : State :=
  if !s.pins.vaux || !s.pins.resetN then { s with pins := { s.pins with resetN := false } }
  else
    let s := (s.loseUnits.keepRegs keptReg).keepMonitors
    { s with io := .reset, pair := .reset, tap := .reset, start := .reset,
             stop := if s.pins.thermtrip then .trip else .running, ts := 0, tsRun := false,
             levels := s.levels.filter (fun c => c ≠ 0x4A#8 && c ≠ 0x4B#8), vOut := s.vOut &&& 0x600000#24,
             pins := { s.pins with resetN := false, actOut := none } }

/-- RESET_N_ASSERT. -/
def execResetNAssert (s : State) : Host.Outcome State Fault Refusal := .next s.assertReset

/-- RESET_N_DEASSERT: R18, R19, R501. POWERFAIL_N is deasserted by then. -/
def execResetNDeassert (testmode : Bool) (bootsel : BitVec 2) (pairRole : Bool) (s : State) :
    Host.Outcome State Fault Refusal :=
  .next (if s.pins.resetN then s
    else
      let t := { s with pins := { s.pins with resetN := true, testmode := testmode, bootsel := bootsel,
                                              pairRole := pairRole, powerfail := false } }
      let t := t.levelOff 0x4C
      if t.pins.vaux then t.leaveReset else t)

/-- VAUX_APPLY: R505, R516. -/
def execVauxApply (s : State) : Host.Outcome State Fault Refusal :=
  .next (if s.pins.vaux then s
    else
      let t := { s with pins := { s.pins with vaux := true }, freshT := true, freshV := true }
      if t.pins.resetN then t.leaveReset else t)

/-- VAUX_REMOVE: R483, R531, R545: everything is lost. -/
def execVauxRemove (s : State) : Host.Outcome State Fault Refusal :=
  .next (if s.pins.vaux then
    { State.reset with
      pending := s.pending, free := s.free, rom := s.rom,
      pins := { s.pins with vaux := false, actOut := none, thermtrip := false } }
    else s)

/-- STARTUP_S0_END: R505. -/
def execStartupS0End (s : State) : Host.Outcome State Fault Refusal :=
  .next (if s.pins.vaux && s.phase == phStartup && !s.start.s0Ended then
    ({ s with start := { s.start with s0Ended := true } }).maybeBegin
    else s)

/-- PWRGOOD_IN_ASSERT: R505, R507; VIN is in its range, and POWERFAIL_N deasserted. -/
def execPwrgoodInAssert (s : State) : Host.Outcome State Fault Refusal :=
  .next (if s.pins.pwrgood then s
    else
      let t := { s with pins := { s.pins with vin := true, pwrgood := true, powerfail := false } }
      let t := t.levelOff 0x4C
      let t := if t.start.waitPwr ∧ t.stop = .running then ({ t with start := { t.start with waitPwr := false } }).setStep 0 else t
      t.maybeBegin)

/-- R507: start-up stops until PWRGOOD_IN falls and rises; what it claimed of the pair is given up. -/
def State.holdStartup (s : State) : State :=
  if 1 ≤ s.step? ∧ s.step? ≤ 5 then
    let s := { s with start := { s.start with waitPwr := true, accepted := false, s4Done := false },
                      pair := { s.pair with waitAct := false, claiming := false } }
    s.dropActOut
  else s

/-- R574: the rail is recorded without the reaction of a GRAVE fault: the units are off already. -/
def State.recordRail (s : State) (src : Nat) : State :=
  (s.capture 3 { src := src, acc := 0xF, master := 0, parish := none, pa := none, synd := 0 }).countClass 3

/-- VIN_LOSS: R507, R529, R574: VIN leaves its range, or PWRGOOD_IN is deasserted. -/
def State.vinLoss (s : State) : State :=
  let warned := s.pins.powerfail
  let live := s.pins.vin && s.pins.vaux && s.pins.resetN
  let s := { s with pins := { s.pins with vin := false, pwrgood := false } }
  if !live then s
  else if s.phase = phStartup then s.holdStartup.unitsOff
  else if s.phase = phTest then s
  else
    let why : Stop := if s.paired then .handed else .vinLoss
    let s := s.unitsOff
    let s := if s.stop = .running ∨ s.stop = .pfail then { s with stop := why } else s
    let s := if s.paired then s.dropActOut else s
    if warned then s else s.recordRail 0x4A

/-- VIN_LOSS. -/
def execVinLoss (s : State) : Host.Outcome State Fault Refusal := .next s.vinLoss

/-- PLL_LOCK_LOSS: R525, R526. -/
def execPllLockLoss (s : State) : Host.Outcome State Fault Refusal :=
  .next (if s.start.pllLocked then
    s.stopClocks.levelOn { src := 0x4B, acc := 0xF, master := 0, parish := none, pa := none, synd := 0 }
    else s)

/-! ### The power-fail flush (R535-R537) -/

/-- R535: queued stores, buffers and dirty cache lines go home. -/
def State.flushHome (s : State) : State :=
  let s := (s.cores.map (·.1)).foldl State.drainAll s
  let s := (s.phys.map (·.1)).foldl State.sweepLines s
  (s.mem.merge.map (·.word)).foldl State.drainMerge s

/-- R535: dirty Granary lines go to DRAM. -/
def State.flushGranary (s : State) : State :=
  s.mem.granDirty.foldl State.granWriteBack s

/-- R481, R535: the engines end without an entry. -/
def State.dropJobs (s : State) : State :=
  { s with io := { s.io with comp := [], ciph := [] } }

/-- POWERFAIL_N_ASSERT in SERVICE or RECOVERY: R535, R536. -/
def State.beginFlush (s : State) : State :=
  let active := s.role = 1 ∧ s.partnered = true
  let s := if s.role = 2 then s.sendFrame .leave else s
  let s := (s.stopUnits .pfail).dropJobs.clearCipher.flushHome
  let s := { s with flushT0 := some s.ts.toNat }
  if active then { s with pair := { s.pair with switching := true } } else s

/-- POWERFAIL_N_ASSERT: R507, R535.  The command is an edge of the pin: where the model's pin already stands
asserted, it was deasserted meanwhile (R537: that changes nothing), and the level source holds anew (R479). -/
def State.powerfail (s : State) : State :=
  let live := s.pins.vaux && s.pins.resetN
  let again := s.pins.powerfail
  let s := { s with pins := { s.pins with powerfail := true } }
  let f : FaultArg := { src := 0x4C, acc := 0xF, master := 0, parish := none, pa := none, synd := 0 }
  if !live then s
  else if again then ((s.setFlag Reg.pwrStat 0 true).levelOff 0x4C).levelOn f
  else
      let s := (s.setFlag Reg.pwrStat 0 true).levelOn f
      if s.phase = phStartup then s.holdStartup
      else if s.phase = phTest ∨ s.pins.vin = false then s
      else ((s.setFld Reg.pwrStat 1 2 0).setFld Reg.pwrStat 32 16 0).beginFlush

/-- POWERFAIL_N_ASSERT. -/
def execPowerfailNAssert (s : State) : Host.Outcome State Fault Refusal := .next (s.forced State.powerfail)

/-- POWERFAIL_FLUSH_DONE: R535, R539. -/
def execPowerfailFlushDone (s : State) : Host.Outcome State Fault Refusal :=
  .next (match s.flushT0 with
    | none => s
    | some t =>
      let us := (s.ts.toNat - t) / 600
      let s := { s.flushGranary with flushT0 := none }
      (s.setFlag Reg.pwrStat 1 true).setFld Reg.pwrStat 32 16 us)

/-- POWERFAIL_ACK_TIMEOUT: R536: no HANDOVER is sent. -/
def execPowerfailAckTimeout (s : State) : Host.Outcome State Fault Refusal :=
  .next (if s.pins.powerfail ∧ s.pair.switching = true then { s with pair := { s.pair with switching := false } } else s)

end Sys2Proof.Machine
end

