-- ==== Sys2Proof/Machine/Image.lean ====
section
/-! DEFINITION. A copy of the Asgen image in the flash: its layout, the seven steps that examine it, and the
validation of its records (R498-R504). -/

namespace Sys2Proof.Machine

/-! ### Helpers -/

/-- Whether `f` holds of every pair of an earlier and a later element. -/
def allPairs {α : Type} (f : α → α → Bool) : List α → Bool
  | [] => true
  | a :: l => l.all (f a) && allPairs f l

/-- Cuts a list into groups of `k`; `fuel` bounds their number. -/
def groups {α : Type} (k : Nat) : Nat → List α → List (List α)
  | 0, _ => []
  | _, [] => []
  | fuel + 1, l => l.take k :: groups k fuel (l.drop k)

/-- R23: bytes as little-endian words. -/
def wordsLE (bs : List Byte) : List (BitVec 64) := (chunks 8 bs.length bs).map (fun c => BitVec.ofNat 64 (leNat c))

def wordsBytes (ws : List (BitVec 64)) : List Byte := ws.flatMap (fun w => leBytes 8 w.toNat)

/-- R503: the first 64 bits of a digest or of a KDF output. -/
def first64 (bs : List Byte) : BitVec 64 := BitVec.ofNat 64 (beNat (bs.take 8))

/-! ### Records (R502) -/

/-- R502: the records of a body; none where a record passes its end or its header holds a bit that must be 0. -/
def parseRecs : Nat → List (BitVec 64) → Option (List Rec)
  | _, [] => some []
  | 0, _ => none
  | fuel + 1, h :: t =>
    let nw := bits h 0 32
    if bits h 32 16 ≠ 0 ∨ t.length < nw then none
    else (parseRecs fuel (t.drop nw)).map (fun l => { ty := bits h 56 8, index := bits h 48 8, words := t.take nw } :: l)

/-- R502: the record's TYPE is known, and INDEX and NW are ones it may have. -/
def Rec.shapeOk (r : Rec) : Bool :=
  let n := r.words.length
  let one (k : Nat) : Bool := r.index == 0 && n == k
  if r.ty = recDevice then one 11
  else if r.ty = recCores then one 48
  else if r.ty = recParish then decide (r.index < 16) && n == 30
  else if r.ty = recCapt then decide (r.index < 16) && n % 5 == 0
  else if r.ty = recCarve then decide (r.index < 16) && n == 64
  else if r.ty = recPort then decide (r.index < 4) && n == 1
  else if r.ty = recChan then one 256
  else if r.ty = recCmpi then one 64
  else if r.ty = recCphi then one 128
  else if r.ty = recTat then one 256
  else if r.ty = recUcode then r.index == 0 && n % 3 == 1 && decide (n ≤ 1 + 3 * 0x4000)
  else if r.ty = recEvroute then one 384
  else if r.ty = recDio then one 3
  else if r.ty = recMem then decide (r.index < 12) && decide (1 ≤ n ∧ n ≤ 17)
  else r.ty == recEnd && one 0

/-- R502: the bits of payload word `k` that its named fields hold. -/
def fieldMask (ty k : Nat) : Nat :=
  let m64 := 2 ^ 64 - 1
  let inst := 0x1F * 2 ^ 28 + 0xFF
  if ty = recDevice then [0x1, 0x3, 0xFF, 0xFFFFFF, 0xFFFFFF, m64, m64, m64, m64, 0x5, 0xFFFF].getD k 0
  else if ty = recCores then 0x1BF
  else if ty = recParish then
    [0x7, 2 ^ 46 - 1, 0x1, 2 ^ 52 - 32, 2 ^ 29 - 1, 0xFFFFFF, m64, 0x3F, 2 ^ 48 - 1, 2 ^ 48 - 1].getD k
      (m64 - 0xFF * 2 ^ 28)
  else if ty = recCapt then [0xFFFFFFF, m64, m64, m64, 0].getD (k % 5) 0
  else if ty = recCarve then m64 - 0xF
  else if ty = recPort then 0x3
  else if ty = recChan then 0x1FF * 2 ^ 24 + 0xFF
  else if ty = recCmpi then inst
  else if ty = recCphi then (if k % 2 = 0 then inst else 0x1FFF * 2 ^ 16 + 0xFFF)
  else if ty = recTat then 0xFFF37B
  else if ty = recUcode then (if k = 0 then 0x3FFF else if k % 3 = 0 then 0xFFFFFFFF else m64)
  else if ty = recEvroute then 0x1FFDF
  else if ty = recDio then 0xFFFFFFFF
  else if ty = recMem then
    (if k = 0 then 0xFFFF else 2 ^ 40 + 0xF * 2 ^ 36 + 7 * 2 ^ 33 + 3 * 2 ^ 31 + 0x3FFFF)
  else 0

/-- R504: no field of payload word `k` holds a reserved encoding. -/
def encodingOk (ty k : Nat) (w : BitVec 64) : Bool :=
  if ty = recDevice ∧ k = 1 then decide (bits w 0 2 < 2)
  else if ty = recParish ∧ 10 ≤ k then decide (bits w 60 4 ≤ 3)
  else if ty = recPort then bits w 0 2 != 3
  else if ty = recTat then bits w 0 2 != 3 && decide (bits w 4 3 ≤ 4) && bits w 8 2 != 3
  else true

/-- Code 0x02 for one record. -/
def Rec.fieldsOk (r : Rec) : Bool :=
  r.words.zipIdx.all (fun e => (e.1.toNat &&& (2 ^ 64 - 1 - fieldMask r.ty e.2)) == 0 && encodingOk r.ty e.2 e.1)

/-- Code 0x01: types, duplicates, sizes, END and the record count. -/
def formOk (recs : List Rec) (nrec : Nat) : Bool :=
  recs.all Rec.shapeOk && decide ((recs.map (fun r => (r.ty, r.index))).Nodup) &&
    (match recs.getLast? with
      | some r => r.ty == recEnd
      | none => false) && recs.length == nrec

/-! ### The tag attribute table (R24, R33) -/

/-- R24: the default entry of a tag. -/
def tatDefault (t : Nat) : Nat :=
  if t = 0x01 then 0x11
  else if t = 0x02 then 0x21
  else if t = 0x03 ∨ t = 0x04 ∨ t = 0x05 ∨ t = 0x06 then 0x01
  else if t = 0x0C then 0x232
  else if (0x08 ≤ t ∧ t ≤ 0x0F) ∨ t = 0x11 then 0x02
  else if t = 0x07 ∨ (0x12 ≤ t ∧ t ≤ 0x1F) ∨ (0x21 ≤ t ∧ t ≤ 0x3F) ∨ (0x80 ≤ t ∧ t ≤ 0xFE) then 0x08
  else if 0x40 ≤ t ∧ t ≤ 0x7F then 0x200
  else 0

/-- R33: the bits of a tag's entry that are fixed. -/
def tatFixedMask (t : Nat) : Nat :=
  if t ≤ 0x06 ∨ (0x08 ≤ t ∧ t ≤ 0x11) then 0x73
  else if 0x40 ≤ t ∧ t ≤ 0x7F then 0
  else 0xFFF37B

/-- Code 0x03. -/
def tatOk (img : List Rec) : Bool :=
  (List.range 256).all (fun t =>
    ((recWord img recTat 0 t).toNat &&& tatFixedMask t) == (tatDefault t &&& tatFixedMask t))

/-! ### Microcode (R186, R188, R195, R207) -/

/-- The microwords of the UCODE record. -/
def microwords (img : List Rec) : List (BitVec 160) :=
  let ws := (recWords img recUcode 0).drop 1
  (groups 3 ws.length ws).map (fun g =>
    BitVec.ofNat 160 ((g.getD 0 0#64).toNat + (g.getD 1 0#64).toNat * 2 ^ 64 + (g.getD 2 0#64).toNat * 2 ^ 128))

/-- Code 0x04: the whole vendor region, from address 0, as mask ROM's digest has it. -/
def vendorOk (digest : BitVec 384) (img : List Rec) : Bool :=
  let ws := recWords img recUcode 0
  decide (1 + 3 * 0x3000 ≤ ws.length) && ws.getD 0 0#64 == 0#64 &&
    beNat (sha384 (wordsBytes ((ws.drop 1).take (3 * 0x3000)))) == digest.toNat

/-- R24: a tag code that customer microcode may not give a word: CAP, POIS or a reserved tag. -/
def barredTag (t : Nat) : Bool :=
  decide (t = 0x07 ∨ (0x12 ≤ t ∧ t ≤ 0x3F) ∨ 0x80 ≤ t)

/-- R207: a customer microword may be loaded. -/
def customerOk (w : BitVec 160) : Bool :=
  let f := mf w
  let src (lo : Nat) : Bool := f lo 4 != 0xF
  let dst (lo : Nat) : Bool := decide (f lo 4 < 0xB ∨ f lo 4 = 0xF)
  let aop := f 115 5
  let top := f 77 3
  let mop := f 36 4
  let load := decide (1 ≤ mop ∧ mop ≤ 3)
  let writes : List Nat :=
    (if aop ≠ 0 ∧ aop ≠ 9 then [f 103 4] else []) ++ (if f 97 3 ≠ 0 then [f 83 4] else []) ++
      (if top = 2 ∨ top = 3 then [f 61 4] else []) ++ (if load then [f 24 4] else [])
  f 136 2 == 0 && f 80 3 == 0 && f 40 14 == 0 && f 0 22 == 0 &&
  decide (f 142 4 ≤ 5) && f 139 3 != 7 && decide (aop < 0xC) && decide (f 97 3 ≤ 4) && decide (top ≤ 3) &&
  f 58 3 != 7 && f 55 3 != 7 && decide (mop ≤ 5) && f 22 2 != 3 &&
  src 111 && src 107 && src 93 && src 73 && src 32 && (if mop = 4 ∨ mop = 5 then src 24 else true) &&
  dst 103 && dst 83 && dst 61 && (if load then dst 24 else true) &&
  (if f 142 4 = 1 ∨ f 142 4 = 2 then decide (0x3000 ≤ f 146 14) else true) &&
  (if top = 3 ∨ f 100 2 = 3 then !barredTag (f 65 8) else true) &&
  (if f 142 4 = 5 then decide (f 120 16 % 64 ∈ [0x04, 0x06, 0x07, 0x08, 0x10]) else true) &&
  decide ((writes.filter (· ≠ 0xF)).Nodup)

/-- Code 0x05. -/
def customerRegionOk (img : List Rec) : Bool := ((microwords img).drop 0x3000).all customerOk

/-! ### Cores and parishes -/

/-- Code 0x06. -/
def coresOk (img : List Rec) : Bool :=
  let ws := (List.range 48).map (fun p => recWord img recCores 0 p)
  let fallow := (ws.filter (fun w => w.getLsbD 8)).length
  let nums := (ws.filter (fun w => w.getLsbD 7)).map (fun w => bits w 0 6)
  decide (2 ≤ fallow) && ws.all (fun w => w.getLsbD 8 != w.getLsbD 7) &&
    nums.length == 48 - fallow && (List.range (48 - fallow)).all (fun n => nums.contains n)

def parishWord (img : List Rec) (p k : Nat) : BitVec 64 := recWord img recParish p k

/-- The parishes that the image defines. -/
def validParishes (img : List Rec) : List Nat := (List.range 16).filter (fun p => (parishWord img p 0).getLsbD 0)

def imgMirr (img : List Rec) (p : Nat) : Bool := (parishWord img p 0).getLsbD 2

/-- Code 0x07: every logical core is in one valid parish, and no parish's record names it beside another's. -/
def parishesOk (img : List Rec) : Bool :=
  let v := validParishes img
  let names (ps : List Nat) (n : Nat) : Nat := (ps.filter (fun p => (parishWord img p 1).getLsbD n)).length
  let fallow := ((List.range 48).filter (fun p => (recWord img recCores 0 p).getLsbD 8)).length
  v.contains 0 && (parishWord img 0 0).getLsbD 1 &&
    ((List.range 16).drop 1).all (fun p => !(parishWord img p 0).getLsbD 1) &&
    v.all (fun p => parishWord img p 1 != 0#64) &&
    (List.range (48 - fallow)).all (fun n => names v n == 1 && names (List.range 16) n == 1)

/-! ### Memory (R296, R304, R168, R169) -/

def dimmGiB (img : List Rec) (c : Nat) : Nat := bits (recWord img recMem c 0) 0 16

/-- R504: the DRAM granules that a run or a table may lie in: all below the highest installed one. -/
def topGranule (img : List Rec) : Nat :=
  let cs := (List.range 12).map (dimmGiB img)
  (cs.filter (· ≠ 0)).length * cs.foldl max 0 - 1

/-- The runs in use of parish `p`. -/
def imgRuns (img : List Rec) (p : Nat) : List Run :=
  ((recWords img recCarve p).map (runOf (Reg.carve p 0))).filter (fun r => r.ty ≠ .none)

/-- R169: what a run of each type may map. -/
def runOk (top : Nat) (r : Run) : Bool :=
  let dram := decide (r.phys + r.num ≤ top)
  let low := decide (r.pg + r.num ≤ 0x3C000)
  match r.ty with
  | .wb => low && dram
  | .uc => low && (dram || (r.phys == commonsBase / 2 ^ 30 && r.num == 1))
  | .dev =>
    decide (0x3C000 ≤ r.pg ∧ r.pg + r.num ≤ 0x40000) &&
      ((r.phys == controlBase / 2 ^ 30 && r.num == 1) ||
        decide (windowBase / 2 ^ 30 ≤ r.phys ∧ r.phys + r.num ≤ windowBase / 2 ^ 30 + 4096))
  | .none => true

def rangesMeet (a n b m : Nat) : Bool := decide (a < b + m ∧ b < a + n)

/-- Code 0x08. -/
def carveOk (img : List Rec) : Bool :=
  let top := topGranule img
  let all := (List.range 16).flatMap (imgRuns img)
  all.all (runOk top) &&
    (List.range 16).all (fun p => allPairs (fun a b => !rangesMeet a.pg a.num b.pg b.num) (imgRuns img p)) &&
    allPairs (fun a b => imgMirr img a.parish == imgMirr img b.parish || !decide (a.phys < top) ||
      !rangesMeet a.phys a.num b.phys b.num) all

/-! ### Capability tables (R146, R147, R149) -/

/-- The entries that CAPT gives for parish `p`, with their indexes. -/
def imgEntries (img : List Rec) (p : Nat) : List (Nat × CapEntry) :=
  let ws := recWords img recCapt p
  (groups 5 ws.length ws).map (fun g =>
    (bits (g.getD 0 0#64) 0 28,
      { base := g.getD 1 0#64, length := g.getD 2 0#64, info := g.getD 3 0#64, word3 := g.getD 4 0#64 }))

/-- R146, R147: the entry is laid out as an entry is. -/
def entryOk (e : CapEntry) : Bool :=
  bits e.info 53 11 == 0 && bits e.info 8 8 == 0 && bits e.base 48 16 == 0 &&
    (if e.isReturn then e.otype == 0xFFFF
     else e.otype != 0xFFFF && decide (e.base.toNat + e.length.toNat ≤ 2 ^ 48))

/-- Code 0x09: the tables of valid parishes, and the entries that every CAPT record gives. -/
def tablesOk (img : List Rec) : Bool :=
  let v := validParishes img
  let lo (p : Nat) := (parishWord img p 3).toNat
  let size (p : Nat) := (parishWord img p 4).toNat
  let runs := (List.range 16).flatMap (imgRuns img)
  v.all (fun p =>
    decide (2 ≤ size p ∧ size p ≤ 2 ^ 28 ∧ lo p + 32 * size p ≤ topGranule img * 2 ^ 30) &&
      runs.all (fun r => !rangesMeet (lo p) (32 * size p) (r.phys * 2 ^ 30) (r.num * 2 ^ 30))) &&
    (List.range 16).all (fun p =>
      let ix := (imgEntries img p).map (·.1)
      ix.all (fun i => decide (1 ≤ i ∧ i < size p)) && decide ix.Nodup &&
        (imgEntries img p).all (fun e => entryOk e.2)) &&
    allPairs (fun p q => !rangesMeet (lo p) (32 * size p) (lo q) (32 * size q)) v

/-- R35: through the runs of its parish, the entry covers the tag attribute table with DEV and W. -/
def reachesTat (img : List Rec) (p : Nat) (e : CapEntry) : Bool :=
  hasPerm e.perm pDev && hasPerm e.perm pW && !e.isReturn &&
    (imgRuns img p).any (fun r =>
      r.ty == .dev && decide (r.phys ≤ controlBase / 2 ^ 30 ∧ controlBase / 2 ^ 30 < r.phys + r.num) &&
        (let a := r.parishAddr (controlBase + Reg.tat 0)
         decide (e.base.toNat ≤ a ∧ a + 0x800 ≤ e.base.toNat + e.length.toNat)))

/-- R504 code 0x0A for a capability payload at word `k` of a PARISH record; `last` is the rank of the last core. -/
def payloadOk (img : List Rec) (p last k : Nat) : Bool :=
  let v := parishWord img p k
  let w := Word.cap v
  let role := (k - 10) % 10
  if v = 0#64 then decide (role < 8)
  else match (imgEntries img p).find? (fun e => e.1 == capIndex w) with
    | none => false
    | some (_, e) =>
      let code := capKind w == 1 && hasPerm (effPerm w e) pX
      let start := (parishWord img p (if k < 20 then 8 else 9)).toNat
      e.valid && e.gen == capGen w && !(decide (20 ≤ k ∧ role < 8) && e.rvkok) &&
        (if role = 8 then code && decide (e.lo ≤ start ∧ start + 0x100 * last + 4 ≤ e.lo + e.len)
         else if role = 9 then code && decide (0x4000 ≤ e.len) else true)

/-- Code 0x0A; a parish that is not valid needs no PC or VB, but what its record names must be as for any other. -/
def authorityOk (img : List Rec) : Bool :=
  (List.range 16).all (fun p =>
    let last := ((List.range 46).filter (fun n => (parishWord img p 1).getLsbD n)).length - 1
    let valid := (validParishes img).contains p
    (p == 0 || (imgEntries img p).all (fun e => e.2.otype != 2 && !reachesTat img p e.2)) &&
      ((List.range 20).map (· + 10)).all (fun k =>
        (!valid && parishWord img p k == 0#64) || payloadOk img p last k))

/-! ### Ways, channels, instances, routes -/

/-- Code 0x0B: R257. -/
def waysOk (img : List Rec) : Bool :=
  let dev := bits (recWord img recDevice 0 4) 0 24
  let mask (p : Nat) := bits (parishWord img p 5) 0 24
  dev != 0 && allPairs (fun a b => (a &&& b) == 0) (dev :: (List.range 16).map mask) &&
    (List.range 16).all (fun p =>
      mask p != 0 || (parishWord img p 1 == 0#64 && (imgRuns img p).isEmpty))

/-- R331: the links that a port's bifurcation creates. -/
def linksOf (k : Nat) : Nat := [1, 2, 4].getD k 0

/-- Code 0x0C. -/
def chansOk (img : List Rec) : Bool :=
  (recWords img recChan 0).all (fun w =>
    !w.getLsbD 32 || ((validParishes img).contains (bits w 28 4) &&
      decide (bits w 24 2 < linksOf (bits (recWord img recPort (bits w 26 2) 0) 0 2))))

/-- Code 0x0D: instances, and the key ranges of R426. -/
def instancesOk (img : List Rec) : Bool :=
  let own (w : BitVec 64) : Bool := !w.getLsbD 32 || (validParishes img).contains (bits w 28 4)
  let cph (i : Nat) := recWord img recCphi 0 (2 * i)
  let key (i : Nat) := recWord img recCphi 0 (2 * i + 1)
  let ranges := ((List.range 64).filter (fun i => (cph i).getLsbD 32)).map (fun i => (bits (key i) 0 12, bits (key i) 16 13))
  (recWords img recCmpi 0).all own && (List.range 64).all (fun i => own (cph i)) &&
    ranges.all (fun r => decide (r.1 + r.2 ≤ 4096)) &&
    allPairs (fun a b => a.2 == 0 || b.2 == 0 || !rangesMeet a.1 a.2 b.1 b.2) ranges

/-- Code 0x0E: R490. -/
def routesOk (img : List Rec) : Bool :=
  (recWords img recEvroute 0).all (fun w =>
    !w.getLsbD 16 || ((validParishes img).contains (bits w 12 4) &&
      (parishWord img (bits w 12 4) 1).getLsbD (bits w 6 6)))

/-- Code 0x0F: R381, R495. -/
def limitsOk (img : List Rec) : Bool :=
  let l := recWord img recDevice 0 3
  bits l 0 16 != 0 && bits l 16 8 != 0 &&
    (validParishes img).all (fun p => (parishWord img p 1).getLsbD (bits (parishWord img p 7) 0 6))

/-- Code 0x10. -/
def pairOk (img : List Rec) : Bool :=
  if (recWord img recDevice 0 0).getLsbD 0 then imgMirr img 0 else (validParishes img).all (fun p => !imgMirr img p)

/-- Code 0x11. -/
def memOk (img : List Rec) : Bool :=
  let cs := ((List.range 12).map (dimmGiB img)).filter (· ≠ 0)
  cs.all (fun c => decide (c ∈ [16, 32, 64, 128, 256]) && c == cs.headD 0) && !cs.isEmpty &&
    (List.range 12).all (fun c => ((recWords img recMem c).drop 1).all (fun w => decide (bits w 36 4 ≤ 9)))

/-- R504: the code of the first check that fails; 0 where all pass. -/
def imageCode (digest : BitVec 384) (img : List Rec) (nrec : Nat) : Nat :=
  if !formOk img nrec then 0x01
  else if !img.all Rec.fieldsOk then 0x02
  else if !tatOk img then 0x03
  else if !vendorOk digest img then 0x04
  else if !customerRegionOk img then 0x05
  else if !coresOk img then 0x06
  else if !parishesOk img then 0x07
  else if !carveOk img then 0x08
  else if !tablesOk img then 0x09
  else if !authorityOk img then 0x0A
  else if !waysOk img then 0x0B
  else if !chansOk img then 0x0C
  else if !instancesOk img then 0x0D
  else if !routesOk img then 0x0E
  else if !limitsOk img then 0x0F
  else if !pairOk img then 0x10
  else if !memOk img then 0x11
  else 0

/-! ### Examining a copy (R499, R500) -/

/-- What the examination of a copy gives: the reason code (0: accepted), the validation code, the header words and
the records. -/
structure Exam where
  reason : Nat
  code : Nat
  head : BitVec 64
  recs : List Rec
deriving DecidableEq, Repr

def Exam.fail (reason : Nat) : Exam := { reason := reason, code := 0, head := 0, recs := [] }

/-- R499: MAGIC, FORMAT, the reserved bytes, and a length that fits. -/
def headerOk (bs : List Byte) : Bool :=
  let w0 := BitVec.ofNat 64 (leNat (bs.take 8))
  let w2 := BitVec.ofNat 64 (leNat ((bs.drop 16).take 8))
  let blen := bits w2 0 32
  bits w0 32 32 == 0x41534731 && bits w0 16 16 == 1 && bits w0 0 16 == 0 && bits w2 32 32 == 0 && blen % 8 == 0 &&
    decide (256 + blen + 112 ≤ 0x2000000) && ((bs.drop 36).take 4).all (· == 0#8) &&
    ((bs.drop 176).take 80).all (· == 0#8)

/-- R407: the key root as a byte string. -/
def Rom.root (r : Rom) : List Byte := beBytes 32 r.keyRoot.toNat

/-- R500: the image KEK. -/
def Rom.imageKek (r : Rom) : List Byte := kdf r.root (ascii "OCTOC IMG v1") [] 256

/-- R500: the seven steps on the bytes of a copy; none is a flash error. -/
def examine (rom : Rom) (copy : Option (List Byte)) : Exam :=
  match copy with
  | none => .fail 1
  | some bs =>
    let head := BitVec.ofNat 64 (leNat ((bs.drop 8).take 8))
    let blen := bits (BitVec.ofNat 64 (leNat ((bs.drop 16).take 8))) 0 32
    let pubk := (bs.drop 80).take 96
    let signed := bs.take (256 + blen + 16)
    let sig := (bs.drop (256 + blen + 16)).take 96
    let ct := (bs.drop 256).take blen
    let tag := (bs.drop (256 + blen)).take 16
    let iv := (bs.drop 24).take 12
    if bs.length < 256 then .fail 1
    else if !headerOk bs then .fail 2
    else if bs.length < 256 + blen + 112 then .fail 1
    else if beNat (sha384 pubk) ≠ rom.khash.toNat then .fail 3
    else if !ecdsaVerify (beNat (pubk.take 48)) (beNat (pubk.drop 48)) (beNat (sig.take 48)) (beNat (sig.drop 48))
        (sha384 signed) then .fail 4
    else match kwpUnwrap rom.imageKek ((bs.drop 40).take 40) with
      | none => .fail 5
      | some key =>
        if key.length ≠ 32 then .fail 5
        else if gcmTag key iv (bs.take 256) ct ≠ tag then .fail 6
        else
          let body := wordsLE (gcmCrypt key iv ct)
          match parseRecs body.length body with
          | none => { reason := 7, code := 1, head := head, recs := [] }
          | some recs =>
            let code := imageCode rom.vendorDigest recs (bits head 0 16)
            { reason := if code = 0 then 0 else 7, code := code, head := head, recs := recs }

/-! ### The pair digest (R503) -/

/-- R503: the words of one mirrored parish, in order. -/
def digestWords (img : List Rec) (p : Nat) : List (BitVec 64) :=
  let named (ws : List (BitVec 64)) : List (BitVec 64) :=
    (ws.filter (fun w => bits w 28 4 == p)).map (fun w => putBits w 0 8 0)
  [parishWord img p 1, parishWord img p 5, parishWord img p 6] ++ (List.range 64).map (fun r => recWord img recCarve p r) ++
    recWords img recCapt p ++ named (recWords img recChan 0) ++ named (recWords img recCmpi 0) ++
    named ((List.range 64).map (fun i => recWord img recCphi 0 (2 * i)))

/-- R503: PAIR_DIG. -/
def pairDigest (img : List Rec) : BitVec 64 :=
  let ps := (List.range 16).filter (fun p => imgMirr img p)
  first64 (sha384 (wordsBytes (ps.flatMap (digestWords img))))

end Sys2Proof.Machine
end

