-- ==== Sys2Proof/Machine/Startup.lean ====
section
/-! DEFINITION. Start-up from S2 to its end (R186, R302, R303, R500-R507, R576). -/

namespace Sys2Proof.Machine

/-- The step of START-UP is `k` and goes on. -/
def State.inStep (s : State) (k : Nat) : Bool :=
  s.pins.vaux && s.pins.resetN && s.phase == phStartup && s.stop == .running && !s.start.waitPwr && s.step? == k

/-- R506: a start-up step has failed: source 0x50, which stops start-up (R575). -/
def State.startFailed (s : State) : State :=
  s.fault { src := 0x50, acc := 0xF, master := 0x600, parish := none, pa := none, synd := 0 }

/-! ### S1 and S2 (R500, R501, R505, R526) -/

/-- R526: the PLLs lock; the timestamp starts from 0. -/
def State.lockPlls (s : State) : State :=
  let s := { s with ts := 0, tsRun := true, start := { s.start with pllLocked := true } }
  ((s.setFld Reg.clkStat 0 1 1).setFld Reg.clkStat 8 6 0x3F).levelOff 0x4B

/-- R501: the copies tried, in order: false A, true B. -/
def bootOrder (sel : BitVec 2) : List Bool :=
  if sel = 0#2 then [false, true] else if sel = 1#2 then [true, false] else if sel = 2#2 then [false] else [true]

/-- R501, R509, R510: a copy is accepted. -/
def State.acceptCopy (s : State) (b second : Bool) (e : Exam) : State :=
  let s := { s with image := e.recs, start := { s.start with accepted := true } }
  let s := (s.setFld Reg.imgStat 8 2 (if b then 2 else 1)).setFlag Reg.imgStat 10 second
  (s.setReg Reg.imgInfo e.head).setStep 3

/-- R500, R501: the copies are tried in turn; with none accepted, start-up fails. -/
def State.tryCopies (s : State) (copies : Bool → Option (List Byte)) : Bool → List Bool → State
  | _, [] => s.startFailed
  | second, b :: bs =>
    let e := examine s.rom (copies b)
    if e.reason = 0 then s.acceptCopy b second e
    else
      let s := s.setFld Reg.imgStat (if b then 28 else 24) 4 e.reason
      let s := if e.code = 0 then s else s.setFld Reg.imgStat 40 8 e.code
      State.tryCopies s copies true bs

/-- R427: CPH_KRID. -/
def Rom.krid (r : Rom) : BitVec 64 := first64 (kdf r.root (ascii "OCTOC KRID") [] 256)

/-- STARTUP_S2: S1 ends as the PLLs lock, and the copies are tried. -/
def execStartupS2 (copyA copyB : Option (List Byte)) (s : State) : Host.Outcome State Fault Refusal :=
  .next (if s.inStep 1 then
    let t := s.lockPlls.setStep 2
    let t := t.setReg Reg.imgStat (t.reg Reg.imgStat &&& 0x30073#64)
    let t := (t.setStep 2).setReg Reg.cphKrid t.rom.krid
    t.tryCopies (fun b => if b then copyB else copyA) false (bootOrder t.pins.bootsel)
    else s)

/-! ### S3: the image is applied (R502, R505) -/

/-- The registers that one DEVICE record gives. -/
def deviceRegs (img : List Rec) : List (Nat × BitVec 64) :=
  let d (k : Nat) := recWord img recDevice 0 k
  [(Reg.pairCfg, d 0), (Reg.glnCtl, d 2), (Reg.ldgCfg, d 3)] ++
    (List.range 4).map (fun n => (Reg.cmnCtl n, d 1)) ++ (List.range 64).map (fun i => (Reg.grnDways i, d 4)) ++
    (List.range 4).map (fun k => (Reg.fcEsc k, d (5 + k))) ++ (List.range 48).map (fun p => (Reg.cctl p, d 9)) ++
    (List.range 48).map (fun p => (Reg.rtyCfg p, d 10))

/-- R226: FALLOW_STAT and LCORE_MAP. -/
def coreRegs (img : List Rec) : List (Nat × BitVec 64) :=
  let w (p : Nat) := recWord img recCores 0 p
  let fallow := ((List.range 48).filter (fun p => (w p).getLsbD 8)).foldl (fun a p => a + 2 ^ p) 0
  (Reg.fallowStat, BitVec.ofNat 64 fallow) ::
    ((List.range 48).filter (fun p => (w p).getLsbD 7)).map (fun p =>
      (Reg.lcoreMap (bits (w p) 0 6), BitVec.ofNat 64 (0x80 + p)))

/-- The registers of parish `p`. -/
def parishRegs (img : List Rec) (p : Nat) : List (Nat × BitVec 64) :=
  let w (k : Nat) := parishWord img p k
  [(Reg.parCfg p, w 0), (Reg.parCores p, w 1), (Reg.excCtl p, w 2), (Reg.captBase p, w 3), (Reg.captSize p, w 4),
   (Reg.cphPtag p, w 6), (Reg.fcMcore p, w 7)] ++ (List.range 64).map (fun i => (Reg.grnWays i p, w 5)) ++
    (List.range 64).map (fun r => (Reg.carve p r, recWord img recCarve p r))

/-- A CHAN, CMPI or CPHI word without its weight, and its weight. -/
def instReg (off : Nat) (w : BitVec 64) : Nat × BitVec 64 := (off, putBits w 0 8 0)

/-- The registers of channels, engine instances, ports, tags, routes and discrete lines. -/
def queueRegs (img : List Rec) : List (Nat × BitVec 64) :=
  let chan (c : Nat) := recWord img recChan 0 c
  let cmp (i : Nat) := recWord img recCmpi 0 i
  let cph (i : Nat) := recWord img recCphi 0 i
  (List.range 4).map (fun n => (Reg.cpCfg n, recWord img recPort n 0)) ++
    (List.range 256).flatMap (fun c => [instReg (Reg.chCfg c) (chan c), (Reg.altChn c, chan c &&& 0xFF#64)]) ++
    (List.range 64).flatMap (fun i => [instReg (Reg.ciCfg i) (cmp i), (Reg.altCmp i, cmp i &&& 0xFF#64)]) ++
    (List.range 64).flatMap (fun i =>
      [instReg (Reg.cxCfg i) (cph (2 * i)), (Reg.altCph i, cph (2 * i) &&& 0xFF#64), (Reg.cxKey i, cph (2 * i + 1))]) ++
    (List.range 256).map (fun t => (Reg.tat t, recWord img recTat 0 t)) ++
    (List.range 384).map (fun i => (Reg.evRoute i, recWord img recEvroute 0 i))

/-- R502, R556: the discrete lines; OUT starts at SAFE where the line is enabled. -/
def dioRegs (img : List Rec) : List (Nat × BitVec 64) :=
  let d (k : Nat) := recWord img recDio 0 k
  [(Reg.dioOen, d 0), (Reg.dioSafe, d 1), (Reg.dioIen, d 2), (Reg.dioOut, d 1 &&& d 0)]

/-- R502: a table of parish `p` at start: the entries of CAPT, the others chained as free in ascending order. -/
def State.placeTable (s : State) (p : Nat) : State :=
  let es := imgEntries s.image p
  let free := ((List.range (parishWord s.image p 4).toNat).drop 1).filter (fun i => !es.any (fun e => e.1 == i))
  let base := s.capAt p 0
  let put (d : SMap Word) (ix k : Nat) (v : BitVec 64) : SMap Word := SMap.set Word.raw0 d (base + 4 * ix + k) (Word.raw v)
  let d := es.foldl (fun d e => put (put (put (put d e.1 0 e.2.base) e.1 1 e.2.length) e.1 2 e.2.info) e.1 3 e.2.word3)
    s.mem.dram
  let d := (free.zip (free.drop 1)).foldl (fun d e => put d e.1 0 (BitVec.ofNat 64 e.2)) d
  { s with mem := { s.mem with dram := d } }.setReg (Reg.captFree p)
    (BitVec.ofNat 64 (free.headD 0 + free.length * 2 ^ 28))

/-- R330: the spare columns in use that a bank's fuses give, two bits a sub-array; the reserved 0b11 is never read, and
stands for none (log 77). -/
def fuseFields (v : BitVec 8) : Nat :=
  (List.range 4).foldl (fun acc j =>
    let k := v.toNat / 4 ^ j % 4
    if k = 3 then acc else acc + k * 4 ^ j) 0

/-- R324, R330: the fused column repairs of the Commons, once confirmed. -/
def State.fuseRegs (s : State) : State :=
  s.rom.cmnFuse.foldl (fun s e => s.setReg (Reg.cmnFuse (e.1 / 64) (e.1 % 64)) (BitVec.ofNat 64 (fuseFields e.2))) s

/-- R515: the LIMIT of a temperature sensor, whose value no record gives (log 3). -/
def State.openLimits (s : State) : State :=
  (List.range 64).foldl (fun s n => (s.setFld (Reg.monT n) 32 16 (bits s.freeVal 0 16)).fresh) s

/-- Every register marked img takes its value; PAIR_DIG is R503's. -/
def State.applyImage (s : State) : State :=
  let img := s.image
  let rs := deviceRegs img ++ coreRegs img ++ (List.range 16).flatMap (parishRegs img) ++ queueRegs img ++ dioRegs img
  let s := rs.foldl (fun s e => s.setReg e.1 e.2) s
  (s.setReg Reg.pairDig (pairDigest img)).openLimits

/-! ### S3: self-test, memory, link, keys -/

/-- R506: a core that the image assigns has failed its self-test. -/
def State.selfTestFailed (s : State) (p : Nat) : State :=
  match s.logicalOf p with
  | none => s
  | some n =>
    let ts := s.targets p
    let s := (s.setFlag Reg.failedMap p true).raise p
    match ts with
    | [] => (s.setFlag (Reg.lcoreMap n) 7 false).fault
        { src := 0x04, acc := 0xF, master := masterId 0 p, parish := some (s.parishOf n), pa := none, synd := 0 }
    | t :: _ =>
      let s := s.fault { src := 0x02, acc := 0xF, master := masterId 0 p, parish := some (s.parishOf n), pa := none,
                         synd := 0 }
      (s.setFld (Reg.lcoreMap n) 0 6 t).setFlag Reg.fallowStat t false

/-- R506, R510: sPPR repairs the rows listed but those the DIMM refuses. -/
def State.repairRows (s : State) (refused : List Nat) : State :=
  (List.range 12).foldl (fun s c =>
    let k := (recWords s.image recMem c).length - 1
    let r := min k (refused.count c)
    let s := if r = 0 then s else s.setFlag Reg.imgSppr (32 + c) true
    s.setFld Reg.imgSppr 0 16 (s.fld Reg.imgSppr 0 16 + (k - r))) s

/-- R449, R507: the Welien link trains, or not. -/
def State.trainWelien (s : State) (ok : Bool) : State :=
  if !s.paired then s
  else if ok then s.setLinkUp true
  else s.fault { src := 0x44, acc := 0xF, master := 0x500, parish := none, pa := none, synd := 0 }

/-- R408: the parish KEKs. -/
def State.deriveKeks (s : State) : State :=
  (validParishes s.image).foldl (fun s p =>
    let k := kdf s.rom.root (ascii "OCTOC KEK v1")
      (beBytes 8 (s.reg (Reg.cphPtag p)).toNat ++ [BitVec.ofNat 8 p]) 256
    { s with io := { s.io with keks := s.io.keks.ins p k } }) s

/-- R516: BASE is the count at the end of S3. -/
def State.baseCounts (s : State) : State :=
  (List.range 16).foldl (fun s n => s.setFld (Reg.monP n) 24 24 (s.fld (Reg.monP n) 0 24)) s

/-- R506: what ends S3: a repair or training that fails, a capacity other than MEM's, or a fallow core that fails. -/
def State.s3Fails (s : State) (e : S3Env) : Bool :=
  e.failed || e.badCores.any (fun p => s.flag Reg.fallowStat p.val) ||
    (List.range 12).any (fun c => e.capacity.getD c 0 != dimmGiB s.image c)

/-- STARTUP_S3: R505, R506. -/
def State.runS3 (s : State) (e : S3Env) : State :=
  let s := { s with mem := .reset, coh := .reset, cores := [], phys := [], clog := [], plog := [] }.applyImage
  if s.s3Fails e then s.startFailed
  else
    let s := (e.badCores.map (·.val)).foldl State.selfTestFailed s.fuseRegs
    let s := (s.repairRows (e.refusedRows.map (·.val))).trainWelien e.welien
    if s.stop ≠ .running then s
    else
      let s := (validParishes s.image).foldl State.placeTable s
      (s.deriveKeks.baseCounts).setStep 4

/-- STARTUP_S3. -/
def execStartupS3 (env : S3Env) (s : State) : Host.Outcome State Fault Refusal :=
  .next (if s.inStep 3 && s.start.accepted then s.runS3 env else s)

/-! ### S4 (R186) -/

/-- R186: the control store as the image gives it. -/
def imageStore (img : List Rec) : SMap UWord :=
  ((microwords img).zipIdx.filter (fun e =>
    e.1 != (if 0x3000 ≤ e.2 then unloadedMicroword else 0#160))).map (fun e => (e.2, UWord.of e.1))

/-- R186: the copy is placed, and every core's control store loaded from it. -/
def State.loadStores (s : State) : State :=
  let us := imageStore s.image
  let s := { s with mem := s.mem.placeCopy us }
  if us = [] then s
  else (List.range 48).foldl (fun s p => s.setPhys p { s.physCore p with ucode := us }) s

/-- STARTUP_S4: R186; a single device goes on to S5. -/
def execStartupS4 (failed : Bool) (s : State) : Host.Outcome State Fault Refusal :=
  .next (if s.inStep 4 && !s.start.s4Done then
    if failed then s.startFailed
    else
      let t := { s.loadStores with start := { s.start with s4Done := true } }
      if t.paired then t else t.setStep 5
    else s)

/-! ### S5 and the end of START-UP (R18, R456, R505, R576) -/

/-- R576: PERST_N of every created link is driven low. -/
def State.startLinks (s : State) : State :=
  (List.range 16).foldl (fun s pl => if s.linkExists pl then s.setLink pl { s.link pl with perst := .low } else s) s

/-- The cores of parish `p` start. -/
def State.startParish (s : State) (recovery : Bool) (p : Nat) : State :=
  ((List.range 46).filter (fun n => s.flag (Reg.parCores p) n && s.coreValid n)).foldl
    (fun s n => s.startCore n recovery) s

/-- R505, R510: START-UP is left. -/
def State.leaveStartup (s : State) (ph : Nat) : State :=
  ((s.setReg Reg.imgTime s.ts).setStep 7).setPhase ph

/-- R372, R505: S5 is done: the links start, the epoch is 1, and every parish's cores run. -/
def State.finishS5 (s : State) : State :=
  let s := (s.startLinks.setFld Reg.ldgStat 48 16 1).leaveStartup phService
  let s := { s with pins := { s.pins with actOut := some (s.role == 1) } }
  (validParishes s.image).foldl (State.startParish · false) s

/-- R456: a module that has taken the ACTIVE role enters S5 and asserts PAIR_ACT_OUT, or waits. -/
def State.claimActive (s : State) : State :=
  if s.pins.actIn then { s with pair := { s.pair with waitAct := true } }
  else
    ({ s with pair := { s.pair with waitAct := false, claiming := true },
              pins := { s.pins with actOut := some true } }).setStep 5

/-- STARTUP_S5. -/
def State.runS5 (s : State) : State :=
  if !s.paired then (if s.inStep 5 then s.finishS5 else s)
  else if s.inStep 4 && s.start.s4Done && s.role == 1 then s.claimActive
  else s

/-- STARTUP_S5: R456, R505. -/
def execStartupS5 (s : State) : Host.Outcome State Fault Refusal := .next s.runS5

end Sys2Proof.Machine
end

