-- ==== Sys2Proof/Machine/Pairing.lean ====
section
/-! DEFINITION. Pair operation: frames, the handshake, mirroring, heartbeat and loss, takeover, switch-over and
re-integration (R18, R20, R377, R449-R471). -/

namespace Sys2Proof.Machine

/-! ### Frames (R450-R453) -/

/-- The link carries frames: it is up in a pair, and the VIN-fed units have power. -/
def State.linked (s : State) : Bool := s.paired && s.flag Reg.pairStat 3 && s.pins.vaux && s.pins.resetN && s.pins.vin

/-- A control frame that leaves whether the partner is in step or not. -/
def State.sendCtl (s : State) (b : FrameBody) : State :=
  if s.linked then s.postFrame b b.ahead else s

/-- R453: every frame up to ACKSEQ is acknowledged; what waited for them goes on (R438). -/
def State.acked (s : State) (a : BitVec 12) : State :=
  if s.pair.tx.any (fun f => f.fseq == a) then
    let rest := (s.pair.tx.dropWhile (fun f => f.fseq != a)).drop 1
    let s := { s with pair := { s.pair with tx := rest } }
    (State.pumpFrames s.pair.queue.length s).moveSettled
  else s

/-- R453, R471: what is not acknowledged is sent again, with the acknowledgement of what has been received since. -/
def State.resend (s : State) : State :=
  if s.pair.tx.isEmpty then s
  else
    let tx := s.pair.tx.map (fun (f : Frame) => { f with ackseq := s.pair.rxNext - 1, nak := s.pair.nak })
    ({ s with pair := { s.pair with tx := tx, resends := s.pair.resends + 1 } }).countSat Reg.pairLink 32 32

/-- R453: the IDLE frame that fills the time: it carries the acknowledgement of what has been received (log 43). -/
def State.idleFrame (s : State) : Frame :=
  { fseq := s.pair.nextFseq, body := .idle, time := s.ts.toNat, ackseq := s.pair.rxNext - 1, nak := s.pair.nak }

/-- R453: a frame whose trailer is read: acknowledged frames leave, and a NAK resends the rest. -/
def State.trailer (s : State) (ack : BitVec 12) (nak : Bool) : State :=
  let s := s.acked ack
  if nak then s.resend else s

/-- R451, R453: a frame in order is received and acts; any other is dropped with NAK. Of several messages in one frame the
last counts it as received. -/
def State.receive (s : State) (h : FrameHdr) (act : State → State) : State :=
  if !s.linked then s
  else if h.fseq ≠ s.pair.rxNext then { s with pair := { s.pair with nak := true } }
  else
    s.whole (fun s =>
      if h.more then act s
      else
        let s := { s with pair := { s.pair with rxNext := s.pair.rxNext + 1, nak := false } }
        act (s.trailer h.ackseq h.nak))

/-- IDLE_FRAME: R453. -/
def execIdleFrame (h : FrameHdr) (s : State) : Host.Outcome State Fault Refusal := .next (s.receive h id)

/-- FRAME_NAK: R453. -/
def execFrameNak (ackseq : BitVec 12) (s : State) : Host.Outcome State Fault Refusal :=
  .next (if s.linked then s.trailer ackseq true else s)

/-- FRAME_CRC_DROP: R453, R471, R473. -/
def execFrameCrcDrop (crcBad : Bool) (s : State) : Host.Outcome State Fault Refusal :=
  .next (if !s.linked then s
    else
      let t := { s with pair := { s.pair with nak := true } }
      if crcBad then
        (t.countSat Reg.pairLink 16 16).fault
          { src := 0x40, acc := 0xF, master := 0x500, parish := none, pa := none, synd := 0 }
      else t)

/-! ### What a standby applies (R369, R458, R464, R467) -/

/-- R469: a standby commits what the active sends, until it stops. -/
def State.mirrors (s : State) : Bool := s.role == 2 && s.stop == .running

/-- R20, R467: the standby receives the copy. -/
def State.receiving (s : State) : Bool := s.mirrors && s.phase == phRecovery && s.pair.rcv

/-- R471: the largest lag from home to partner. -/
def State.noteLag (s : State) (t : BitVec 64) : State :=
  s.setFld Reg.pairLink 0 16 (max (s.fld Reg.pairLink 0 16) (min 0xFFFF (s.ts.toNat - t.toNat)))

/-- R467: lines received while in RECOVERY. -/
def State.noteGot (s : State) (line n : Nat) : State :=
  if s.receiving then { s with pair := { s.pair with got := s.pair.got ++ [(line, n)] } } else s

/-- R309, R458: a mirror write is applied at home; while the line is being mended its words wait for that (R259), and the
frame is committed all the same (log 84). -/
def State.mirrorPut (s : State) (line : Nat) (mask : BitVec 8) (ws : List Word) : State :=
  if s.mem.mends.any (fun m => m.1 == line) then
    let ks := (List.range 8).filter (fun i => mask.getLsbD i)
    { s with coh := { s.coh with late := s.coh.late ++ ks.map (fun i =>
      { pa := 64 * line + 8 * i, w := ws.getD i Word.raw0, m := 0x500, parish := 0, slot := none, card := false,
        log := false }) } }
  else s.homePut line mask ws 0x500

/-- R309, R458: a MIRROR record: a change of the partner's memory, or its answer to a mend. A mend without words
says that the partner holds no good copy (R310). -/
def State.applyMirror (s : State) (r : MirrorRec) : State :=
  let line := r.line.toNat
  if r.mend then s.mendReply line (if r.wmask = 0xFF#8 then some r.words else none)
  else if !s.mirrors then s
  else
    let s := (s.mirrorPut line r.wmask r.words).noteLag r.time
    if r.wmask = 0xFF#8 then s.noteGot line 1 else s

/-- MIRROR: R451, R458. -/
def execMirror (h : FrameHdr) (recs : List MirrorRec) (s : State) : Host.Outcome State Fault Refusal :=
  .next (s.receive h (fun s => recs.foldl State.applyMirror s))

/-- R369, R372: a ledger update is committed, and the channel record that came with it. -/
def State.applyLedger (s : State) (r : LedgerRec) : State :=
  if !s.mirrors then s
  else
    let e := ledgerOfWords r.entry
    let s := s.setLedger r.chan.val r.slot.val e
    let s := { s with io := { s.io with crecs := s.io.crecs.ins r.chan.val r.crec } }
    s.setFld Reg.ldgStat 48 16 (max s.epoch e.epoch.toNat)

/-- LEDGER: R369, R451. -/
def execLedger (h : FrameHdr) (recs : List LedgerRec) (s : State) : Host.Outcome State Fault Refusal :=
  .next (s.receive h (fun s => recs.foldl State.applyLedger s))

/-- The granules of DRAM of the mirrored parishes, in ascending order. -/
def State.mirroredGranules (s : State) : List Nat :=
  let gs := (s.runs.filter (fun r => s.mirrored r.parish && decide (r.ty = .wb ∨ r.ty = .uc) &&
    decide ((r.phys + r.num) * 2 ^ 30 ≤ s.dramEnd))).flatMap (fun r => (List.range r.num).map (· + r.phys))
  (sortBy (fun a b => decide (a ≤ b)) gs).eraseDups

/-- R471: the MiB that a copy holds. -/
def State.copyTotal (s : State) : BitVec 64 := BitVec.ofNat 64 (1024 * s.mirroredGranules.length)

/-- R471: MiB copied, of the granules that TOTAL counts: lines of a capability table outside them do not count. -/
def State.countCopied (s : State) (first lines : Nat) : State :=
  if s.mirroredGranules.contains (first / 2 ^ 24) then
    let n := s.pair.copyPos + lines
    ({ s with pair := { s.pair with copyPos := n } }).setFld Reg.pairRcv 32 22 (n / 2 ^ 14)
  else s

/-- R467: consecutive lines of the copy. -/
def State.applyBulk (s : State) (first : Nat) (lines : List (List Word)) : State :=
  if !s.receiving then s
  else
    let s := lines.zipIdx.foldl (fun s e => s.mirrorPut (first + e.2) 0xFF#8 e.1) s
    (s.noteGot first lines.length).countCopied first lines.length

/-- BULK: R451, R467. -/
def execBulk (h : FrameHdr) (first : LineAddr) (lines : List (List Word)) (s : State) :
    Host.Outcome State Fault Refusal := .next (s.receive h (fun s => s.applyBulk first.toNat lines))

/-- The first line of each page of a run of lines. -/
def pageHeads (first n : Nat) : List Nat :=
  if n = 0 then []
  else (List.range ((first + n - 1) / 64 - first / 64 + 1)).map (fun i => max first (64 * (first / 64 + i)))

/-- R441, R467: a run of lines that read RAW 0. -/
def State.applyZero (s : State) (first n : Nat) : State :=
  if !s.receiving then s
  else
    let m := s.mem
    let out (l : Nat) : Bool := decide (l < first ∨ first + n ≤ l)
    let stays (k : Nat) : Bool := out k && m.remapD.all (fun e => e.2 != k || out e.1)
    let s := { s with mem := { m with dram := m.dram.filter (fun e => stays (e.1 / 8)),
                                      dramErr := m.dramErr.filter (fun e => stays e.1),
                                      gran := m.gran.filter (fun e => out e.1), granDirty := m.granDirty.filter out,
                                      merge := m.merge.filter (fun e => out (e.word / 8)) } }
    let s := ((m.mends.map (·.1)).filter (fun l => !out l)).foldl
      (fun s l => s.mirrorPut l 0xFF#8 (List.replicate 8 Word.raw0)) s
    let s := (pageHeads first n).foldl (fun s l => s.logPages l 0x500) s
    (s.noteGot first n).countCopied first n

/-- ZRUN: R451, R467. -/
def execZrun (h : FrameHdr) (runs : List (LineAddr × Nat)) (s : State) : Host.Outcome State Fault Refusal :=
  .next (s.receive h (fun s => runs.foldl (fun s r => s.applyZero r.1.toNat r.2) s))

/-- R464, R556: the values that the keepers hold; a standby's DIO_OUT follows. -/
def State.applyDio (s : State) (v : BitVec 32) : State :=
  if s.mirrors then
    ({ s with pair := { s.pair with dioHeld := v } }).setReg Reg.dioOut (v.setWidth 64 &&& s.reg Reg.dioOen)
  else s

/-- DIO: R452, R464. -/
def execDio (h : FrameHdr) (v : BitVec 32) (s : State) : Host.Outcome State Fault Refusal :=
  .next (s.receive h (·.applyDio v))

/-- R310: this module holds a copy of the line that it can give. -/
def State.holdsCopy (s : State) (line : Nat) : Bool :=
  s.phase == phService || (s.phase == phRecovery && s.pair.got.any (fun r => decide (r.1 ≤ line ∧ line < r.1 + r.2)))

/-- R309: this module reads its copy of a line through its code; none where that is uncorrectable. -/
def State.copyLine (s : State) (line : Nat) : State × Option (List Word) :=
  let w : Who := { master := 0x500, acc := 0xF, parish := s.ownerOf (64 * line) }
  let s := (s.drainLine line).granCheck line 0xFF#8 w
  match s.mem.gran.find line with
  | some g => (s, some g.data)
  | none =>
    match s.burstDecode line w with
    | (s, .words ws) => (s, some ws)
    | (s, .lost _ _) => (s, none)

/-- MENDQ: R309, R310. -/
def State.answerMend (s : State) (line : Nat) : State :=
  let (s, copy) := if s.holdsCopy line then s.copyLine line else (s, none)
  s.sendFrame (.mirror [{ mend := true, line := BitVec.ofNat 46 line, wmask := if copy.isSome then 0xFF#8 else 0#8,
                          words := copy.getD [], time := s.ts }])

/-- MENDQ. -/
def execMendq (h : FrameHdr) (line : LineAddr) (s : State) : Host.Outcome State Fault Refusal :=
  .next (s.receive h (·.answerMend line.toNat))

/-- TAT_MESSAGE: R458. -/
def execTatMessage (h : FrameHdr) (t : BitVec 8) (v : BitVec 64) (s : State) : Host.Outcome State Fault Refusal :=
  .next (s.receive h (fun s => if s.mirrors then s.setReg (Reg.tat t.toNat) v else s))

/-- R365, R438: the channel record that a standby holds follows a MOVE: PARISH of its CH_CFG. -/
def State.moveRecord (s : State) (q : QueueId) : State :=
  match q with
  | .chan c =>
    match s.io.crecs.find c.val with
    | some (cfg :: rest) =>
      { s with io := { s.io with crecs := s.io.crecs.ins c.val (putBits cfg 28 4 (s.qParish q) :: rest) } }
    | _ => s
  | _ => s

/-- MOVE_MESSAGE: R438, R458. -/
def execMoveMessage (h : FrameHdr) (arg : BitVec 32) (s : State) : Host.Outcome State Fault Refusal :=
  .next (s.receive h (fun s =>
    if s.mirrors then (s.moveQueue (argQueue arg.toNat) (argParish arg.toNat)).moveRecord (argQueue arg.toNat) else s))

/-! ### Roles (R454-R456) -/

def State.setRole (s : State) (r : Nat) : State :=
  { s with pair := { s.pair with settled := true } }.setFld Reg.pairStat 0 2 r

/-- R18, R576: a STANDBY enters RECOVERY: its outputs become keepers and its links start. -/
def State.enterRecovery (s : State) : State :=
  if s.role = 2 ∧ s.inStep 4 = true ∧ s.start.s4Done = true then
    let s := s.startLinks.leaveStartup phRecovery
    let s := { s with pins := { s.pins with actOut := some false }, pair := { s.pair with got := [], copyPos := 0, rcv := true } }
    s.setReg Reg.pairRcv s.copyTotal
  else s

/-- R470, R18: what the partner reports of its phase. -/
def State.partnerPhase (s : State) (ph : BitVec 2) : State :=
  let s := s.setFld Reg.pairStat 6 2 ph.toNat
  let s := if ph.toNat = phStartup then { s with pair := { s.pair with copy := .idle } } else s
  if ph.toNat = phService then s.enterRecovery else s

/-- R455: the role that an accepted HELLO gives an unsettled module: 1 ACTIVE, 2 STANDBY, or none yet; and whether
both modules are strapped alike. -/
def helloRole (strap : Bool) (die : BitVec 64) (i : HelloInfo) : Option (Nat × Bool) :=
  match i.role with
  | some r => if r = 1#2 then some (2, false) else if r = 2#2 then some (1, false) else none
  | none =>
    if !i.s4done then none
    else if strap && !i.strap then some (1, false)
    else if !strap && i.strap then some (2, false)
    else some (if die.toNat < i.die.toNat then 1 else 2, true)

/-- R455: a HELLO settles the role of a module whose own S4 has ended. -/
def State.settleRole (s : State) (i : HelloInfo) : State :=
  if s.pair.settled || !(s.inStep 4 && s.start.s4Done) then s
  else match helloRole s.pins.pairRole s.rom.dieId i with
    | none => s
    | some (r, alike) => (if alike then s.setEv Reg.pairStat 11 340 else s).setRole r

/-- R454: the stepping identifier of FEA's DEVICE record. -/
def State.stepping (s : State) : BitVec 16 := (s.feaWord 0x108).setWidth 16

/-- R454: a HELLO that this module accepts. -/
def State.helloOk (s : State) (i : HelloInfo) : Bool :=
  i.dig == s.reg Reg.pairDig && i.krid == s.reg Reg.cphKrid && i.step == s.stepping

/-- R454, R455, R470: a HELLO is accepted, or shows a mismatch. -/
def State.hello (s : State) (i : HelloInfo) : State :=
  if s.helloOk i then
    let s := { s with pair := { s.pair with leaveRx := false } }.setFld Reg.pairStat 4 2 1
    (s.settleRole i).partnerPhase i.phase
  else
    ((s.setFld Reg.pairStat 4 2 3).setEv Reg.pairStat 13 340).fault
      { src := 0x41, acc := 0xF, master := 0x500, parish := none, pa := none, synd := 0 }

/-- R369: no order waits for a commit by a partner that has dropped out. -/
def State.unsendAll (s : State) : State :=
  let clear (e : Nat × ChanState) : Nat × ChanState :=
    (e.1, { e.2 with waiting := e.2.waiting.map (fun (o : OrderWait) => { o with sent := none }) })
  { s with io := { s.io with chans := s.io.chans.map clear } }

/-- R453: a HELLO that reaches a module whose link is down shows that the partner has trained it again. What is not
acknowledged is kept; with a partner that starts up, frames are counted afresh. -/
def State.relink (s : State) (h : FrameHdr) (i : HelloInfo) : State :=
  if s.paired && !s.flag Reg.pairStat 3 && s.start.accepted && s.pins.vaux && s.pins.resetN && s.pins.vin && s.tsRun then
    let s := s.setLinkUp true
    if i.phase.toNat = phStartup then
      { s with pair := { s.pair with tx := [], queue := [], nextFseq := 0, rxNext := h.fseq, nak := false } }.unsendAll
    else s
  else s

/-- HELLO: R454, R455. -/
def execHello (h : FrameHdr) (info : HelloInfo) (s : State) : Host.Outcome State Fault Refusal :=
  .next ((s.relink h info).receive h (·.hello info))

/-- R452: what this module says of itself. -/
def State.helloInfo (s : State) : HelloInfo :=
  { dig := s.reg Reg.pairDig, krid := s.reg Reg.cphKrid, step := s.stepping, die := s.rom.dieId, strap := s.pins.pairRole,
    phase := BitVec.ofNat 2 s.phase, s4done := s.start.s4Done,
    role := if s.pair.settled then some (BitVec.ofNat 2 s.role) else none }

/-- HELLO_SEND: R454. -/
def execHelloSend (s : State) : Host.Outcome State Fault Refusal :=
  .next (if s.start.s4Done && s.stop == .running then s.sendCtl (.hello s.helloInfo) else s)

/-- HELLO_TIMEOUT: R455: no HELLO was accepted within 1 ms of the end of S4. -/
def execHelloTimeout (s : State) : Host.Outcome State Fault Refusal :=
  .next (if s.paired && s.inStep 4 && s.start.s4Done && !s.pair.settled && !s.pair.absent && !s.partnered then
    let t := { s with pair := { s.pair with absent := true } }
    if s.pins.pairRole then t.setRole 1 else t
    else s)

/-! ### Standing down and the ACTIVE's claim (R456, R461) -/

/-- R461: the module stands down. -/
def State.standDown (s : State) : State :=
  let s := (({ s.stopUnits .stood with stop := .stood }).dropActOut).setEv Reg.pairStat 15 340
  let s := { s with pair := { s.pair with claiming := false, waitAct := false, lossHold := false, switching := false } }
  s.fault { src := 0x43, acc := 0xF, master := 0x500, parish := none, pa := none, synd := 0 }

/-- ACTIVE_CLAIM_CHECK: R456. -/
def execActiveClaimCheck (s : State) : Host.Outcome State Fault Refusal :=
  .next (if s.inStep 5 && s.pair.claiming then
    if s.pins.actIn then s.standDown
    else ({ s with pair := { s.pair with claiming := false } }).finishS5
    else s)

/-- PAIR_ACT_IN_ASSERT: R461, R548. -/
def execPairActInAssert (s : State) : Host.Outcome State Fault Refusal :=
  let t := { s with pins := { s.pins with actIn := true } }
  .next (if !s.pins.actIn && s.paired && s.role == 1 && s.phase == phService && s.pins.actOut == some true then t.standDown else t)

/-- PAIR_ACT_IN_DEASSERT: R456. -/
def execPairActInDeassert (s : State) : Host.Outcome State Fault Refusal :=
  let t := { s with pins := { s.pins with actIn := false } }
  .next (if t.pair.waitAct && t.inStep 4 && t.role == 1 then t.claimActive else t)

/-! ### Takeover (R377, R462) -/

/-- R462: a STANDBY in SERVICE takes over. -/
def State.takeover (s : State) : State :=
  if s.role = 2 ∧ s.phase = phService ∧ s.stop = .running then
    let s := { s with pins := { s.pins with actOut := some true }, pair := { s.pair with tx := [], queue := [], takeT0 := some s.ts.toNat } }
    (s.setRole 1).setEv Reg.pairStat 14 340
  else s

/-- R344, R366, R377: the completion entry of a DONE order is written where CQIDX says; TAIL is past it; and IRQ raises CPL. -/
def State.rewriteDone (s : State) (c slot : Nat) : State :=
  let e := s.ledgerAt c slot
  let (w0, w1, w2, w3) := e.cqe c
  let i := e.cqidx.toNat
  let s := s.qEntryAt (chanQ c) i (s.chanMaster c) w0 w1 w2 w3
  let t := s.cqTail (chanQ c)
  let s := if (i + 1 + 2 ^ 32 - t) % 2 ^ 32 < 2 ^ 31 then s.setFld (Reg.chCqp c) 32 32 (i + 1) else s
  let s := s.setLedger c slot { e with st := .closed, written := true }
  if e.irq then s.qFlag (chanQ c) 0 else s

/-- R451: the registers that a channel record holds, in its order. -/
def recordRegs (c : Nat) : List Nat :=
  [Reg.chCfg c, Reg.chSqb c, Reg.chCqb c, Reg.chSqp c, Reg.chCqp c, Reg.chSeq c, Reg.chAdb c]

/-- R377: the registers of a channel come from its record, where one has been received. -/
def State.putRecord (s : State) (c : Nat) : State :=
  match s.io.crecs.find c with
  | none => s
  | some r => ((recordRegs c).zip r).foldl (fun (s : State) (e : Nat × BitVec 64) => s.setReg e.1 e.2) s

/-- R377: the queue registers and the next SEQ of a channel are restored; the last SEQ released is that of an order of this
session, which has a SEQ below NEXT. -/
def State.restoreChan (s : State) (c : Nat) : State :=
  let s := s.putRecord c
  let open' := (s.ledgerOf c LedgerEntry.outstanding).length
  let head := s.sqHead (chanQ c)
  let next := s.fld (Reg.chSeq c) 0 48 + (s.fld (Reg.chSeq c) 63 1)
  let s := s.setFld (Reg.chSeq c) 48 11 open'
  s.setChan c { ChanState.reset with
    reserved := (s.ledgerOf c (fun e => e.st == .accepted || e.st == .released)).length, begun := BitVec.ofNat 32 head,
    lastRel := (s.ledgerOf c (fun e => e.st != .free && e.reln != 0 && decide (e.seq.toNat < next))).foldl
      (fun a e => max a e.2.seq.toNat) 0,
    retake := (s.sqTail (chanQ c) + 2 ^ 32 - head) % 2 ^ 32 }

/-- R346, R377: an order that is not DONE is released under the new epoch, or stays ACCEPTED while its link is down. -/
def State.rerelease (s : State) (c slot : Nat) : State :=
  if s.linkUpBit (s.chanLink c) then s.release c slot
  else s.setLedger c slot { s.ledgerAt c slot with st := .accepted, epoch := BitVec.ofNat 16 s.epoch, reln := 0 }

/-- R346, R377: the ledger of one assigned channel at a takeover: a HALT order that is DONE with a failure still aborts the
later orders of its program that are not released; `last` where the epochs are used up (R372). -/
def State.takeChan (last : Bool) (s : State) (c : Nat) : State :=
  let s := s.restoreChan c
  if !s.mirrored (s.qParish (chanQ c)) then
    let s := (s.ledgerOf c LedgerEntry.outstanding).foldl
      (fun s e => s.setLedger c e.1 { s.ledgerAt c e.1 with st := .closed, written := true }) s
    (s.setChan c { s.chan c with reserved := 0, spent := last }).setFlag (Reg.chCfg c) 0 false
  else
    let ended := s.ledgerOf c (fun e => e.st == .done)
    let s := ended.foldl (fun s e => s.rewriteDone c e.1) s
    let s := (ended.filter (fun e => e.2.halt && e.2.status != 0)).foldl (fun s e => s.haltAfter c e.2.desc e.2.ordidx) s
    let live := s.ledgerOf c (fun e => e.st == .accepted || e.st == .released)
    if last then
      let s := s.endAll c live 0x0C
      let s := if live = [] then s else s.ledgerFlag c 0
      (s.setChan c { s.chan c with spent := true }).setFlag (Reg.chCfg c) 0 false
    else (live.foldl (fun s e => s.rerelease c e.1) s).issueTail c

/-- R372, R377: the ledger takeover. -/
def State.ledgerTakeover (s : State) : State :=
  let last := s.epoch == 0xFFFF
  let s := if last then s else s.setFld Reg.ldgStat 48 16 (s.epoch + 1)
  ((List.range 256).filter (fun c => s.flag (Reg.chCfg c) 32)).foldl (State.takeChan last) s

/-- R437, R462: every instance's weight is that of the image, and its deficit 0. -/
def State.imageWeights (s : State) : State :=
  let put (alt : Nat → Nat) (w : Nat → BitVec 64) (n : Nat) (s : State) : State :=
    (List.range n).foldl (fun s i => s.setReg (alt i) (w i &&& 0xFF#64)) s
  let s := put Reg.altChn (recWord s.image recChan 0) 256 s
  let s := put Reg.altCmp (recWord s.image recCmpi 0) 64 s
  put Reg.altCph (fun i => recWord s.image recCphi 0 (2 * i)) 64 s

/-- R399, R423: the engine instances that a new active finds: EN 0, no jobs, and empty key slots. -/
def State.freshEngines (s : State) : State :=
  let s := { s with io := { s.io with comp := [] } }.clearCipher
  (List.range 64).foldl (fun s i => s.setFlag (queueCfg (compQ i)) 0 false) s

/-- TAKEOVER_DRIVE: R462: 2 µs after t0. -/
def State.takeoverDrive (s : State) : State :=
  if s.pair.takeT0.isSome ∧ s.stop = .running then
    let s := { s with pair := { s.pair with takeT0 := none } }.ledgerTakeover.freshEngines.imageWeights
    ((validParishes s.image).filter (fun p => s.mirrored p)).foldl (State.startParish · true) s
  else s

/-- TAKEOVER_DRIVE. -/
def execTakeoverDrive (s : State) : Host.Outcome State Fault Refusal :=
  let r := s.ledgerMeets (s.io.ledgerErr.filter (fun e => s.pair.takeT0.isSome && s.openKeys (fun c => s.flag (Reg.chCfg c) 32) e.1))
  .next (r.1.forced State.takeoverDrive)

/-- HANDOVER: R462: the old active has stopped and takes no more part. -/
def execHandover (h : FrameHdr) (s : State) : Host.Outcome State Fault Refusal :=
  .next (s.receive h (fun s =>
    if s.role = 2 ∧ s.phase = phService ∧ s.stop = .running then (s.setFld Reg.pairStat 4 2 0).takeover else s))

/-! ### Loss (R20, R310, R438, R460, R461, R469) -/

/-- What waited for the partner goes on without it. -/
def State.alone (s : State) : State :=
  let s := { s with pair := { s.pair with tx := [], queue := [], copy := .idle, copyPos := 0, got := [], rcv := false } }
  s.unsendAll.mendsLost.moveSettled

/-- LEAVE: R461, R469. -/
def execLeave (h : FrameHdr) (s : State) : Host.Outcome State Fault Refusal :=
  .next (s.receive h (fun s =>
    (({ s with pair := { s.pair with leaveRx := true } }).setFld Reg.pairStat 4 2 0).alone))

/-- R461, R469: an ACTIVE whose partner is lost. -/
def State.activeLost (s : State) : State :=
  if s.pair.switching then
    let s := { s with pair := { s.pair with switching := false } }
    (s.stopUnits .handed).dropActOut
  else if s.fld Reg.pairStat 6 2 = phService ∧ s.phase = phService ∧ s.stop = .running then
    { s with pair := { s.pair with lossHold := true } }
  else s

/-- PARTNER_LOST: R460, R469: also of a partner that has left or yielded. A planned switch-over that meets the loss records no
fault. -/
def State.partnerLost (s : State) : State :=
  if s.fld Reg.pairStat 4 2 = 2 ∨ (!s.partnered ∧ s.pair.hbRx.isNone) then s
  else
    let inStep := s.partnered
    let s := (s.setFld Reg.pairStat 4 2 2).setEv Reg.pairStat 12 340
    let s := if s.role = 1 ∧ s.pair.switching = true then s
      else s.fault { src := 0x42, acc := 0xF, master := 0x500, parish := none, pa := none, synd := 0 }
    if !inStep then s
    else
      let s := s.alone
      if s.role = 1 then s.activeLost else s.takeover

/-- PARTNER_LOST. -/
def execPartnerLost (s : State) : Host.Outcome State Fault Refusal := .next (s.forced State.partnerLost)

/-- The completion entries of a channel that waited for the 12 µs, in the order of their places. -/
def State.writeHeld (s : State) (c : Nat) : State :=
  let t := s.cqTail (chanQ c)
  let es := sortBy
    (fun a b => decide ((a.2.cqidx.toNat + 2 ^ 32 - t) % 2 ^ 32 ≤ (b.2.cqidx.toNat + 2 ^ 32 - t) % 2 ^ 32))
    (s.ledgerOf c (fun e => e.st == .done && !e.written))
  (es.foldl (fun s e => s.writeDone c e.1) s).flushChan c

/-- LOSS_HOLD_END: R461. -/
def execLossHoldEnd (s : State) : Host.Outcome State Fault Refusal :=
  .next (if s.pair.lossHold && !s.pins.actIn && s.stop == .running then
    s.whole (fun s =>
      let t := { s with pair := { s.pair with lossHold := false } }
      let t := ((List.range 256).filter (fun c => t.flag (Reg.chCfg c) 32)).foldl State.writeHeld t
      (List.range 64).foldl (fun t i => State.ciphAbort 65536 (State.compAbort 65536 t i) i) t)
    else s)

/-- WELIEN_LINK_DOWN: R449, R487. -/
def execWelienLinkDown (s : State) : Host.Outcome State Fault Refusal :=
  .next (if s.linked then s.setLinkUp false else s)

/-! ### Heartbeat (R460, R464, R470) -/

/-- R460, R470: the skew of a STANDBY, which slews its timestamp by at most one tick. What its own timestamp shows has
passed since the echoed one gives the age of the partner's, by a rule that the spec leaves open (log 43). -/
def State.slew (s : State) (t echo : BitVec 64) : State :=
  if s.role ≠ 2 ∨ s.tsRun = false then s
  else
    let t := t + Config.hbAge (s.ts - echo)
    let d : Int := (s.ts.toNat : Int) - t.toNat
    let s := { s with ts := if 0 < d then s.ts - 1 else if d < 0 then s.ts + 1 else s.ts }
    s.setFld Reg.pairStat 32 16 (BitVec.ofInt 16 ((s.ts.toNat : Int) - t.toNat)).toNat

/-- HB: R452, R460. -/
def execHb (h : FrameHdr) (time echo : BitVec 64) (role phase : BitVec 2) (s : State) :
    Host.Outcome State Fault Refusal :=
  .next (s.receive h (fun s =>
    ({ s with pair := { s.pair with hbRx := some time, hbRxEcho := echo, ppRole := role } }.slew time echo).partnerPhase phase))

/-- HB_SEND: R460, R464: a heartbeat; an ACTIVE sends its discrete outputs with it. -/
def State.hbSend (s : State) : State :=
  if s.linked && s.tsRun && (s.stop == .running || s.pair.switching) then
    let s := s.sendCtl (.hb s.ts (s.pair.hbRx.getD 0#64) (BitVec.ofNat 2 s.role) (BitVec.ofNat 2 s.phase))
    if s.role = 1 then s.sendFrame (.dio ((s.reg Reg.dioOut).setWidth 32)) else s
  else s

/-- HB_SEND. -/
def execHbSend (s : State) : Host.Outcome State Fault Refusal := .next s.hbSend

/-! ### Switch-over (R465, R469, R536) -/

/-- HANDOVER_SEND: every frame sent has been acknowledged. -/
def State.handoverSend (s : State) : State :=
  if s.linked && s.partnered && s.role == 1 && s.pair.switching && s.pair.tx.isEmpty && s.pair.queue.isEmpty then
    let s := s.sendFrame .handover
    let s := { s with pair := { s.pair with switching := false } }
    let s := if s.stop = .pfail then (s.setFlag Reg.pwrStat 2 true) else s
    let s := if s.stop = .pfail then { s with stop := .handed } else s.stopUnits .handed
    s.dropActOut
  else s

/-- HANDOVER_SEND. -/
def execHandoverSend (s : State) : Host.Outcome State Fault Refusal := .next s.handoverSend

/-! ### The RECOVERY copy (R467, R471) -/

/-- RCVDONE: R18, R20, R467, R487: nothing where the copy was abandoned. -/
def execRcvdone (h : FrameHdr) (s : State) : Host.Outcome State Fault Refusal :=
  .next (s.receive h (fun s =>
    if s.receiving then
      (({ s with pair := { s.pair with got := [], rcv := false } }).setPhase phService).raise 342
    else s))

/-- R451, R467: up to four consecutive lines of the copy, read at home, leave: runs of RAW 0 in a ZRUN frame, others in BULK
frames. -/
def State.sendGroup (s : State) (lines : List Nat) : State :=
  let read (r : State × List (Nat × List Word)) (l : Nat) : State × List (Nat × List Word) :=
    let (s, ws) := (r.1.settle l).homeWords l { master := 0x500, acc := 0xF, parish := r.1.ownerOf (64 * l) }
    (s, r.2 ++ [(l, ws)])
  let (s, got) := lines.foldl read (s, [])
  let zero (e : Nat × List Word) : Bool := e.2.all (fun w => w == Word.raw0)
  let zs := (got.filter zero).map (fun e => (BitVec.ofNat 46 e.1, 1))
  let s := if zs = [] then s else s.sendFrame (.zrun zs)
  (got.splitBy (fun a b => zero a == zero b)).foldl (fun s g =>
    match g with
    | [] => s
    | e :: _ => if zero e then s else s.sendFrame (.bulk (BitVec.ofNat 46 e.1) (g.map (·.2)))) s

/-- R453, R467: copy frames leave only while no other frame waits and there is room for those of a group. -/
def State.copyRoom (s : State) : Bool := s.pair.queue.isEmpty && decide (s.pair.tx.length + 4 ≤ 2048)

/-- R467: the copy of lines `pos` onward of a list goes on in groups of four while frames may leave; `k` bounds the
groups. The answer is how many lines have left. -/
def State.sendLines (lines : List Nat) : Nat → State → Nat → State × Nat
  | 0, s, pos => (s, pos)
  | k + 1, s, pos =>
    let g := (lines.drop pos).take 4
    if g = [] ∨ !s.copyRoom then (s, pos) else State.sendLines lines k (s.sendGroup g) (pos + g.length)

/-- R467: every ledger entry of channel `c`, with its record. -/
def State.sendLedger (s : State) (c : Nat) : State := (List.range 1024).foldl (fun s slot => s.ledgerSend c slot) s

/-- R467: the lines of the capability tables of the mirrored parishes. -/
def State.tableLines (s : State) : List Nat :=
  ((List.range 16).filter (fun p => s.flag (Reg.parCfg p) 0 && s.mirrored p)).flatMap (fun p =>
    let lo := s.fld (Reg.captBase p) 5 47 * 32 / 64
    let hi := (s.fld (Reg.captBase p) 5 47 * 32 + 32 * s.fld (Reg.captSize p) 0 29 + 63) / 64
    (List.range (hi - lo)).map (· + lo))

/-- R467: the lines of one MiB of a mirrored granule. -/
def mibLines (g k : Nat) : List Nat := (List.range (2 ^ 14)).map (fun i => g * 2 ^ 24 + k * 2 ^ 14 + i)

def State.setCopy (s : State) (c : CopyStage) (pos : Nat) : State :=
  { s with pair := { s.pair with copy := c, copyPos := pos } }

/-- R467, R471: the DRAM of the mirrored parishes, `copyPos` lines of which have left; after the last the copy is
complete. -/
def State.copyDram (s : State) : State :=
  let k := s.pair.copyPos / 2 ^ 14
  match s.mirroredGranules[k / 1024]? with
  | some g =>
    let (s, n) := State.sendLines (mibLines g (k % 1024)) 4096 s (s.pair.copyPos % 2 ^ 14)
    let pos := k * 2 ^ 14 + n
    (s.setFld Reg.pairRcv 32 22 (pos / 2 ^ 14)).setCopy .dram pos
  | none => ((s.sendFrame .rcvdone).raise 342).setCopy .done 0

/-- RECOVERY_COPY: R467: the next part of the copy to a partner in RECOVERY: a channel's ledger, as much of the tables as may
leave, the TAT, as much of a MiB as may leave. -/
def State.recoveryCopy (s : State) : State :=
  if s.partnered && s.role == 1 && s.phase == phService && s.stop == .running && s.fld Reg.pairStat 6 2 == phRecovery then
    match s.pair.copy with
    | .idle => ((s.setReg Reg.pairRcv s.copyTotal).sendLedger 0).setCopy .ledger 1
    | .ledger =>
      let c := s.pair.copyPos
      if c < 256 then (s.sendLedger c).setCopy .ledger (c + 1) else s.setCopy .capt 0
    | .capt =>
      let ls := s.tableLines
      let (s, n) := State.sendLines ls 4096 s s.pair.copyPos
      if ls.length ≤ n then s.setCopy .tat 0 else s.setCopy .capt n
    | .tat =>
      ((List.range 256).foldl (fun s t => s.sendFrame (.tat (BitVec.ofNat 8 t) (s.reg (Reg.tat t)))) s).setCopy .dram 0
    | .dram => s.copyDram
    | .done => s
  else s

/-- What RECOVERY_COPY reads of the ledger: the entries and the record of the channel that it copies. -/
def State.copyKeys (s : State) (k : Nat) : Bool :=
  match s.pair.copy with
  | .idle => keyChan k == 0
  | .ledger => keyChan k == s.pair.copyPos
  | _ => false

/-- RECOVERY_COPY. -/
def execRecoveryCopy (s : State) : Host.Outcome State Fault Refusal := .next (s.onLedger s.copyKeys State.recoveryCopy)

end Sys2Proof.Machine
end

