-- ==== Sys2Proof/Machine/Observe.lean ====
section
/-! DEFINITION. Monitors and the reaction to heat and rails, trace lanes, I3C, discrete inputs, FAULT_N, and parity in
the collector and router (R475, R480, R515-R523, R529-R531, R554). -/

namespace Sys2Proof.Machine

/-- R480: FAULT_N is released. -/
def State.faultN (s : State) : Bool :=
  s.pins.vaux && (List.range 4).all (fun c => !(decide (s.fld Reg.fcCfg 0 2 ≤ c) && s.flag Reg.fcStat c))

/-- A fault that no master, parish or address belongs to. -/
def ownFault (src : Nat) : FaultArg := { src := src, acc := 0xF, master := 0, parish := none, pa := none, synd := 0 }

/-- R479: a level source comes on, and its reaction follows only outside RESET_N. -/
def State.levelSet (s : State) (src : Nat) (on : Bool) : State :=
  if !on then s.levelOff src
  else if s.pins.resetN then s.levelOn (ownFault src)
  else if BitVec.ofNat 8 src ∈ s.levels then s
  else ({ s with levels := s.levels ++ [BitVec.ofNat 8 src] }).recordRail src

/-! ### Temperature (R515, R516, R530, R531) -/

/-- A two's-complement sample of 16 bits in a register. -/
def signed16 (n : Nat) : Int := (BitVec.ofNat 16 n).toInt

/-- R515: LIMIT has its value. -/
def State.limitsOn (s : State) : Bool := s.start.accepted && s.step? != 3

/-- R516: a sample of thermal sensor `n`. -/
def State.thermal (s : State) (fresh : Bool) (n : Nat) (t : BitVec 16) : State :=
  let peak := signed16 (s.fld (Reg.monT n) 16 16)
  let s := s.setFld (Reg.monT n) 0 16 t.toNat
  let s := if fresh ∨ peak < t.toInt then s.setFld (Reg.monT n) 16 16 t.toNat else s
  if s.limitsOn && decide (signed16 (s.fld (Reg.monT n) 32 16) ≤ t.toInt) then s.setEv (Reg.monT n) 48 (348 + n / 8) else s

def State.temp (s : State) (n : Nat) : Int := signed16 (s.fld (Reg.monT n) 0 16)

/-- R530: the temperature of chiplet `n`. -/
def State.chipletTemp (s : State) (n : Nat) : Int :=
  ((List.range 12).map (fun j => s.temp (12 * n + j)) ++ (List.range 4).map (fun j => s.temp (48 + 4 * n + j))).foldl
    max (s.temp (12 * n))

/-- R530: the entry threshold of an issue-limit level, in 1/16 °C. -/
def levelAt (k : Nat) : Int := 16 * (93 + 2 * k)

/-- R530: the highest level that a temperature enters. -/
def levelOf (t : Int) : Nat := if levelAt 3 ≤ t then 3 else if levelAt 2 ≤ t then 2 else if levelAt 1 ≤ t then 1 else 0

/-- R530: a level falls only 2 °C below its own entry threshold. -/
def fallTo (t : Int) (goal : Nat) : Nat → Nat
  | 0 => 0
  | k + 1 => if goal < k + 1 ∧ t ≤ levelAt (k + 1) - 32 then fallTo t goal k else k + 1

/-- R530: the next level of a chiplet. -/
def nextLevel (cur : Nat) (t : Int) : Nat := if cur ≤ levelOf t then levelOf t else fallTo t (levelOf t) cur

/-- R530, R539: the issue-limit levels after a sample. -/
def State.limitIssue (s : State) : State :=
  let s := (List.range 4).foldl (fun s n =>
    s.setFld Reg.thmStat (2 * n) 2 (nextLevel (s.fld Reg.thmStat (2 * n) 2) (s.chipletTemp n))) s
  let hot := (List.range 4).any (fun n => s.fld Reg.thmStat (2 * n) 2 != 0)
  let s := if hot then s.countSat Reg.thmStat 32 32 else s
  s.levelSet 0x48 hot

/-- R531: the trip: every regulator fed by VIN is off. DESIGN CHOICE (log 71): it asserts THERMTRIP_N in TEST as in every
other phase, though R19 holds every output but FAULT_N at high impedance there. -/
def State.trip (s : State) : State :=
  if s.pins.thermtrip then s
  else
    let s := { s with pins := { s.pins with thermtrip := true } }
    if !s.pins.resetN then s
    else
      let pair := s.paired
      let s := { s.unitsOff with stop := if pair then .handed else .trip }
      if pair then { s.dropActOut with pair := { s.pair with switching := false } } else s

def State.anyAbove (s : State) (t : Int) : Bool := (List.range 64).any (fun n => decide (t ≤ s.temp n))

/-- THERMAL_SAMPLE: R515, R530, R531. -/
def State.thermalSample (s : State) (temps : List (BitVec 16)) : State :=
  if !s.pins.vaux then s
  else
    let fresh := s.freshT
    let s := ((temps.take 64).zipIdx.foldl (fun s e => s.thermal fresh e.2 e.1) s)
    let s := { s with freshT := false }
    let s := if s.pins.resetN then s.limitIssue else s
    let s := s.levelSet 0x49 (s.anyAbove (16 * 110))
    if s.anyAbove (16 * 115) then s.trip else s

/-- THERMAL_SAMPLE. -/
def execThermalSample (temps : List (BitVec 16)) (s : State) : Host.Outcome State Fault Refusal :=
  .next (s.thermalSample temps)

/-! ### Rails (R516, R529) -/

/-- R529: the operating range of the rail of sensor `n`, in mV. -/
def railRange (n : Nat) : Nat × Nat :=
  if n < 4 then (760, 840) else if n < 8 then (810, 890) else if n < 12 then (710, 790) else if n < 16 then (1067, 1133)
  else if n < 21 then (860, 940) else if n = 21 then (1710, 1890) else if n = 22 then (760, 840) else (10800, 13200)

/-- R529: the span in which the rail of sensor `n` is checked. -/
def State.railSpan (s : State) (n : Nat) : Bool :=
  n == 21 || n == 22 || (s.pins.resetN && !s.pins.powerfail && s.pins.vin && !s.pins.thermtrip && decide (2 ≤ s.step?))

/-- R516, R529: a sample of voltage sensor `n`. -/
def State.rail (s : State) (fresh : Bool) (n : Nat) (v : BitVec 16) : State :=
  let (lo, hi) := railRange n
  let out := s.railSpan n && !decide (lo ≤ v.toNat ∧ v.toNat ≤ hi)
  let r := Reg.monV n
  let vmin := if fresh then v.toNat else min (s.fld r 16 16) v.toNat
  let vmax := if fresh then v.toNat else max (s.fld r 32 16) v.toNat
  let s := ((s.setFld r 0 16 v.toNat).setFld r 16 16 vmin).setFld r 32 16 vmax
  if out then s.setEv r 48 (348 + (8 + n / 4)) else s

/-- R529: the sensors whose sample is outside its range, within its span. -/
def State.railsOut (s : State) : BitVec 24 :=
  BitVec.ofNat 24 (((List.range 24).filter (fun n =>
    let v := s.fld (Reg.monV n) 0 16
    s.railSpan n && !decide ((railRange n).1 ≤ v ∧ v ≤ (railRange n).2))).foldl (fun a n => a + 2 ^ n) 0)

/-- VOLTAGE_SAMPLE: R529: a rail other than VIN is outside its range at two samples in a row. -/
def State.voltageSample (s : State) (mv : List (BitVec 16)) : State :=
  if !s.pins.vaux then s
  else
    let fresh := s.freshV
    let s := (mv.take 24).zipIdx.foldl (fun s e => s.rail fresh e.2 e.1) s
    let now := s.railsOut
    let twice := now &&& s.vOut &&& 0x7FFFFF#24
    { s with freshV := false, vOut := now }.levelSet 0x4A (twice != 0#24)

/-- VOLTAGE_SAMPLE. -/
def execVoltageSample (mv : List (BitVec 16)) (s : State) : Host.Outcome State Fault Refusal :=
  .next (s.voltageSample mv)

/-- R516: a sample of process sensor `n`. -/
def State.process (s : State) (n : Nat) (c : BitVec 24) : State :=
  let b := s.fld (Reg.monP n) 24 24
  let s := s.setFld (Reg.monP n) 0 24 c.toNat
  let d := if c.toNat ≤ b then b - c.toNat else c.toNat - b
  if b ≠ 0 ∧ b < 32 * d then s.setEv (Reg.monP n) 48 (348 + (14 + n / 8)) else s

/-- PROCESS_SAMPLE: R515, R516. -/
def execProcessSample (counts : List (BitVec 24)) (s : State) : Host.Outcome State Fault Refusal :=
  .next (if s.pins.vaux then (counts.take 16).zipIdx.foldl (fun s e => s.process e.2 e.1) s else s)

/-! ### Trace lanes (R520-R522) -/

def State.laneOn (s : State) (lane : Nat) : Bool := s.tsRun && s.flag Reg.trcCtl (4 + lane)

/-- A packet leaves on a lane. -/
def State.laneSend (s : State) (lane : Nat) (p : List (BitVec 64)) : State :=
  { s with trace := { s.trace with sent := s.trace.sent.ins lane p } }

/-- R520: a SYNC packet leaves on an enabled lane. -/
def State.laneSync (s : State) (lane : Nat) : State :=
  if s.laneOn lane then
    let s := s.laneSend lane (packet 1 0 s.ts [s.ts])
    { s with trace := { s.trace with lastSync := s.trace.lastSync.ins lane s.ts.toNat } }
  else { s with trace := { s.trace with lastSync := s.trace.lastSync.del lane } }

/-- R520: what an enabled lane sends next: SYNC where it has just started, else the oldest packet, else IDLE. -/
def State.lanePacket (s : State) (lane : Nat) : State :=
  if !s.laneOn lane || (s.trace.lastSync.find lane).isNone then s.laneSync lane
  else
    match s.trace.buf with
    | [] => s.laneSend lane [0#64]
    | p :: rest => { s with trace := { s.trace with buf := rest } }.laneSend lane p

/-- TRACE_PACKET: R520, R521. -/
def execTracePacket (lane : Fin 4) (s : State) : Host.Outcome State Fault Refusal := .next (s.lanePacket lane.val)

/-- TRACE_SYNC: R520. -/
def execTraceSync (lane : Fin 4) (s : State) : Host.Outcome State Fault Refusal := .next (s.laneSync lane.val)

/-! ### I3C (R523) -/

/-- R523: FEA, IMG, FCL and MON. -/
def i3cAlways (off : Nat) : Bool :=
  decide (off < 0x20000 ∨ (0x30000 ≤ off ∧ off < 0x40000) ∨ (0x50000 ≤ off ∧ off < 0x60000))

/-- R523: TAL, TRC, PAIR and CORE offsets 0x0400 to 0x06FF. -/
def i3cPowered (off : Nat) : Bool :=
  decide ((0x60000 ≤ off ∧ off < 0x70000) ∨ (0x5000000 ≤ off ∧ off < 0x5001000) ∨
    (Reg.core 0 ≤ off ∧ off < Reg.core 48 ∧ 0x400 ≤ off % 0x10000 ∧ off % 0x10000 < 0x700))

/-- R523: the register that a read of `off` returns. -/
def State.i3cValue (s : State) (off : Nat) : Reg64 :=
  if off % 8 ≠ 0 ∨ regRowAt off = none then 0#64
  else if i3cAlways off then s.regValue off
  else if i3cPowered off && s.pins.vin && decide (2 ≤ s.step?) then s.regValue off
  else 0#64

/-- I3C_READ: R523. -/
def execI3cRead (off : BitVec 32) (s : State) : Host.Outcome State Fault Refusal :=
  .next (if s.pins.vaux && s.pins.resetN then { s with i3cOut := s.i3cValue off.toNat } else s)

/-- I3C_DYNAMIC_ADDRESS: R523. -/
def execI3cDynamicAddress (a : BitVec 7) (s : State) : Host.Outcome State Fault Refusal :=
  .next (if s.pins.vaux && s.pins.resetN then { s with i3cAddr := a } else s)

/-! ### Discrete inputs (R554) -/

/-- DIN_ACCEPT: R554: the level of input `i` has held for 600 SCLK cycles. -/
def State.dinAccept (s : State) (i : Nat) (level : Bool) : State :=
  let s := { s with pins := { s.pins with din := BitVec.ofNat 32 (putBit (s.pins.din.setWidth 64) i level).toNat } }
  if s.pins.vaux && s.pins.resetN && s.tsRun && s.flag Reg.dioIen i && s.flag Reg.dioIn i != level then
    (s.setFlag Reg.dioIn i level).setEv Reg.dioChg i (376 + i / 4)
  else s

/-- DIN_ACCEPT. -/
def execDinAccept (i : Fin 32) (level : Bool) (s : State) : Host.Outcome State Fault Refusal :=
  .next (s.dinAccept i.val level)

/-! ### Parity in the collector and the router (R475) -/

/-- EVENT_ROUTER_PARITY_ERROR: R475: the register at `off` of the FCL or EVT block. -/
def State.parityError (s : State) (off : Nat) : State :=
  if !(s.pins.vaux && s.pins.resetN && decide (0x30000 ≤ off ∧ off < 0x50000) && (regRowAt off).isSome) then s
  else
    let s := if Reg.evPend 0 ≤ off ∧ off < Reg.evPend 6 then s.setReg off (BitVec.allOnes 64)
      else if off < Reg.evPend 0 ∧ Reg.evRoute 0 ≤ off ∧ off ∉ s.badRoutes then { s with badRoutes := s.badRoutes ++ [off] }
      else s
    s.fault { src := 0x51, acc := 0xF, master := 0x800, parish := none, pa := some (controlBase + off), synd := 0 }

/-- EVENT_ROUTER_PARITY_ERROR. -/
def execEventRouterParityError (off : BitVec 28) (s : State) : Host.Outcome State Fault Refusal :=
  .next (s.parityError off.toNat)

end Sys2Proof.Machine
end

