-- ==== Sys2Proof/Machine/Tap.lean ====
section
/-! DEFINITION. The IEEE 1149.1 test access port in TEST (R19, R543, R549). -/

namespace Sys2Proof.Machine

/-! ### The boundary cells (R543, R549) -/

/-- A boundary cell: the observe cell of an input whose level the device sees (by its place in `pinLevel`); an observe
cell, or the data cell of a bidirectional pin, whose pin's level no state holds; and an output's data and control
cells. -/
inductive Cell where
  | observe (k : Nat)
  | pin
  | data
  | control
deriving DecidableEq, Repr

/-- The levels of the inputs that the device sees: DIN0 to DIN31, then the control order's. -/
def State.pinLevel (s : State) (k : Nat) : Bool :=
  if k < 32 then s.pins.din.getLsbD k
  else [s.pins.resetN, s.pins.pwrgood, !s.pins.powerfail, s.faultN, !s.pins.thermtrip, s.pins.actIn, s.pins.pairRole,
        s.pins.bootsel.getLsbD 0, s.pins.bootsel.getLsbD 1, s.pins.testmode].getD (k - 32) false

/-- An output's two cells. -/
def outCells : List Cell := [.data, .control]

/-- A bidirectional pin's two cells. -/
def bidirCells : List Cell := [.pin, .control]

/-- R543: PERST_N, DOUT and DIN of quadrant `n`. -/
def quadrantCells (n : Nat) : List Cell :=
  (List.replicate 12 outCells).flatten ++ (List.range 8).map (fun i => .observe (8 * n + i))

/-- R543: the control order without REFCLK and the test access port: RESET_N to THERMTRIP_N, PAIR_ACT_OUT,
PAIR_ACT_IN to TESTMODE, then xSPI and I3C. -/
def controlCells : List Cell :=
  [.observe 32, .observe 33, .observe 34, .observe 35, .observe 36] ++ outCells ++
  [.observe 37, .observe 38, .observe 39, .observe 40, .observe 41] ++
  outCells ++ outCells ++ bidirCells ++ (List.replicate 8 bidirCells).flatten ++ outCells ++ [.pin] ++ bidirCells

/-- R549: the 167 cells, nearest TDI first. -/
def scanCells : List Cell := quadrantCells 0 ++ controlCells ++ quadrantCells 1 ++ quadrantCells 2 ++ quadrantCells 3

/-- Capture-DR of the boundary-scan register: pins as the device sees them, a free bit for every other cell. -/
def State.capturePins (s : State) : BitVec 167 :=
  let free := s.freeVal ++ s.fresh.freeVal ++ s.fresh.fresh.freeVal
  BitVec.ofNat 167 (scanCells.zipIdx.foldl (fun a e =>
    let b : Bool := match e.1 with
      | .observe k => s.pinLevel k
      | _ => free.getLsbD e.2
    a + b.toNat * 2 ^ e.2) 0)

/-- R549, R553: an instruction under which the cells drive the outputs. -/
def State.scanDrives (s : State) : Bool := s.phase == phTest && (s.tap.ir == 0#4 || s.tap.ir == 2#4)

/-- R549: what the output whose data cell is cell `k` is driven to by boundary scan. -/
def State.scanPin (s : State) (k : Nat) : Option Bool :=
  if s.scanDrives && s.tap.cells.getLsbD (k + 1) then some (s.tap.cells.getLsbD k) else none

/-! ### The controller (IEEE 1149.1) -/

/-- The next state of the controller. -/
def TapSt.next (t : TapSt) (tms : Bool) : TapSt :=
  match t, tms with
  | .reset, true => .reset
  | .reset, false => .idle
  | .idle, true => .selDr
  | .idle, false => .idle
  | .selDr, true => .selIr
  | .selDr, false => .capDr
  | .capDr, true => .ex1Dr
  | .capDr, false => .shDr
  | .shDr, true => .ex1Dr
  | .shDr, false => .shDr
  | .ex1Dr, true => .updDr
  | .ex1Dr, false => .pauseDr
  | .pauseDr, true => .ex2Dr
  | .pauseDr, false => .pauseDr
  | .ex2Dr, true => .updDr
  | .ex2Dr, false => .shDr
  | .updDr, true => .selDr
  | .updDr, false => .idle
  | .selIr, true => .reset
  | .selIr, false => .capIr
  | .capIr, true => .ex1Ir
  | .capIr, false => .shIr
  | .shIr, true => .ex1Ir
  | .shIr, false => .shIr
  | .ex1Ir, true => .updIr
  | .ex1Ir, false => .pauseIr
  | .pauseIr, true => .ex2Ir
  | .pauseIr, false => .pauseIr
  | .ex2Ir, true => .updIr
  | .ex2Ir, false => .shIr
  | .updIr, true => .selDr
  | .updIr, false => .idle

/-- R549: the instruction a code selects: every code not listed is BYPASS. -/
def tapDecode (c : BitVec 4) : BitVec 4 := if c.toNat ≤ 3 then c else 0xF#4

/-- R549: the register between TDI and TDO is the boundary-scan register. -/
def Tap.scans (t : Tap) : Bool := t.ir == 0#4 || t.ir == 1#4

/-- R549: Test-Logic-Reset. -/
def Tap.toReset (t : Tap) : Tap := { t with st := .reset, ir := 0xF#4, cells := 0, tdo := none }

/-- What the rising edge of TCK does in the state the controller is in. -/
def State.tapRise (s : State) (tdi : Bool) : State :=
  let t := s.tap
  match t.st with
  | .capDr =>
    if t.scans then { s with tap := { t with bsr := s.capturePins }, free := s.free + 3 }
    else { s with tap := { t with bypass := false } }
  | .shDr =>
    if t.scans then { s with tap := { t with bsr := t.bsr <<< 1 ||| BitVec.ofNat 167 tdi.toNat } }
    else { s with tap := { t with bypass := tdi } }
  | .capIr => { s with tap := { t with irShift := 1#4 } }
  | .shIr => { s with tap := { t with irShift := t.irShift >>> 1 ||| BitVec.ofNat 4 (8 * tdi.toNat) } }
  | _ => s

/-- What the falling edge does in the state just entered: updates, and TDO in the shift states. -/
def Tap.fall (t : Tap) : Tap :=
  match t.st with
  | .reset => t.toReset
  | .updDr => { t with cells := if t.scans then t.bsr else t.cells, tdo := none }
  | .updIr => { t with ir := tapDecode t.irShift, tdo := none }
  | .shDr => { t with tdo := some (if t.scans then t.bsr.getLsbD 166 else t.bypass) }
  | .shIr => { t with tdo := some (t.irShift.getLsbD 0) }
  | _ => { t with tdo := none }

/-- The test access port is offered: in TEST alone. -/
def State.tapOn (s : State) : Bool := s.pins.vaux && s.pins.resetN && s.phase == phTest

/-- TCK_CYCLE: one TCK cycle with the given TMS and TDI. -/
def State.tck (s : State) (tms tdi : Bool) : State :=
  let s := s.tapRise tdi
  let n := if tms then min 5 (s.tap.ones + 1) else 0
  let t := { s.tap with st := if n = 5 then .reset else s.tap.st.next tms, ones := n }
  { s with tap := t.fall }

/-- TCK_CYCLE: R549. -/
def execTckCycle (tms tdi : Bool) (s : State) : Host.Outcome State Fault Refusal :=
  .next (if s.tapOn then s.tck tms tdi else s)

/-- TAP_RESET: R549: TRST_N is low. -/
def execTapReset (s : State) : Host.Outcome State Fault Refusal :=
  .next (if s.tapOn then { s with tap := { s.tap.toReset with ones := 0 } } else s)

/-- An instruction becomes current, as Update-IR makes it. -/
def State.tapSelect (s : State) (code : BitVec 4) : State :=
  if s.tapOn then { s with tap := { s.tap with st := .updIr, ir := code, tdo := none, ones := 0 } } else s

/-- EXTEST: R549. -/
def execExtest (s : State) : Host.Outcome State Fault Refusal := .next (s.tapSelect 0#4)

/-- SAMPLE_PRELOAD: R549. -/
def execSamplePreload (s : State) : Host.Outcome State Fault Refusal := .next (s.tapSelect 1#4)

/-- CLAMP: R549. -/
def execClamp (s : State) : Host.Outcome State Fault Refusal := .next (s.tapSelect 2#4)

/-- HIGHZ: R549. -/
def execHighz (s : State) : Host.Outcome State Fault Refusal := .next (s.tapSelect 3#4)

/-- BYPASS: R549. -/
def execBypass (s : State) : Host.Outcome State Fault Refusal := .next (s.tapSelect 0xF#4)

end Sys2Proof.Machine
end

