-- ==== Sys2Proof/Machine/Dispatch.lean ====
section
/-! DEFINITION. The one dispatch: a command to its meaning. -/

namespace Sys2Proof.Machine

def exec (i : Instr) (s : State) : Host.Outcome State Fault Refusal :=
  match i with
  | .lda n o => Sys2Proof.Machine.execLda n o s
  | .sta n o => Sys2Proof.Machine.execSta n o s
  | .ldx n o => Sys2Proof.Machine.execLdx n o s
  | .stx n o => Sys2Proof.Machine.execStx n o s
  | .ldy n o => Sys2Proof.Machine.execLdy n o s
  | .sty n o => Sys2Proof.Machine.execSty n o s
  | .ldb n o => Sys2Proof.Machine.execLdb n o s
  | .stb n o => Sys2Proof.Machine.execStb n o s
  | .tag n o => Sys2Proof.Machine.execTag n o s
  | .sett n o => Sys2Proof.Machine.execSett n o s
  | .add n o => Sys2Proof.Machine.execAdd n o s
  | .sub n o => Sys2Proof.Machine.execSub n o s
  | .mul n o => Sys2Proof.Machine.execMul n o s
  | .div n o => Sys2Proof.Machine.execDiv n o s
  | .rem n o => Sys2Proof.Machine.execRem n o s
  | .cmp n o => Sys2Proof.Machine.execCmp n o s
  | .addm n o => Sys2Proof.Machine.execAddm n o s
  | .subm n o => Sys2Proof.Machine.execSubm n o s
  | .mulm n o => Sys2Proof.Machine.execMulm n o s
  | .divm n o => Sys2Proof.Machine.execDivm n o s
  | .and n o => Sys2Proof.Machine.execAnd n o s
  | .or n o => Sys2Proof.Machine.execOr n o s
  | .xor n o => Sys2Proof.Machine.execXor n o s
  | .shl n o => Sys2Proof.Machine.execShl n o s
  | .shr n o => Sys2Proof.Machine.execShr n o s
  | .sar n o => Sys2Proof.Machine.execSar n o s
  | .rol n o => Sys2Proof.Machine.execRol n o s
  | .fma n o => Sys2Proof.Machine.execFma n o s
  | .cons n o => Sys2Proof.Machine.execCons n o s
  | .rpla n o => Sys2Proof.Machine.execRpla n o s
  | .rpld n o => Sys2Proof.Machine.execRpld n o s
  | .br n o => Sys2Proof.Machine.execBr n o s
  | .brl n o => Sys2Proof.Machine.execBrl n o s
  | .lpb n o => Sys2Proof.Machine.execLpb n o s
  | .cld n o => Sys2Proof.Machine.execCld n o s
  | .ldr n o => Sys2Proof.Machine.execLdr n o s
  | .stc n o => Sys2Proof.Machine.execStc n o s
  | .xadd n o => Sys2Proof.Machine.execXadd n o s
  | .xchg n o => Sys2Proof.Machine.execXchg n o s
  | .cas n o => Sys2Proof.Machine.execCas n o s
  | .neg n o => Sys2Proof.Machine.execNeg n o s
  | .negm n o => Sys2Proof.Machine.execNegm n o s
  | .not n o => Sys2Proof.Machine.execNot n o s
  | .fsqrt n o => Sys2Proof.Machine.execFsqrt n o s
  | .fsync n o => Sys2Proof.Machine.execFsync n o s
  | .ret n o => Sys2Proof.Machine.execRet n o s
  | .cret n o => Sys2Proof.Machine.execCret n o s
  | .rte n o => Sys2Proof.Machine.execRte n o s
  | .svbk n o => Sys2Proof.Machine.execSvbk n o s
  | .rarm n o => Sys2Proof.Machine.execRarm n o s
  | .fnsl n o => Sys2Proof.Machine.execFnsl n o s
  | .fnnt n o => Sys2Proof.Machine.execFnnt n o s
  | .fnio n o => Sys2Proof.Machine.execFnio n o s
  | .fnal n o => Sys2Proof.Machine.execFnal n o s
  | .idle n o => Sys2Proof.Machine.execIdle n o s
  | .idleWake n => Sys2Proof.Machine.execIdleWake n s
  | .ttst n o => Sys2Proof.Machine.execTtst n o s
  | .fcvt n o => Sys2Proof.Machine.execFcvt n o s
  | .crd n o => Sys2Proof.Machine.execCrd n o s
  | .cwr n o => Sys2Proof.Machine.execCwr n o s
  | .alc n o => Sys2Proof.Machine.execAlc n o s
  | .car n o => Sys2Proof.Machine.execCar n o s
  | .cdr n o => Sys2Proof.Machine.execCdr n o s
  | .ccall n o => Sys2Proof.Machine.execCcall n o s
  | .cder n o => Sys2Proof.Machine.execCder n o s
  | .cseal n o => Sys2Proof.Machine.execCseal n o s
  | .cuns n o => Sys2Proof.Machine.execCuns n o s
  | .crev n o => Sys2Proof.Machine.execCrev n o s
  | .movb n o => Sys2Proof.Machine.execMovb n o s
  | .cmpb n o => Sys2Proof.Machine.execCmpb n o s
  | .scnt n o => Sys2Proof.Machine.execScnt n o s
  | .find n o => Sys2Proof.Machine.execFind n o s
  | .cwbR n o => Sys2Proof.Machine.execCwbR n o s
  | .cinvR n o => Sys2Proof.Machine.execCinvR n o s
  | .cwbiR n o => Sys2Proof.Machine.execCwbiR n o s
  | .cwb n o => Sys2Proof.Machine.execCwb n o s
  | .cinv n o => Sys2Proof.Machine.execCinv n o s
  | .cwbi n o => Sys2Proof.Machine.execCwbi n o s
  | .lockf n o => Sys2Proof.Machine.execLockf n o s
  | .divideDone n => Sys2Proof.Machine.execDivideDone n s
  | .boundaryEventTake n nextIsFp => Sys2Proof.Machine.execBoundaryEventTake n nextIsFp s
  | .microwordLimit n => Sys2Proof.Machine.execMicrowordLimit n s
  | .controlStoreReload n addr copyOk parityOk => Sys2Proof.Machine.execControlStoreReload n addr copyOk parityOk s
  | .retry n detector find => Sys2Proof.Machine.execRetry n detector find s
  | .retryRateThreshold n => Sys2Proof.Machine.execRetryRateThreshold n s
  | .transplant n ckptOk refused unreadable => Sys2Proof.Machine.execTransplant n ckptOk refused unreadable s
  | .transplantResume n => Sys2Proof.Machine.execTransplantResume n s
  | .corePrefetch n stream => Sys2Proof.Machine.execCorePrefetch n stream s
  | .cctlEn acc p v => Sys2Proof.Machine.execCctlEn acc p v s
  | .cacheSweepDone p => Sys2Proof.Machine.execCacheSweepDone p s
  | .cctlUnlk acc p => Sys2Proof.Machine.execCctlUnlk acc p s
  | .rds p line err => Sys2Proof.Machine.execRds p line err s
  | .rdo p line err => Sys2Proof.Machine.execRdo p line err s
  | .upg p line => Sys2Proof.Machine.execUpg p line s
  | .rdh master line mask err => Sys2Proof.Machine.execRdh master line mask err s
  | .atm p op loc a x => Sys2Proof.Machine.execAtm p op loc a x s
  | .pfg line err => Sys2Proof.Machine.execPfg line err s
  | .wrt n => Sys2Proof.Machine.execWrt n s
  | .wrh src => Sys2Proof.Machine.execWrh src s
  | .wbk p line keep => Sys2Proof.Machine.execWbk p line keep s
  | .snpS p line => Sys2Proof.Machine.execSnpS p line s
  | .snpI p line => Sys2Proof.Machine.execSnpI p line s
  | .binv p line => Sys2Proof.Machine.execBinv p line s
  | .data master line => Sys2Proof.Machine.execData master line s
  | .gnt p line => Sys2Proof.Machine.execGnt p line s
  | .ack master line => Sys2Proof.Machine.execAck master line s
  | .sack p line => Sys2Proof.Machine.execSack p line s
  | .sdata p line => Sys2Proof.Machine.execSdata p line s
  | .miss p line => Sys2Proof.Machine.execMiss p line s
  | .ndataWbp p line => Sys2Proof.Machine.execNdataWbp p line s
  | .arbiterAdmit slice err => Sys2Proof.Machine.execArbiterAdmit slice err s
  | .reservationHoldoffExpire n => Sys2Proof.Machine.execReservationHoldoffExpire n s
  | .homeReservationHoldExpire p => Sys2Proof.Machine.execHomeReservationHoldExpire p s
  | .ntFlushTimeout n => Sys2Proof.Machine.execNtFlushTimeout n s
  | .mergeDrainTimeout word => Sys2Proof.Machine.execMergeDrainTimeout word s
  | .gleanerLine ch err => Sys2Proof.Machine.execGleanerLine ch err s
  | .gleanerSramSweep w err => Sys2Proof.Machine.execGleanerSramSweep w err s
  | .mendResponse line ok words => Sys2Proof.Machine.execMendResponse line ok words s
  | .commonsBankGrant cn bank new => Sys2Proof.Machine.execCommonsBankGrant cn bank new s
  | .commonsBreakerGrant cn bank => Sys2Proof.Machine.execCommonsBreakerGrant cn bank s
  | .doorbell acc q t => Sys2Proof.Machine.execDoorbell acc q t s
  | .queueEnable acc q v => Sys2Proof.Machine.execQueueEnable acc q v s
  | .ringConfigWrite acc q r v => Sys2Proof.Machine.execRingConfigWrite acc q r v s
  | .cqHeadWrite acc q h => Sys2Proof.Machine.execCqHeadWrite acc q h s
  | .drrDispatch d => Sys2Proof.Machine.execDrrDispatch d s
  | .orderAccept c => Sys2Proof.Machine.execOrderAccept c s
  | .orderRelease c => Sys2Proof.Machine.execOrderRelease c s
  | .issueEntryRead port link c k => Sys2Proof.Machine.execIssueEntryRead port link c k s
  | .issueTailRead port link c => Sys2Proof.Machine.execIssueTailRead port link c s
  | .windowRead port link addr len => Sys2Proof.Machine.execWindowRead port link addr len s
  | .windowWrite port link addr data ep => Sys2Proof.Machine.execWindowWrite port link addr data ep s
  | .completionRecord port link addr data e => Sys2Proof.Machine.execCompletionRecord port link addr data e s
  | .upstreamUr port link => Sys2Proof.Machine.execUpstreamUr port link s
  | .tlpDiscard port link => Sys2Proof.Machine.execTlpDiscard port link s
  | .aerMessage port link sev => Sys2Proof.Machine.execAerMessage port link sev s
  | .devLoadTimeout n => Sys2Proof.Machine.execDevLoadTimeout n s
  | .linkUp port link speed width => Sys2Proof.Machine.execLinkUp port link speed width s
  | .linkDown port link => Sys2Proof.Machine.execLinkDown port link s
  | .perstRelease port link => Sys2Proof.Machine.execPerstRelease port link s
  | .orderTimeout c k => Sys2Proof.Machine.execOrderTimeout c k s
  | .secondaryBusReset acc port link => Sys2Proof.Machine.execSecondaryBusReset acc port link s
  | .ledgerClose c k => Sys2Proof.Machine.execLedgerClose c k s
  | .compressionJobEnd j => Sys2Proof.Machine.execCompressionJobEnd j s
  | .ciFlush acc j => Sys2Proof.Machine.execCiFlush acc j s
  | .cipherWaitSatisfied j => Sys2Proof.Machine.execCipherWaitSatisfied j s
  | .cipherJobEnd j => Sys2Proof.Machine.execCipherJobEnd j s
  | .cxFlush acc j => Sys2Proof.Machine.execCxFlush acc j s
  | .drbgReseed seed healthy => Sys2Proof.Machine.execDrbgReseed seed healthy s
  | .setw acc arg => Sys2Proof.Machine.execSetw acc arg s
  | .move acc arg => Sys2Proof.Machine.execMove acc arg s
  | .crst acc arg => Sys2Proof.Machine.execCrst acc arg s
  | .dlCtlEn acc p en => Sys2Proof.Machine.execDlCtlEn acc p en s
  | .dlCtlClr acc p => Sys2Proof.Machine.execDlCtlClr acc p s
  | .dlRingWrite acc p tail v => Sys2Proof.Machine.execDlRingWrite acc p tail v s
  | .gcCtlWrite acc p v => Sys2Proof.Machine.execGcCtlWrite acc p v s
  | .gcZoneWrite acc p v => Sys2Proof.Machine.execGcZoneWrite acc p v s
  | .gcClogWrite acc p v => Sys2Proof.Machine.execGcClogWrite acc p v s
  | .gcClogpTailWrite acc p v => Sys2Proof.Machine.execGcClogpTailWrite acc p v s
  | .tatStore acc t v => Sys2Proof.Machine.execTatStore acc t v s
  | .evRouteWrite acc k v => Sys2Proof.Machine.execEvRouteWrite acc k v s
  | .evPendClear acc k v => Sys2Proof.Machine.execEvPendClear acc k v s
  | .evDoor acc p v => Sys2Proof.Machine.execEvDoor acc p v s
  | .fcStatClear acc v => Sys2Proof.Machine.execFcStatClear acc v s
  | .registerWrite acc off v => Sys2Proof.Machine.execRegisterWrite acc off v s
  | .thermalSample temps => Sys2Proof.Machine.execThermalSample temps s
  | .voltageSample mv => Sys2Proof.Machine.execVoltageSample mv s
  | .processSample counts => Sys2Proof.Machine.execProcessSample counts s
  | .tracePacket lane => Sys2Proof.Machine.execTracePacket lane s
  | .traceSync lane => Sys2Proof.Machine.execTraceSync lane s
  | .i3cRead off => Sys2Proof.Machine.execI3cRead off s
  | .i3cDynamicAddress a => Sys2Proof.Machine.execI3cDynamicAddress a s
  | .idleFrame h => Sys2Proof.Machine.execIdleFrame h s
  | .mirror h recs => Sys2Proof.Machine.execMirror h recs s
  | .ledger h recs => Sys2Proof.Machine.execLedger h recs s
  | .bulk h first lines => Sys2Proof.Machine.execBulk h first lines s
  | .zrun h runs => Sys2Proof.Machine.execZrun h runs s
  | .frameNak ackseq => Sys2Proof.Machine.execFrameNak ackseq s
  | .frameCrcDrop crcBad => Sys2Proof.Machine.execFrameCrcDrop crcBad s
  | .hello h info => Sys2Proof.Machine.execHello h info s
  | .helloSend => Sys2Proof.Machine.execHelloSend s
  | .helloTimeout => Sys2Proof.Machine.execHelloTimeout s
  | .hb h time echo role phase => Sys2Proof.Machine.execHb h time echo role phase s
  | .hbSend => Sys2Proof.Machine.execHbSend s
  | .partnerLost => Sys2Proof.Machine.execPartnerLost s
  | .dio h v => Sys2Proof.Machine.execDio h v s
  | .mendq h line => Sys2Proof.Machine.execMendq h line s
  | .tatMessage h t v => Sys2Proof.Machine.execTatMessage h t v s
  | .moveMessage h arg => Sys2Proof.Machine.execMoveMessage h arg s
  | .handover h => Sys2Proof.Machine.execHandover h s
  | .leave h => Sys2Proof.Machine.execLeave h s
  | .rcvdone h => Sys2Proof.Machine.execRcvdone h s
  | .activeClaimCheck => Sys2Proof.Machine.execActiveClaimCheck s
  | .lossHoldEnd => Sys2Proof.Machine.execLossHoldEnd s
  | .pairActInAssert => Sys2Proof.Machine.execPairActInAssert s
  | .takeoverDrive => Sys2Proof.Machine.execTakeoverDrive s
  | .switch acc => Sys2Proof.Machine.execSwitch acc s
  | .handoverSend => Sys2Proof.Machine.execHandoverSend s
  | .recoveryCopy => Sys2Proof.Machine.execRecoveryCopy s
  | .dinAccept j level => Sys2Proof.Machine.execDinAccept j level s
  | .resetNAssert => Sys2Proof.Machine.execResetNAssert s
  | .resetNDeassert testmode bootsel pairRole => Sys2Proof.Machine.execResetNDeassert testmode bootsel pairRole s
  | .vauxApply => Sys2Proof.Machine.execVauxApply s
  | .vauxRemove => Sys2Proof.Machine.execVauxRemove s
  | .pwrgoodInAssert => Sys2Proof.Machine.execPwrgoodInAssert s
  | .vinLoss => Sys2Proof.Machine.execVinLoss s
  | .powerfailNAssert => Sys2Proof.Machine.execPowerfailNAssert s
  | .powerfailFlushDone => Sys2Proof.Machine.execPowerfailFlushDone s
  | .powerfailAckTimeout => Sys2Proof.Machine.execPowerfailAckTimeout s
  | .pllLockLoss => Sys2Proof.Machine.execPllLockLoss s
  | .startupS2 copyA copyB => Sys2Proof.Machine.execStartupS2 copyA copyB s
  | .startupS3 env => Sys2Proof.Machine.execStartupS3 env s
  | .startupS4 failed => Sys2Proof.Machine.execStartupS4 failed s
  | .startupS5 => Sys2Proof.Machine.execStartupS5 s
  | .tapReset => Sys2Proof.Machine.execTapReset s
  | .extest => Sys2Proof.Machine.execExtest s
  | .samplePreload => Sys2Proof.Machine.execSamplePreload s
  | .clamp => Sys2Proof.Machine.execClamp s
  | .highz => Sys2Proof.Machine.execHighz s
  | .bypass => Sys2Proof.Machine.execBypass s
  | .startupS0End => Sys2Proof.Machine.execStartupS0End s
  | .pairActInDeassert => Sys2Proof.Machine.execPairActInDeassert s
  | .welienLinkDown => Sys2Proof.Machine.execWelienLinkDown s
  | .devLoadCompletion n r => Sys2Proof.Machine.execDevLoadCompletion n r s
  | .tckCycle tms tdi => Sys2Proof.Machine.execTckCycle tms tdi s
  | .eventRouterParityError off => Sys2Proof.Machine.execEventRouterParityError off s

end Sys2Proof.Machine
end

