-- ==== Sys2Proof/Machine/InstrWord.lean ====
section
/-! DEFINITION. What a core does with an instruction word, and with the word at its PC (R46-R49, R73, R74): in a cycle in
which no command waits, every core that runs executes the instruction its PC names. -/

namespace Sys2Proof.Machine

/-- R48: the word of an unassigned opcode or sub-opcode raises ILL, whatever its guard. -/
def State.unassigned (s : State) (n : Nat) : State :=
  s.instr n (fun _ => false) (fun _ => true) { sense := false, pred := 0 } (retireM n)

/-- Core `n` executes the instruction that a word stands for. -/
def execWord (n : LCore) (w : BitVec 32) (s : State) : Host.Outcome State Fault Refusal :=
  match decodeWord n w with
  | some c => Sys2Proof.Machine.exec c s
  | none => .next (s.unassigned n)

/-- R47: the instruction word at the PC of core `n`: the low half of its word at 8w, the high half at 8w + 4. -/
def State.wordAtPc (s : State) (n : Nat) : BitVec 32 :=
  let a := (s.cur n).pc.toNat
  let v := (s.viewBase (s.physOf n) ((s.translate (s.parishOf n) a).2 / 8)).val
  if a % 8 < 4 then v.extractLsb' 0 32 else v.extractLsb' 32 32

/-- Core `n` executes the instruction at its PC; a fetch that faults takes its exception before the word is looked at. -/
def execAtPc (n : LCore) (s : State) : Host.Outcome State Fault Refusal :=
  match s.fetchFault n with
  | some _ => .next (s.unassigned n)
  | none => execWord n (s.wordAtPc n) s

/-- Core `n`, where it runs, executes the instruction at its PC. -/
def State.runAtPc (s : State) (n : LCore) : State :=
  if !s.runnable n then s
  else
    match execAtPc n s with
    | .next t => t
    | _ => s

/-- DESIGN CHOICE (log 1): in one cycle every core that runs executes one instruction, in ascending number. -/
def State.runCores (s : State) : State := (List.range 46).foldl (fun s n => s.runAtPc (Fin.ofNat 46 n)) s

end Sys2Proof.Machine
end

