-- ==== Sys2Proof/Machine/Tick.lean ====
section
/-! DEFINITION. One SCLK cycle in which no command acts: the timestamp, the cycle counters and the level sources
(R479, R519, R524, R526). -/

namespace Sys2Proof.Machine

/-- R479: a level source that still holds is captured again where its class's VALID has been cleared; a GRAVE record so
captured in START-UP stops it (R575). -/
def State.recapture (s : State) (src : Nat) : State :=
  let again (s : State) (c : Nat) : State :=
    if s.flag Reg.fcStat c then s
    else
      let s := s.capture c (ownFault src)
      if c = 3 ∧ s.phase = phStartup then s.graveReact else s
  let s := again s (srcClass src)
  if s.escalated src then again s 3 else s

/-- R519, R524: the cycle counters: one SCLK cycle and eight CCLK cycles of every core that is clocked. -/
def State.countCycles (s : State) : State :=
  ((List.range 48).filter (fun p => (s.logicalOf p).isSome)).foldl (fun s p => s.pmcN p 1 8) (s.tal 1 0)

/-- R526: the clocks run. -/
def State.tick (s : State) : State :=
  let s := s.sinkLogs
  let s := (sortBy (fun (a b : Nat) => decide (a ≤ b)) (s.levels.map (·.toNat))).foldl State.recapture s
  if s.tsRun then ({ s with ts := s.ts + 1 }).countCycles else s

end Sys2Proof.Machine
end

