-- ==== Sys2Proof/Safety.lean ====
section
/-! DEFINITION. What a safe run is: no step of it stops. -/

namespace Sys2Proof.Machine

/-- The step answers a next state. -/
def Outcome.goesOn (o : Host.Outcome State Fault Refusal) : Bool :=
  match o with
  | .next _ => true
  | .fault _ => false
  | .refused _ => false

/-- `k` steps from `s` all answer a next state. -/
def State.safe : Nat → State → Bool
  | 0, _ => true
  | k + 1, s =>
    match step s with
    | .next t => State.safe k t
    | .fault _ => false
    | .refused _ => false

/-- The maps of the channels, the ledger and the engines have their keys strictly rising. -/
def Io.sorted (i : Io) : Bool :=
  SMap.sorted i.chans && SMap.sorted i.ledger && SMap.sorted i.crecs && SMap.sorted i.links && SMap.sorted i.ecam &&
    SMap.sorted i.comp && SMap.sorted i.ciph && SMap.sorted i.slots && SMap.sorted i.keks && SMap.sorted i.drrPos &&
    SMap.wf (fun _ => 0) i.ledgerErr

/-- The maps of an L1 have their keys strictly rising. -/
def L1.sorted (c : L1) : Bool := SMap.sorted c.lines && SMap.sorted c.plru

/-- The maps of a physical core have their keys strictly rising. -/
def PhysCore.sorted (c : PhysCore) : Bool :=
  SMap.sorted c.l2 && SMap.sorted c.l2Plru && SMap.sorted c.fills && L1.sorted c.l1i && L1.sorted c.l1d &&
    SMap.sorted c.ucode

/-- Every sparse map of the state is in its form: each key is listed once, in rising order, and the memories list no
word that reads RAW 0 (`Memory.wf`): equal contents are equal data. -/
def State.mapsOk (s : State) : Bool :=
  Memory.wf s.mem && SMap.sorted s.regs && SMap.sorted s.cores && SMap.sorted s.phys &&
    s.phys.all (fun e => PhysCore.sorted e.2) && SMap.sorted s.clog && SMap.sorted s.plog && SMap.sorted s.coh.sf &&
    SMap.sorted s.coh.sfPlru && SMap.sorted s.coh.txns && SMap.wf (fun _ => 0) s.coh.bookErr && Io.sorted s.io && SMap.sorted s.trace.sent && SMap.sorted s.trace.lastSync

end Sys2Proof.Machine
end

