-- ==== Sys2Proof/Certificates/Slice0/Obligations.lean ====
section
/-! DEFINITION. The statements about the model that provers are asked for. -/

section

open Sys2Proof Sys2Proof.Machine

/-! ### What the statements share -/

/-- Core `n` executes its next instruction (R47, R48, R50-R52, R179): no command waits, the core runs, no boundary event waits
for it, the fetch meets no error, it and the encoding pass, and the guard executes. `fp` tells whether the instruction counts
for R116. -/
def Sys2Proof.issues (s : State) (n : Nat) (fp ill : Bool) (g : Guard) : Bool :=
  s.waiting.isNone && decide (s.fetchMeet n = s) &&
    (s.runnable n && (s.boundary n fp).isNone && (s.fetchFault n).isNone && !ill && (s.cur n).guardOk g)

/-- `t` is what command `c` makes of `s`: an access in it that must wait sets `waiting`, and the command then takes place
when it need not wait any more (the model's choice: log 64). -/
def Sys2Proof.completes (c : Instr) (s t : State) : Prop := t.waiting = none → exec c s = .next t

/-- Command `c` raises `e` at the instruction of core `n`, once what it has done to `s` is `t`. -/
def Sys2Proof.trapped (c : Instr) (s t : State) (n : Nat) (e : Exc) : Prop :=
  t.waiting = none → exec c s = .next (s.settled (State.faultAt s t n e))

/-- R202: the micro-save record of the running bank is valid at its PC: the instruction resumes. -/
def Sys2Proof.resumes (s : State) (n : Nat) : Bool :=
  ((s.core n).save (s.core n).curId).valid && ((s.core n).save (s.core n).curId).pc == (s.cur n).pc

/-- R36, R200: the tag attribute entries an instruction that runs as a vendor routine works under: those of its record where
it resumes, else the present ones. -/
def Sys2Proof.vctx (s : State) (n : Nat) : RunCtx :=
  { entries := if resumes s n then ((s.core n).save (s.core n).curId).entries else [] }

/-- R97, R201: a fault in an instruction that runs as a vendor routine leaves a micro-save record (log 18). -/
def Sys2Proof.vendorTrap (s t : State) (n : Nat) : State :=
  t.setRecord n { valid := true, pc := (t.cur n).pc, upc := 0,
                  u := [(s.cur n).a, (s.cur n).x, (s.cur n).y] ++ List.replicate 5 Word.raw0, cond := 0, entries :=
                    if resumes s n then ((s.core n).save (s.core n).curId).entries else s.sampledTat }

/-- The register of the running bank that a load or a result goes to. -/
def Sys2Proof.withA (s : State) (n : Nat) (w : Word) : State := s.setCur n { s.cur n with a := w }

def Sys2Proof.withX (s : State) (n : Nat) (w : Word) : State := s.setCur n { s.cur n with x := w }

def Sys2Proof.withY (s : State) (n : Nat) (w : Word) : State := s.setCur n { s.cur n with y := w }

def Sys2Proof.withPred (s : State) (n i : Nat) (v : Bool) : State := s.setCur n ((s.cur n).setPred i v)

/-- The word of a checked site as a load reads it, with the frame window's count (R59). -/
def Sys2Proof.readsAt (n breg off : Nat) (idx : Int) (t : Site) : M Word := do
  let w ← readM n t.region t.pa
  frameCount n breg t off idx
  return w

/-- No routine of the core has begun, and no micro-save record of the running bank is valid at its PC (R202): a generic
instruction begins afresh. -/
def Sys2Proof.fresh (s : State) (n : Nat) : Bool :=
  (s.core n).routine.isNone && !resumes s n

/-- R98: the integer is a FIX payload. -/
def Sys2Proof.fitsFix (i : Int) : Bool := decide (-(2 ^ 63) ≤ i ∧ i < 2 ^ 63)

/-! ### Arithmetic -/

/-- R75: the two-operand modular and logical instructions. -/
def Sys2Proof.modularRows : List ((LCore → PForm → Instr) × (BitVec 64 → BitVec 64 → BitVec 64)) :=
  [(.addm, fun a b => a + b), (.subm, fun a b => a - b), (.mulm, fun a b => a * b),
   (.and, fun a b => a &&& b), (.or, fun a b => a ||| b), (.xor, fun a b => a ^^^ b)]

/-- ADDM, SUBM, MULM, AND, OR, XOR, NEGM and NOT complete on FIX and RAW operands: R75. -/
def Sys2Proof.modularAndLogical : Prop :=
  (∀ r ∈ modularRows, ∀ (n : LCore) (o : PForm) (s s1 : State) (op : Word),
    issues s n false (illP o .wi) o.guard = true →
    operand n o (s.settleDiv n) = .ok op s1 →
    (s1.cur n).a.isFixRaw = true → op.isFixRaw = true →
    completes (r.1 n o) s ((withA s1 n
      ⟨if (s1.cur n).a.isFix ∧ op.isFix then Tag.fix else Tag.raw, r.2 (s1.cur n).a.val op.val⟩).retire n)) ∧
  (∀ r ∈ [(Instr.negm, fun (v : BitVec 64) => 0 - v), (Instr.not, fun v => v ^^^ BitVec.allOnes 64)],
    ∀ (n : LCore) (o : XNForm) (s : State),
    issues s n false (illXN o) o.guard = true →
    ((s.settleDiv n).cur n).a.isFixRaw = true →
    completes (r.1 n o) s ((withA (s.settleDiv n) n
      ⟨((s.settleDiv n).cur n).a.tag, r.2 ((s.settleDiv n).cur n).a.val⟩).retire n))

/-- R104: what the shifts leave in the payload, for a count of 0 or more. -/
def Sys2Proof.shiftRows : List ((LCore → PForm → Instr) × (BitVec 64 → Nat → BitVec 64)) :=
  [(.shr, fun a c => BitVec.ofNat 64 (a.toNat / 2 ^ c)),
   (.sar, fun a c => BitVec.ofInt 64 (a.toInt / 2 ^ c)),
   (.rol, fun a c => a <<< (c % 64) ||| a >>> (64 - c % 64))]

/-- SHL, SHR, SAR and ROL complete for a count of 0 or more, at any width; SHL of a FIX that loses significance raises
OVF, and a negative count SHC: R104. -/
def Sys2Proof.shifts : Prop :=
  ∀ (n : LCore) (o : PForm) (s s1 : State) (op : Word),
    issues s n false (illP o .wi) o.guard = true →
    operand n o (s.settleDiv n) = .ok op s1 →
    (s1.cur n).a.isFixRaw = true → op.isFix = true →
    (0 ≤ op.int → ∀ r ∈ shiftRows, completes (r.1 n o) s ((withA s1 n
      ⟨(s1.cur n).a.tag, r.2 (s1.cur n).a.val op.val.toNat⟩).retire n)) ∧
    (0 ≤ op.int → (s1.cur n).a.tag = Tag.raw → completes (.shl n o) s ((withA s1 n
      (Word.raw (BitVec.ofNat 64 ((s1.cur n).a.val.toNat * 2 ^ op.val.toNat)))).retire n)) ∧
    (0 ≤ op.int → (s1.cur n).a.isFix = true → fitsFix ((s1.cur n).a.int * 2 ^ op.val.toNat) = true →
      completes (.shl n o) s ((withA s1 n
        (Word.fix (BitVec.ofInt 64 ((s1.cur n).a.int * 2 ^ op.val.toNat)))).retire n)) ∧
    (0 ≤ op.int → (s1.cur n).a.isFix = true → fitsFix ((s1.cur n).a.int * 2 ^ op.val.toNat) = false →
      trapped (.shl n o) s s1 n { vec := vOvf }) ∧
    (op.int < 0 → ∀ f ∈ [Instr.shl, Instr.shr, Instr.sar, Instr.rol],
      trapped (f n o) s s1 n { vec := vShc })

/-- R75, R104: the modular, the logical and the shift instructions complete on the operands they take. -/
def Obligations.ModularLogicalAndShifts : Prop := modularAndLogical ∧ shifts

/-- R98: the generic instructions with one exact result. -/
def Sys2Proof.exactRows : List ((LCore → PForm → Instr) × (Int → Int → Int)) :=
  [(.add, fun a b => a + b), (.sub, fun a b => a - b), (.mul, fun a b => a * b)]

/-- ADD, SUB, MUL, NEG and CMP complete on FIX operands whose exact result is a FIX; a heal of the operand (R140) is
made with the result: R98, R103. -/
def Obligations.GenericOnFix : Prop :=
  (∀ (n : LCore) (o : PForm) (s s1 s2 : State) (op : Word) (h : Option Heal),
    issues s n false (illP o .wi) o.guard = true → fresh (s.settleDiv n) n = true →
    operandBar n o (s.settleDiv n) = .ok (op, h) s1 →
    ((s.settleDiv n).cur n).a.isFix = true → (s1.cur n).a.isFix = true → op.isFix = true →
    (∀ r ∈ exactRows, fitsFix (r.2 (s1.cur n).a.int op.int) = true →
      healM n h {} (withA s1 n (Word.fix (BitVec.ofInt 64 (r.2 (s1.cur n).a.int op.int)))) = .ok () s2 →
      completes (r.1 n o) s (s2.retire n)) ∧
    (healM n h {} (s1.setCur n (((((s1.cur n).setPred 1 (decide ((s1.cur n).a.int < op.int))).setPred 2
        (decide ((s1.cur n).a.int = op.int))).setPred 3 (decide (op.int < (s1.cur n).a.int))).setPred 4 false)) =
        .ok () s2 →
      completes (.cmp n o) s (s2.retire n))) ∧
  (∀ (n : LCore) (o : XNForm) (s : State),
    issues s n false (illXN o) o.guard = true → fresh (s.settleDiv n) n = true →
    ((s.settleDiv n).cur n).a.isFix = true → fitsFix (-((s.settleDiv n).cur n).a.int) = true →
    completes (.neg n o) s ((withA (s.settleDiv n) n
      (Word.fix (BitVec.ofInt 64 (-((s.settleDiv n).cur n).a.int)))).retire n))

/-- DIV, REM and DIVM leave quotient and remainder to the divider (DIVM: the remainder is always FIX), raise DZ for a zero
divisor and, DIV alone, OVF for a quotient outside FIX before it starts, and DIVIDE_DONE brings them to A and Y: R102,
R75, R76. -/
def Obligations.Division : Prop :=
  (∀ (n : LCore) (o : PForm) (s s1 s2 : State) (op : Word) (h : Option Heal),
    issues s n false (illP o .wi) o.guard = true → fresh (s.settleDiv n) n = true →
    operandBar n o (s.settleDiv n) = .ok (op, h) s1 →
    ((s.settleDiv n).cur n).a.isFix = true → (s1.cur n).a.isFix = true → op.isFix = true →
    (op.val = 0 → trapped (.div n o) s s1 n { vec := vDz } ∧
      trapped (.rem n o) s s1 n { vec := vDz }) ∧
    (op.val ≠ 0 → fitsFix ((s1.cur n).a.int.tdiv op.int) = false →
      trapped (.div n o) s s1 n { vec := vOvf }) ∧
    (op.val ≠ 0 → fitsFix ((s1.cur n).a.int.tdiv op.int) = true →
      healM n h {} (s1.setCore n { s1.core n with divider := some {
        a := Word.fix (BitVec.ofInt 64 ((s1.cur n).a.int.tdiv op.int))
        y := some (Word.fix (BitVec.ofInt 64 ((s1.cur n).a.int.tmod op.int))) } }) = .ok () s2 →
      completes (.div n o) s (s2.retire n)) ∧
    (op.val ≠ 0 → healM n h {} (s1.setCore n { s1.core n with divider := some {
        a := Word.fix (BitVec.ofInt 64 ((s1.cur n).a.int.tmod op.int)), y := none } }) = .ok () s2 →
      completes (.rem n o) s (s2.retire n))) ∧
  (∀ (n : LCore) (o : PForm) (s s1 : State) (op : Word),
    issues s n false (illP o .wi) o.guard = true →
    operand n o (s.settleDiv n) = .ok op s1 →
    (s1.cur n).a.isFixRaw = true → op.isFixRaw = true →
    (op.val = 0 → trapped (.divm n o) s s1 n { vec := vDz }) ∧
    (op.val ≠ 0 → completes (.divm n o) s ((s1.setCore n { s1.core n with divider := some {
      a := ⟨if (s1.cur n).a.isFix ∧ op.isFix then Tag.fix else Tag.raw,
            BitVec.ofInt 64 ((s1.cur n).a.int.tdiv op.int)⟩
      y := some (Word.fix (BitVec.ofInt 64 ((s1.cur n).a.int.tmod op.int))) } }).retire n))) ∧
  (∀ (n : LCore) (s : State) (d : DivJob), s.mapsOk = true → (s.core n).divider = some d →
    ∃ t, exec (.divideDone n) s = .next t ∧ (t.cur n).a = d.a ∧ (t.cur n).y = d.y.getD (s.cur n).y ∧
      (t.core n).divider = none ∧ (t.cur n).pc = (s.cur n).pc ∧ (t.cur n).x = (s.cur n).x ∧
      (t.cur n).p = (s.cur n).p ∧ t.mem = s.mem ∧ t.regs = s.regs ∧ ∀ k, k ≠ n.val → t.core k = s.core k)

/-- FMA, FSQRT, FCVT and FSYNC complete on operands of the type they take: the value of R108, R109 or R112 in A, its
flags added to FPSR (R115); FSYNC completes what is older and retires (R74, R116). -/
def Obligations.FloatingPoint : Prop :=
  (∀ (n : LCore) (o : XNForm) (s : State),
    issues s n true (illXN o) o.guard = true →
    completes (.fsync n o) s ((s.settleDiv n).retire n) ∧
    (((s.settleDiv n).cur n).a.isFlt = true →
      completes (.fsqrt n o) s (((withA (s.settleDiv n) n (Word.flt (((s.settleDiv n).fpCtx n).sqrt ((s.settleDiv n).cur n).a.val).val)).fpFlags n
          (((s.settleDiv n).fpCtx n).sqrt ((s.settleDiv n).cur n).a.val).flags).retire n))) ∧
  (∀ (n : LCore) (o : XRForm) (s : State), issues s n true (illXR o 8 false) o.guard = true →
    (o.sel = 0 → ((s.settleDiv n).cur n).a.isFix = true →
      completes (.fcvt n o) s (((withA (s.settleDiv n) n (Word.flt (((s.settleDiv n).fpCtx n).ofInt ((s.settleDiv n).cur n).a.int).val)).fpFlags n
          (((s.settleDiv n).fpCtx n).ofInt ((s.settleDiv n).cur n).a.int).flags).retire n)) ∧
    (o.sel = 1 ∨ o.sel = 2 → ((s.settleDiv n).cur n).a.isFlt = true →
      completes (.fcvt n o) s (((withA (s.settleDiv n) n (Word.fix (((s.settleDiv n).fpCtx n).toInt
            (if o.sel = 1 then bits (s.core n).fpsr 16 2 else 1) ((s.settleDiv n).cur n).a.val).val)).fpFlags n
          (((s.settleDiv n).fpCtx n).toInt (if o.sel = 1 then bits (s.core n).fpsr 16 2 else 1)
            ((s.settleDiv n).cur n).a.val).flags).retire n)) ∧
    (o.sel = 3 → ((s.settleDiv n).cur n).a.isFlt = true →
      completes (.fcvt n o) s (((withA (s.settleDiv n) n (Word.flt (((s.settleDiv n).fpCtx n).integral ((s.settleDiv n).cur n).a.val).val)).fpFlags n
          (((s.settleDiv n).fpCtx n).integral ((s.settleDiv n).cur n).a.val).flags).retire n))) ∧
  (∀ (n : LCore) (o : PForm) (s s1 s2 s3 : State) (t : Site) (b c : Word),
    issues s n true (illP o .w) o.guard = true →
    siteP n o 16 1 1 .noDev (s.settleDiv n) = .ok t s1 →
    readsAt n o.bank.toNat o.off.toNat (((s.settleDiv n).cur n).index o.mode) t s1 = .ok b s2 →
    b.isFlt = true →
    readM n (s2.translate (s2.parishOf n) (t.addr + 8)).1 (s2.translate (s2.parishOf n) (t.addr + 8)).2 {} s2 = .ok c s3 →
    c.isFlt = true → (s3.cur n).a.isFlt = true →
    completes (.fma n o) s (((withA s3 n (Word.flt ((s3.fpCtx n).fma (s3.cur n).a.val b.val c.val).val)).fpFlags n
        ((s3.fpCtx n).fma (s3.cur n).a.val b.val c.val).flags).retire n))

/-- R98, R75: where ADD, SUB, MUL and NEG trap with OVF, for an exact result outside FIX, and the modular, logical and shift
instructions with TAGF, for an operand that is neither FIX nor RAW or a count that is no FIX; A is unchanged before the
entry. -/
def Obligations.ArithmeticTraps : Prop :=
  (∀ (n : LCore) (o : PForm) (s s1 : State) (op : Word) (h : Option Heal),
    issues s n false (illP o .wi) o.guard = true → fresh (s.settleDiv n) n = true →
    operandBar n o (s.settleDiv n) = .ok (op, h) s1 →
    ((s.settleDiv n).cur n).a.isFix = true → (s1.cur n).a.isFix = true → op.isFix = true →
    ∀ r ∈ exactRows, fitsFix (r.2 (s1.cur n).a.int op.int) = false →
      trapped (r.1 n o) s s1 n { vec := vOvf }) ∧
  (∀ (n : LCore) (o : XNForm) (s : State),
    issues s n false (illXN o) o.guard = true → fresh (s.settleDiv n) n = true →
    ((s.settleDiv n).cur n).a.isFix = true → fitsFix (-((s.settleDiv n).cur n).a.int) = false →
    trapped (.neg n o) s (s.settleDiv n) n { vec := vOvf }) ∧
  (∀ (n : LCore) (o : PForm) (s s1 : State) (op : Word),
    issues s n false (illP o .wi) o.guard = true →
    operand n o (s.settleDiv n) = .ok op s1 →
    ((s1.cur n).a.isFixRaw = false ∨ op.isFixRaw = false →
      ∀ r ∈ modularRows, trapped (r.1 n o) s s1 n { vec := vTagf }) ∧
    ((s1.cur n).a.isFixRaw = false ∨ op.isFix = false →
      ∀ f ∈ [Instr.shl, Instr.shr, Instr.sar, Instr.rol],
        trapped (f n o) s s1 n { vec := vTagf }))

/-! ### Control transfers and register moves -/

/-- BR and BRL go to their target in the current code capability, RET to Y; BRL links in Y: R57, R86. A target outside the
bounds of the code capability raises CAPF 0x04 at STEP 3 and transfers nothing; another bank or mode raises ILL. -/
def Obligations.Transfers : Prop :=
  (∀ (n : LCore) (o : PForm) (s : State) (t : Nat),
    issues s n false (illBranch o) o.guard = true →
    checkTarget n ((((s.settleDiv n).cur n).pc.toNat : Int) + 4 * (o.off.toInt + ((s.settleDiv n).cur n).index o.mode))
      (s.settleDiv n) = .ok t (s.settleDiv n) →
    completes (.br n o) s ((if o.mode = 0 then (s.settleDiv n).branchBit n true else ((s.settleDiv n).branchBit n true).target n 0 0 t).retireTo n
        ((s.settleDiv n).cur n).pcCap t) ∧
    completes (.brl n o) s ((if o.mode = 0 then (withY (s.settleDiv n) n (Word.fixNat (((s.settleDiv n).cur n).pc.toNat + 4))).branchBit n true
        else ((withY (s.settleDiv n) n (Word.fixNat (((s.settleDiv n).cur n).pc.toNat + 4))).branchBit n true).target n 0 0 t).retireTo n
        ((s.settleDiv n).cur n).pcCap t)) ∧
  (∀ (n : LCore) (o : XNForm) (s : State) (t : Nat),
    issues s n false (illXN o) o.guard = true →
    ((s.settleDiv n).cur n).y.val.toNat % 4 = 0 →
    checkTarget n ((s.settleDiv n).cur n).y.int (s.settleDiv n) = .ok t (s.settleDiv n) →
    completes (.ret n o) s (((s.settleDiv n).target n 1 0 t).retireTo n ((s.settleDiv n).cur n).pcCap t)) ∧
  (∀ (n : LCore) (o : PForm) (s : State), s.fetchMeet n = s → s.runnable n = true → s.boundary n false = none →
    s.fetchFault n = none →
    o.bank ≠ 0 ∨ o.mode = 3 → ∀ f ∈ [Instr.br, Instr.brl], trapped (f n o) s s n { vec := vIll }) ∧
  (∀ (n : LCore) (o : XNForm) (s : State) (b : Bank) (e : CapEntry),
    issues s n false (illXN o) o.guard = true → b = (s.settleDiv n).cur n →
    e = (s.settleDiv n).capEntry ((s.settleDiv n).parishOf n) (capIndex b.pcCap) →
    (s.settleDiv n).capCurrent ((s.settleDiv n).parishOf n) b.pcCap = true →
    b.y.val.toNat % 4 = 0 → (b.y.int < e.lo ∨ (e.lo + e.len : Int) < b.y.int + 4) →
    trapped (.ret n o) s (s.settleDiv n) n
      { vec := vCapf, step := 3, detail := 0x04, ea := some b.y.int }) ∧
  (∀ (n : LCore) (o : PForm) (s : State) (b : Bank) (e : CapEntry),
    issues s n false (illBranch o) o.guard = true → b = (s.settleDiv n).cur n →
    e = (s.settleDiv n).capEntry ((s.settleDiv n).parishOf n) (capIndex b.pcCap) →
    (s.settleDiv n).capCurrent ((s.settleDiv n).parishOf n) b.pcCap = true →
    ((b.pc.toNat : Int) + 4 * (o.off.toInt + b.index o.mode) < e.lo ∨
      (e.lo + e.len : Int) < (b.pc.toNat : Int) + 4 * (o.off.toInt + b.index o.mode) + 4) →
    ∀ f ∈ [Instr.br, Instr.brl], trapped (f n o) s (s.settleDiv n) n
      { vec := vCapf, step := 3, detail := 0x04, ea := some ((b.pc.toNat : Int) + 4 * (o.off.toInt + b.index o.mode)) })

/-- R69, R70: LPB arms the loop or skips its body, and raises LOOPF with a loop active, for a count that is no FIX or
negative, a zero offset, or a body that leaves the code capability, ILL for another bank or mode; LE ends the pass of an
instruction that transfers nothing, a guarded-off one among them, and a transfer leaves LC. -/
def Obligations.LoopsAndBounds : Prop :=
  (∀ (n : LCore) (o : PForm) (s : State) (b : Bank),
    issues s n false (illLoop o) o.guard = true → b = (s.settleDiv n).cur n →
    b.lc = 0 → b.a.isFix = true → 0 ≤ b.a.int → o.off ≠ 0 →
    ((s.settleDiv n).capEntry ((s.settleDiv n).parishOf n) (capIndex b.pcCap)).lo ≤ b.pc.toNat + 4 * o.off.toNat →
    b.pc.toNat + 4 * o.off.toNat + 4 ≤
      ((s.settleDiv n).capEntry ((s.settleDiv n).parishOf n) (capIndex b.pcCap)).lo +
      ((s.settleDiv n).capEntry ((s.settleDiv n).parishOf n) (capIndex b.pcCap)).len →
    completes (.lpb n o) s (((s.settleDiv n).setCur n { b with ls := b.pc + 4, le := BitVec.ofNat 48 (b.pc.toNat + 4 * o.off.toNat), lc := b.a.val }).retireTo n
        b.pcCap (if b.a.val = 0 then b.pc.toNat + 4 * o.off.toNat + 4 else b.pc.toNat + 4))) ∧
  (∀ (n : LCore) (o : PForm) (s : State) (b : Bank),
    issues s n false (illLoop o) o.guard = true → b = (s.settleDiv n).cur n →
    (b.lc ≠ 0 ∨ b.a.isFix = false ∨ b.a.int < 0 ∨ o.off = 0 ∨
      b.pc.toNat + 4 * o.off.toNat < ((s.settleDiv n).capEntry ((s.settleDiv n).parishOf n) (capIndex b.pcCap)).lo ∨
      ((s.settleDiv n).capEntry ((s.settleDiv n).parishOf n) (capIndex b.pcCap)).lo +
        ((s.settleDiv n).capEntry ((s.settleDiv n).parishOf n) (capIndex b.pcCap)).len <
        b.pc.toNat + 4 * o.off.toNat + 4) →
    trapped (.lpb n o) s (s.settleDiv n) n { vec := vLoopf }) ∧
  (∀ (n : LCore) (o : PForm) (s : State), s.fetchMeet n = s → s.runnable n = true → s.boundary n false = none →
    s.fetchFault n = none →
    (o.bank ≠ 0 ∨ o.mode ≠ 0 → trapped (.lpb n o) s s n { vec := vIll }) ∧
    (o.bank = 0 → o.mode = 0 → (s.cur n).guardOk o.guard = false → completes (.lpb n o) s (s.retire n))) ∧
  (∀ (b : Bank), b.lc ≠ 0 → b.pc = b.le →
    (1 < b.lc.toNat → b.loopNext = ({ b with lc := b.lc - 1, pc := b.ls }, some true)) ∧
    (b.lc.toNat = 1 → b.loopNext = ({ b with lc := 0, pc := b.le + 4 }, some false))) ∧
  (∀ (b : Bank), b.lc = 0 ∨ b.pc ≠ b.le → b.loopNext = ({ b with pc := b.pc + 4 }, none)) ∧
  (∀ (s : State) (n : LCore) (k : Word) (a : Nat), s.mapsOk = true → (s.core n).attempts = 0 →
    (s.retire n).cur n = (s.cur n).loopNext.1 ∧
    (s.retireTo n k a).cur n = { s.cur n with pcCap := k, pc := BitVec.ofNat 48 a })

/-- What an instruction's retirement changes, beyond the running bank's PC and LC (R70), the end of its micro-save
record (R202), of its routine and of its retries: core counters (R519) and the L1I's lines (R227) only, where nothing is
traced and no retry was under way. -/
def Obligations.RetirementFrame : Prop :=
  ∀ (s : State) (n : LCore), s.mapsOk = true → (s.core n).attempts = 0 → (s.core n).thrHit = false →
    s.traced n = false →
    ((s.retire n).cur n) = ((s.cur n).loopNext).1 ∧
    (s.retire n).mem = s.mem ∧
    (∀ p, { (s.retire n).physCore p with l1i := (s.physCore p).l1i } = s.physCore p) ∧
    (∀ p, p ≠ s.physOf n → (s.retire n).physCore p = s.physCore p) ∧ (s.retire n).coh = s.coh ∧ (s.retire n).clog = s.clog ∧
    (s.retire n).plog = s.plog ∧ (s.retire n).io = s.io ∧ (s.retire n).pair = s.pair ∧ (s.retire n).trace = s.trace ∧
    (s.retire n).pins = s.pins ∧ (s.retire n).stop = s.stop ∧ (s.retire n).ts = s.ts ∧ (s.retire n).levels = s.levels ∧
    (s.retire n).waiting = s.waiting ∧
    (∀ k, k ≠ n.val → (s.retire n).core k = s.core k) ∧
    (∀ i, i ≠ (s.core n).curId → ((s.retire n).core n).bank i = (s.core n).bank i) ∧
    ((s.retire n).core n).fpsr = (s.core n).fpsr ∧ ((s.retire n).core n).ac = (s.core n).ac ∧
    ((s.retire n).core n).al = (s.core n).al ∧ ((s.retire n).core n).vb = (s.core n).vb ∧
    ((s.retire n).core n).sb = (s.core n).sb ∧ ((s.retire n).core n).df = (s.core n).df ∧
    ((s.retire n).core n).resv = (s.core n).resv ∧ ((s.retire n).core n).sq = (s.core n).sq ∧
    ((s.retire n).core n).nt = (s.core n).nt ∧ ((s.retire n).core n).divider = (s.core n).divider ∧
    ((s.retire n).core n).run = (s.core n).run ∧
    (∀ off, (∀ i, i < 8 → off ≠ Reg.pmcCnt (s.physOf n) i) → (s.retire n).reg off = s.reg off)

/-- R68: CRD and CWR move the listed registers, and raise ILL for any other selector when they execute. -/
def Obligations.RegisterMoves : Prop :=
  (∀ (n : LCore) (o : XRForm) (s : State),
    issues s n (o.sel == 1) (illXR o 8 false) o.guard = true →
    (crdListed o.sel.toNat = false → trapped (.crd n o) s s n { vec := vIll }) ∧
    (crdListed o.sel.toNat = true → completes (.crd n o) s ((withA (s.settleDiv n) n (((s.settleDiv n).core n).crd o.sel.toNat)).retire n))) ∧
  (∀ (c : Core), c.crd 2 = Word.fix c.cur.lc ∧ c.crd 10 = c.cur.x ∧ c.crd 11 = c.cur.y ∧ c.crd 7 = c.vb ∧
    c.crd 1 = Word.fix c.fpsr ∧ c.crd 8 = Word.fixNat c.cur.pc.toNat ∧ c.crd 5 = Word.fixNat c.ac.toNat ∧
    c.crd 6 = Word.fixNat c.al.toNat ∧ c.crd 0x13 = c.cur.b3 ∧ (c.crd 9).val.getLsbD 0 = true) ∧
  (∀ (n : LCore) (o : XRForm) (s u : State) (b : Bank),
    issues s n (o.sel == 1) (illXR o 8 true) o.guard = true →
    u = s.settleDiv n → b = u.cur n →
    (cwrListed o.sel.toNat = false → trapped (.cwr n o) s s n { vec := vIll }) ∧
    (b.a.isFix = true →
      (o.sel = 10 → completes (.cwr n o) s ((withX u n b.a).retire n)) ∧
      (o.sel = 11 → completes (.cwr n o) s ((withY u n b.a).retire n)) ∧
      (o.sel = 2 → 0 ≤ b.a.int → completes (.cwr n o) s ((u.setCur n { b with lc := b.a.val }).retire n)) ∧
      (o.sel = 2 → b.a.int < 0 → trapped (.cwr n o) s u n { vec := vLoopf }) ∧
      (o.sel = 1 → completes (.cwr n o) s ((u.setCore n { u.core n with fpsr := b.a.val &&& 0x31F1F#64 }).retire n)) ∧
      (o.sel = 5 → completes (.cwr n o) s ((u.setCore n { u.core n with ac := BitVec.ofNat 48 (b.a.val.toNat / 8 * 8) }).retire n)) ∧
      (o.sel = 0 → u.authority (u.parishOf n) (b.breg o.bank.toNat) coreControl = false →
        completes (.cwr n o) s ((u.setCur n { b with st :=
          (b.st &&& 0xFFFF00000000FFF7#64) ||| (b.a.val &&& 0x0000FFFFFFFF0008#64) }).retire n))) ∧
    (16 ≤ o.sel.toNat → o.sel.toNat ≤ 23 → b.a.isCap = true ∨ b.a = Word.raw0 →
      completes (.cwr n o) s ((u.setCur n (b.setBreg (o.sel.toNat - 16) b.a)).retire n)) ∧
    (o.sel = 7 → b.a.isCap = true → u.capCurrent (u.parishOf n) b.a = true → capKind b.a = 1 →
      completes (.cwr n o) s ((u.setCore n { u.core n with vb := b.a }).retire n)))

/-! ### Loads and stores -/

/-- LDA, LDX and LDY complete on a word of normal memory and on an immediate, LDA through the read barrier, and LDA on a
register of the control region; X and Y take FIX words only: R34, R62, R73, R139. -/
def Obligations.WordLoads : Prop :=
  (∀ (n : LCore) (o : PForm) (s s1 s2 : State) (t : Site) (w : Word),
    issues s n false (illP o .wi) o.guard = true → o.mode ≠ 3 →
    siteP n o 8 1 1 .word (s.settleDiv n) = .ok t s1 → t.region ≠ .dev →
    readsAt n o.bank.toNat o.off.toNat (((s.settleDiv n).cur n).index o.mode) t s1 = .ok w s2 →
    w.poisoned = false → s2.ltrap w = false →
    (∀ (s3 s4 : State) (v : Word) (h : Option Heal), w.isCap = false ∨ hasPerm t.perms pCapld = true →
      barrier n t.addr t.perms w {} s2 = .ok (v, h) s3 → healM n h {} (withA s3 n v) = .ok () s4 →
      completes (.lda n o) s (s4.retire n)) ∧
    (w.isFix = true → completes (.ldx n o) s ((withX s2 n w).retire n) ∧
      completes (.ldy n o) s ((withY s2 n w).retire n)) ∧
    (w.isFix = false → trapped (.ldx n o) s s2 n { vec := vTagf } ∧
      trapped (.ldy n o) s s2 n { vec := vTagf })) ∧
  (∀ (n : LCore) (o : PForm) (s : State), issues s n false (illP o .wi) o.guard = true → o.mode = 3 →
    completes (.lda n o) s ((withA (s.settleDiv n) n (Word.fix (BitVec.ofInt 64 o.off.toInt))).retire n) ∧
    completes (.ldx n o) s ((withX (s.settleDiv n) n (Word.fix (BitVec.ofInt 64 o.off.toInt))).retire n) ∧
    completes (.ldy n o) s ((withY (s.settleDiv n) n (Word.fix (BitVec.ofInt 64 o.off.toInt))).retire n)) ∧
  (∀ (n : LCore) (o : PForm) (s s1 : State) (t : Site),
    issues s n false (illP o .wi) o.guard = true → o.mode ≠ 3 →
    siteP n o 8 1 1 .word (s.settleDiv n) = .ok t s1 → t.region = .dev → t.pa < windowBase → t.pa - controlBase < 2 ^ 28 →
    s1.ltrap (Word.raw 0) = false → (s1.core n).heldLoad t.addr = none →
    completes (.lda n o) s ((withA s1 n (Word.raw (s1.readReg
      (s1.accessor (s1.parishOf n) ((s1.cur n).breg o.bank.toNat)) (t.pa - controlBase)))).retire n))

/-- LDB zero-extends a byte into a FIX, TAG reads a tag as a FIX (255 for a poisoned word), SETT sets A's tag, TTST
compares A's tag into P5, CLD loads a CAP word or RAW 0 into a bank register: R26, R28, R29, R63, R77, R84, R85. -/
def Obligations.BytesAndTags : Prop :=
  (∀ (n : LCore) (o : PForm) (s s1 s2 : State) (t : Site) (w : Word),
    issues s n false (illP o .w) o.guard = true →
    siteByte n o 1 1 (s.settleDiv n) = .ok t s1 →
    readsAt n o.bank.toNat 0 ((8 * (o.off.toNat : Int) + ((s.settleDiv n).cur n).index o.mode) / 8) t s1 = .ok w s2 →
    w.poisoned = false →
    completes (.ldb n o) s ((withA s2 n (Word.fixNat (w.val.toNat / 2 ^ (8 * (t.pa % 8)) % 256))).retire n)) ∧
  (∀ (n : LCore) (o : PForm) (s s1 s2 s3 : State) (t : Site) (w : Word),
    issues s n false (illP o .w) o.guard = true →
    siteP n o 8 1 1 .noDev (s.settleDiv n) = .ok t s1 →
    readsAt n o.bank.toNat o.off.toNat (((s.settleDiv n).cur n).index o.mode) t s1 = .ok w s2 →
    noteM n 1 t.pa w s2 = .ok () s3 →
    completes (.tag n o) s ((withA s3 n (Word.fixNat (if 0x80 ≤ w.tag.toNat then 255 else w.tag.toNat))).retire n)) ∧
  (∀ (n : LCore) (o : PForm) (s s1 : State) (op : Word),
    issues s n false (illP o .wi) o.guard = true →
    operand n o (s.settleDiv n) = .ok op s1 → op.isFixRaw = true → op.val.toNat ≤ 255 →
    settRefused op.val.toNat = false → op.val.toNat ≠ 3 →
    completes (.sett n o) s ((withA s1 n
      ⟨op.val.truncate 8, if op.val.toNat = 4 ∨ op.val.toNat = 5 then 0 else (s1.cur n).a.val⟩).retire n)) ∧
  (∀ (n : LCore) (o : XRForm) (s : State), issues s n false (illXR o 8 false) o.guard = true →
    completes (.ttst n o) s ((withPred (s.settleDiv n) n 5 (decide (((s.settleDiv n).cur n).a.tag = o.sel))).retire n)) ∧
  (∀ (n : LCore) (o : PForm) (s s0 s1 s2 : State) (t : Site) (w : Word),
    issues s n false (illP o .w) o.guard = true →
    checkM n o.bank.toNat (fun base => eaWord base (o.off.toNat % 8192) (((s.settleDiv n).cur n).index o.mode)) 8 1 1 true
      .noDev (s.settleDiv n) = .ok t s0 →
    touchM n o.bank.toNat t s0 = .ok () s1 →
    readsAt n o.bank.toNat (o.off.toNat % 8192) (((s.settleDiv n).cur n).index o.mode) t s1 = .ok w s2 →
    (w.isCap = true ∧ hasPerm t.perms pCapld = true) ∨ w = Word.raw0 →
    completes (.cld n o) s ((s2.setCur n ((s2.cur n).setBreg (o.off.toNat / 8192) w)).retire n))

/-- STA, STX, STY and STB complete on normal memory, STA past its hedge (R81, R136): the address is that of the checks of
R55, the store goes the way of R277, and a reservation on its granule ends (R287). -/
def Obligations.Stores : Prop :=
  (∀ (n : LCore) (o : PForm) (s s1 : State) (t : Site),
    issues s n false (illP o .w) o.guard = true →
    siteP n o 8 2 2 .word (s.settleDiv n) = .ok t s1 → t.region ≠ .dev →
    (∀ (s2 : State) (card : Option Card),
      ((s.settleDiv n).cur n).a.isCap = false ∨ hasPerm t.perms pCapst = true →
      hedge n 2 t.addr ((s.settleDiv n).cur n).a {} s1 = .ok card s2 →
      completes (.sta n o) s (((s2.ownStoreResv n (t.pa / 64)).coreStore n t.region (t.pa / 8)
        (.word ((s.settleDiv n).cur n).a) card).retire n)) ∧
    (((s.settleDiv n).cur n).x.isCap = false ∨ hasPerm t.perms pCapst = true →
      completes (.stx n o) s (((s1.ownStoreResv n (t.pa / 64)).coreStore n t.region (t.pa / 8)
        (.word ((s.settleDiv n).cur n).x) none).retire n)) ∧
    (((s.settleDiv n).cur n).y.isCap = false ∨ hasPerm t.perms pCapst = true →
      completes (.sty n o) s (((s1.ownStoreResv n (t.pa / 64)).coreStore n t.region (t.pa / 8)
        (.word ((s.settleDiv n).cur n).y) none).retire n))) ∧
  (∀ (n : LCore) (o : PForm) (s s1 s2 : State) (t : Site) (w : Word),
    issues s n false (illP o .w) o.guard = true →
    siteByte n o 2 2 (s.settleDiv n) = .ok t s1 → ((s.settleDiv n).cur n).a.isCap = false →
    (if s1.cached n t.region then readM n t.region t.pa {} s1 = .ok w s2 else w = Word.raw0 ∧ s2 = s1) →
    w.poisoned = false →
    completes (.stb n o) s (((s2.ownStoreResv n (t.pa / 64)).coreStore n t.region (t.pa / 8)
      (.byte (Fin.ofNat 8 (t.pa % 8)) (((s.settleDiv n).cur n).a.val.truncate 8)) none).retire n)) ∧
  (∀ (n : LCore) (o : PForm) (s s1 : State) (t : Site),
    issues s n false (illP o .w) o.guard = true →
    siteP n o 8 2 2 .word (s.settleDiv n) = .ok t s1 → t.region = .dev → t.pa < windowBase → t.pa - controlBase < 2 ^ 28 →
    ((s.settleDiv n).cur n).a.isFix = true →
    completes (.sta n o) s ((s1.retire n).controlStore
      (s1.accessor (s1.parishOf n) (((s.settleDiv n).cur n).breg o.bank.toNat))
      (s1.tagTable (s1.parishOf n) (((s.settleDiv n).cur n).breg o.bank.toNat) t.addr (t.pa - controlBase))
      (t.pa - controlBase) ((s.settleDiv n).cur n).a.val))

/-! ### Cells, atomics, fences -/

/-- CAR and CDR of a cell and of NIL, RPLA and RPLD, ALC and CONS complete: R79, R80, R122-R125, R81. -/
def Obligations.Cells : Prop :=
  (∀ r ∈ [(Instr.car, 0), (Instr.cdr, 8)], ∀ (n : LCore) (o : XRForm) (s u : State),
    issues s n false (illXR o 0 true) o.guard = true → u = s.settleDiv n →
    ((u.cur n).a.tag = Tag.nil → u.flag (Reg.gcCtl (u.parishOf n)) 2 = true →
      completes (r.1 n o) s ((withA u n Word.nil).retire n)) ∧
    (∀ (u0 u1 u2 u3 u4 : State) (t : Site) (w v : Word) (h : Option Heal), (u.cur n).a.tag = Tag.cons →
      checkM n o.bank.toNat (fun _ => ((u.cur n).a.addr + r.2 : Int)) 8 1 1 true .noDev u = .ok t u0 →
      touchM n o.bank.toNat t u0 = .ok () u1 →
      readM n t.region t.pa {} u1 = .ok w u2 → w.poisoned = false → (vctx s n).ltrap u2 w = false →
      (w.isCap = false ∨ hasPerm t.perms pCapld = true) →
      barrier n t.addr t.perms w (vctx s n) u2 = .ok (v, h) u3 → healM n h (vctx s n) (withA u3 n v) = .ok () u4 →
      completes (r.1 n o) s (u4.retire n))) ∧
  (∀ r ∈ [(Instr.rpla, 0), (Instr.rpld, 8)], ∀ (n : LCore) (o : PForm) (s u1 u2 u3 u4 u5 : State) (c : Word)
    (h : Option Heal) (t : Site) (card : Option Card),
    issues s n false (illP o .w) o.guard = true →
    memBar n o (vctx s n) (s.settleDiv n) = .ok (c, h) u1 → c.tag = Tag.cons →
    checkM n o.bank.toNat (fun _ => (c.addr + r.2 : Int)) 8 2 2 true .noDev u1 = .ok t u2 →
    touchM n o.bank.toNat t u2 = .ok () u3 →
    ((u1.cur n).a.isCap = false ∨ hasPerm t.perms pCapst = true) →
    hedge n 2 t.addr (u1.cur n).a (vctx s n) u3 = .ok card u4 →
    healM n h (vctx s n) ((u4.ownStoreResv n (t.pa / 64)).coreStore n t.region (t.pa / 8) (.word (u1.cur n).a) card) =
      .ok () u5 →
    completes (r.1 n o) s (u5.retire n)) ∧
  (∀ (n : LCore) (o : XRForm) (s u : State), issues s n false (illXR o 8 false) o.guard = true → u = s.settleDiv n →
    (u.cur n).a.isFix = true → 1 ≤ (u.cur n).a.int → (u.cur n).a.int ≤ 0xFFFFFFFF →
    (if (s.core n).ac.toNat % 8 = 0 then {} else vctx s n : RunCtx).pointer u ⟨o.sel, 0⟩ = true →
    o.sel ≠ Tag.fwd → (u.core n).ac.toNat + 8 * (u.cur n).a.val.toNat ≤ (u.core n).al.toNat →
    ∃ v, v = withA u n ⟨o.sel, BitVec.ofNat 64 (u.core n).ac.toNat⟩ ∧
      completes (.alc n o) s ((v.setCore n { v.core n with ac := BitVec.ofNat 48 ((u.core n).ac.toNat + 8 * (u.cur n).a.val.toNat) }).retire n)) ∧
  (∀ (n : LCore) (o : PForm) (s u1 v1 v2 u2 u3 u4 u5 u6 v : State) (cdr : Word) (h : Option Heal) (t : Site)
    (k0 k1 : Option Card),
    issues s n false (illP o .w) o.guard = true →
    memBar n o (vctx s n) (s.settleDiv n) = .ok (cdr, h) u1 → (u1.core n).ac.toNat + 16 ≤ (u1.core n).al.toNat →
    checkM n 6 (fun _ => ((u1.core n).ac.toNat : Int)) 16 2 2 true .noDev u1 = .ok t v1 → touchM n 6 t v1 = .ok () v2 →
    (((u1.cur n).a.isCap = false ∧ cdr.isCap = false) ∨ hasPerm t.perms pCapst = true) →
    hedge n 2 t.addr (u1.cur n).a (vctx s n) v2 = .ok k0 u2 → hedge n 2 (t.addr + 8) cdr (vctx s n) u2 = .ok k1 u3 →
    storeWordAt n t 0 (u1.cur n).a k0 u3 = .ok () u4 → storeWordAt n t 1 cdr k1 u4 = .ok () u5 →
    healM n h (vctx s n) u5 = .ok () u6 → v = withA u6 n ⟨Tag.cons, BitVec.ofNat 64 (u1.core n).ac.toNat⟩ →
    completes (.cons n o) s ((v.setCore n { v.core n with ac := (v.core n).ac + 16 }).retire n))

/-- LDR, STC, XADD, XCHG and CAS complete: the old word in A, the new word in its place in the same access, P6 for STC and
CAS; where the old word's object is to be moved, XCHG and CAS raise EVAC with their store made: R80, R81, R83, R141, R280,
R287, R288. -/
def Obligations.Atomics : Prop :=
  (∀ (n : LCore) (o : PForm) (s u1 u2 u3 u4 : State) (t : Site) (w v : Word) (h : Option Heal),
    issues s n false (illP o .w) o.guard = true →
    siteP n o 8 1 4 .noDev (s.settleDiv n) = .ok t u1 → u1.reserve n t = (u2, w) → w.poisoned = false →
    u2.ltrap w = false → (w.isCap = false ∨ hasPerm t.perms pCapld = true) →
    barrier n t.addr t.perms w {} u2 = .ok (v, h) u3 → healM n h {} (withA u3 n v) = .ok () u4 →
    completes (.ldr n o) s (u4.retire n)) ∧
  (∀ (n : LCore) (o : PForm) (s u1 : State) (t : Site), issues s n false (illP o .w) o.guard = true →
    siteP n o 8 2 4 .noDev (s.settleDiv n) = .ok t u1 →
    ((u1.cur n).a.isCap = false ∨ hasPerm t.perms pCapst = true) →
    (u1.reserved n t = false → completes (.stc n o) s (((withPred u1 n 6 false).dropResv n).retire n)) ∧
    (∀ (u2 u3 : State) (card : Option Card) (old : Word) (wrote : Bool), u1.reserved n t = true →
      hedge n 4 t.addr (u1.cur n).a {} ((u1.drainStores n).ntFlush n (fun e => e.line == t.pa / 64)) = .ok card u2 →
      u2.coreAtomic n t.region (t.pa / 8) 4 (fun v _ => if v.reserved n t then some (u1.cur n).a else none) =
        (u3, old, wrote) →
      completes (.stc n o) s (((withPred (if wrote then u3.cardWrite n card else u3.cardUnclaim (u3.parishOf n) card) n 6
        wrote).dropResv n).retire n))) ∧
  (∀ (n : LCore) (o : PForm) (s u1 : State) (t : Site) (old : Word), issues s n false (illP o .w) o.guard = true →
    atomicOld n o s = .ok (t, old) u1 →
    ((u1.cur n).a.isFix = true → old.isFix = true →
      completes (.xadd n o) s ((withA (((u1.ownStoreResv n (t.pa / 64)).coreAtomic n t.region (t.pa / 8) 3
        (fun _ _ => some (Word.fix (old.val + (u1.cur n).a.val)))).1) n old).retire n)) ∧
    (∀ (u2 u3 v : State) (card : Option Card) (b : Barred),
      (old.isCap = false ∨ hasPerm t.perms pCapld = true) → ((u1.cur n).a.isCap = false ∨ hasPerm t.perms pCapst = true) →
      barrierLook n t.addr t.perms old {} u1 = .ok b u2 → hedge n 3 t.addr (u1.cur n).a {} u2 = .ok card u3 →
      v = ((u3.ownStoreResv n (t.pa / 64)).coreAtomic n t.region (t.pa / 8) 3
        (fun _ _ => some (u1.cur n).a)).1.cardWrite n card →
      (b.evac = none →
        completes (.xchg n o) s ((withA v n b.w).retire n) ∧
        (old.isFix = true → old.val = (u1.cur n).x.val →
          completes (.cas n o) s ((withA (withPred v n 6 true) n b.w).retire n))) ∧
      (∀ e, b.evac = some e → trapped (.xchg n o) s v n e ∧
        (old.isFix = true → old.val = (u1.cur n).x.val → trapped (.cas n o) s v n e))) ∧
    (∀ (u2 : State) (b : Barred), old.isFix = false ∨ old.val ≠ (u1.cur n).x.val →
      (old.isCap = false ∨ hasPerm t.perms pCapld = true) → barrierLook n t.addr t.perms old {} u1 = .ok b u2 →
      (b.evac = none → completes (.cas n o) s ((withA (withPred u2 n 6 false) n b.w).retire n)) ∧
      (∀ e, b.evac = some e → trapped (.cas n o) s u2 n e)))

/-- FNSL, FNNT, FNIO and FNAL wait for what R281 names; IDLE retires at once when an event of R89 is pending, masked or not,
waits otherwise, and IDLE_WAKE ends the wait; a core that waits issues nothing. -/
def Obligations.FencesAndIdle : Prop :=
  (∀ (n : LCore) (o : XNForm) (s : State), issues s n false (illXN o) o.guard = true →
    completes (.fnsl n o) s ((s.drainStores n).retire n) ∧
    completes (.fnnt n o) s ((s.ntFlush n (fun _ => true)).retire n) ∧
    completes (.fnio n o) s (((s.drainStores n).ntFlush n (fun _ => true)).retire n) ∧
    completes (.fnal n o) s ((((s.drainStores n).ntFlush n (fun _ => true)).settleCards n).retire n) ∧
    (∀ u, u = s.setCore n { s.core n with resv := none } →
      (u.wakes n = true → completes (.idle n o) s (u.retire n)) ∧
      (u.wakes n = false → completes (.idle n o) s (u.setCore n { u.core n with run := .idle })))) ∧
  (∀ (n : LCore) (s : State), (s.core n).run = .idle → s.stop = .running → s.wakes n = true →
    completes (.idleWake n) s ((s.setCore n { s.core n with run := .running }).retire n)) ∧
  (∀ (n : LCore) (s : State), (s.core n).run = .idle → s.wakes n = false → exec (.idleWake n) s = .next s) ∧
  (∀ (n : LCore) (s : State), (s.wakes n = true ↔ (s.core n).mchk.isSome = true ∨
    ∃ r ∈ s.routes, r.lcore = n ∧ s.pendBit r.src = true) ∧ ((s.core n).run = .idle → s.runnable n = false))

/-! ### Capabilities and exceptions -/

/-- The entry of a capability that core `n` uses has been read through its code (R308): the state after it. -/
def Sys2Proof.entryMet (n : Nat) (p : Nat) (w : Word) (s : State) : State := s.tableMeet p w (s.coreWho n 1)

/-- CDER, CSEAL, CUNS and CREV complete on current words that allow them: R159, R161, R162. -/
def Obligations.Capabilities : Prop :=
  (∀ (n : LCore) (o : XRForm) (s u m u1 v : State) (src : Word) (es : CapEntry) (q : BitVec 64) (p ix nb nl k g perm : Nat),
    issues s n false (illXR o 3 true) o.guard = true → u = s.settleDiv n → p = u.parishOf n →
    src = (u.cur n).breg o.bank.toNat → m = entryMet n p src u → es = u.capEntry p (capIndex src) → q = (u.cur n).a.val →
    (u.cur n).a.isFix = true → m.capCurrent p src = true → capKind src ≠ 2 →
    k = bits q 54 2 → nl = bits q 0 24 * (8 * 2 ^ bits q 48 5) → nb = es.lo + bits q 24 24 * (8 * 2 ^ bits q 48 5) →
    k ≠ 2 → bits q 0 24 ≠ 0 → (k = 1 → capKind src = 1) → (k = 3 → capKind src = 3) → nb + nl ≤ es.lo + es.len →
    m.capAlloc p = (u1, some ix) → g = (u1.capEntry p ix).gen → perm = bits q 56 8 &&& effPerm src es →
    v = u1.setCapEntry p ix (u1.coreMaster n)
      { base := BitVec.ofNat 64 nb, length := BitVec.ofNat 64 nl,
        info := entryMeta (capFlags (bit q 53) 0 false) g (if k = 3 then es.otype else 0) perm, word3 := 0 } →
    completes (.cder n o) s ((v.setCur n ((v.cur n).setBreg o.sel.toNat (capWord k perm g ix))).retire n)) ∧
  (∀ (n : LCore) (o : XRForm) (s m m2 u1 v : State) (sw w : Word) (se e : CapEntry) (p ix g : Nat),
    issues s n false (illXR o 3 true) o.guard = true → p = s.parishOf n →
    sw = (s.cur n).breg o.bank.toNat → m = entryMet n p sw s → se = m.capEntry p (capIndex sw) →
    w = (s.cur n).breg o.sel.toNat → m2 = entryMet n p w m →
    e = s.capEntry p (capIndex w) → m.capCurrent p sw = true → (capKind sw = 0 ∨ capKind sw = 3) →
    hasPerm (effPerm sw se) pSeal = true → 1 ≤ se.lo → se.lo ≤ 0xFFFE → m2.capCurrent p w = true →
    (capKind w ≤ 1 → m2.capAlloc p = (u1, some ix) → g = (u1.capEntry p ix).gen →
      v = u1.setCapEntry p ix (u1.coreMaster n)
        { base := e.base, length := e.length, info := entryMeta (capFlags e.rvkok (capKind w) false) g se.lo e.perm,
          word3 := 0 } →
      completes (.cseal n o) s ((v.setCur n ((v.cur n).setBreg o.sel.toNat (capWord 2 (capPerm w) g ix))).retire n)) ∧
    (capKind w = 2 → e.otype = se.lo → e.isReturn = false →
      completes (.cuns n o) s ((m2.setCur n ((m2.cur n).setBreg o.sel.toNat (withKind w e.skind))).retire n))) ∧
  (∀ (n : LCore) (o : XRForm) (s m : State) (w : Word),
    issues s n false (illXR o 0 true) o.guard = true → w = (s.cur n).breg o.bank.toNat →
    m = entryMet n (s.parishOf n) w s → m.capCurrent (s.parishOf n) w = true → (s.capEntry (s.parishOf n) (capIndex w)).rvkok = true →
    completes (.crev n o) s ((m.capRelease (s.parishOf n) (capIndex w) (m.coreMaster n)).retire n))

/-- CCALL saves the return address and the code capability in a fresh entry, hands B5 over and enters the sealed code at
its base; CRET goes back through B4 and releases its entry; where a check fails, each raises CAPF and changes nothing but
the micro-save record, whose content is the model's choice (log 18): R165, R166, R201. -/
def Obligations.CallsThroughCapabilities : Prop :=
  (∀ (n : LCore) (o : XRForm) (s m u1 v w : State) (c b5 : Word) (e e5 : CapEntry) (p ix g : Nat),
    issues s n false (illXR o 0 true) o.guard = true → p = s.parishOf n → c = (s.cur n).breg o.bank.toNat →
    e = s.capEntry p (capIndex c) → m = entryMet n p c s → m.capCurrent p c = true → capKind c = 2 → e.skind = 1 → e.isReturn = false →
    hasPerm (capPerm c &&& e.perm) pX = true → 4 ≤ e.len →
    m.capAlloc p = (u1, some ix) → g = (u1.capEntry p ix).gen →
    v = u1.setCapEntry p ix (u1.coreMaster n)
      { base := BitVec.ofNat 64 ((s.cur n).pc.toNat + 4), length := (s.cur n).pcCap.val,
        info := entryMeta (capFlags false 0 true) g 0xFFFF 0, word3 := 0 } →
    e5 = v.capEntry p (capIndex (s.cur n).b5) →
    b5 = (if v.capCurrent p (s.cur n).b5 = true ∧ capKind (s.cur n).b5 = 2 ∧ e5.skind = 0 ∧ e5.otype = e.otype then
      withKind (s.cur n).b5 0 else Word.raw0) →
    w = v.setCur n { v.cur n with b4 := capWord 2 0 g ix, b5 := b5 } →
    completes (.ccall n o) s ((w.target n 2 0 e.lo).retireTo n (withKind c 1) e.lo)) ∧
  (∀ (n : LCore) (o : XNForm) (s m v w : State) (b4 k : Word) (r ek : CapEntry) (p : Nat),
    issues s n false (illXN o) o.guard = true → p = s.parishOf n → b4 = (s.cur n).b4 →
    r = s.capEntry p (capIndex b4) → k = Word.cap r.length → ek = s.capEntry p (capIndex k) →
    m = entryMet n p b4 s → m.capCurrent p b4 = true → capKind b4 = 2 → r.isReturn = true → r.otype = 0xFFFF →
    s.capCurrent p k = true → capKind k = 1 → hasPerm (effPerm k ek) pX = true → ek.lo ≤ r.lo →
    r.lo + 4 ≤ ek.lo + ek.len →
    v = m.capRelease p (capIndex b4) (m.coreMaster n) → w = v.setCur n { v.cur n with b4 := Word.raw0 } →
    completes (.cret n o) s ((w.target n 3 0 r.lo).retireTo n k r.lo)) ∧
  (∀ (n : LCore) (o : XRForm) (s m : State) (c : Word) (e : CapEntry) (p : Nat),
    issues s n false (illXR o 0 true) o.guard = true → p = s.parishOf n → c = (s.cur n).breg o.bank.toNat →
    e = s.capEntry p (capIndex c) → m = entryMet n p c s →
    (c.isCap = false ∨ m.capCurrent p c = false ∨ capKind c ≠ 2 ∨ e.skind ≠ 1 ∨ e.isReturn = true ∨
      hasPerm (capPerm c &&& e.perm) pX = false ∨ e.len < 4 →
      ∃ d, trapped (.ccall n o) s (vendorTrap s m n) n { vec := vCapf, detail := d }) ∧
    (∀ u1, m.capCurrent p c = true → capKind c = 2 → e.skind = 1 → e.isReturn = false →
      hasPerm (capPerm c &&& e.perm) pX = true → 4 ≤ e.len → m.capAlloc p = (u1, none) →
      trapped (.ccall n o) s (vendorTrap s u1 n) n { vec := vCapf, detail := 0x06 })) ∧
  (∀ (n : LCore) (o : XNForm) (s m : State) (b4 k : Word) (r ek : CapEntry) (p : Nat),
    issues s n false (illXN o) o.guard = true → p = s.parishOf n → b4 = (s.cur n).b4 →
    r = s.capEntry p (capIndex b4) → k = Word.cap r.length → ek = s.capEntry p (capIndex k) →
    m = entryMet n p b4 s →
    (b4.isCap = false ∨ m.capCurrent p b4 = false ∨ capKind b4 ≠ 2 ∨ r.isReturn = false ∨ r.otype ≠ 0xFFFF ∨
      s.capCurrent p k = false ∨ capKind k ≠ 1 ∨ hasPerm (effPerm k ek) pX = false ∨ r.lo < ek.lo ∨
      ek.lo + ek.len < r.lo + 4) →
    ∃ d, trapped (.cret n o) s (vendorTrap s m n) n { vec := vCapf, detail := d })

/-- R172, R173, R176: an exception taken outside a double fault enters the shadow bank at VB's base plus 0x100 times the
vector: PC and PC capability, A, X, Y with the cause word, P, LC, PROG, RVKD and EM as R172 gives them; SB is set, the
reservation ends, and neither the primary bank nor memory changes. -/
def Sys2Proof.exceptionEntry : Prop :=
  ∀ (s : State) (n : LCore) (sync : Bool) (e : Exc) (a : Nat) (x : Word),
    s.mapsOk = true → (s.core n).df = false → (s.core n).divider = none →
    (sync = true → (s.core n).sb = false ∧ (s.core n).em = false) →
    s.excX e = (s, x) → (s.pmc (s.physOf n) 7).handler n e.vec = some a →
    ((s.takeExc n sync e).core n).sb = true ∧ ((s.takeExc n sync e).core n).df = false ∧
    ((s.takeExc n sync e).core n).resv = none ∧
    ((s.takeExc n sync e).core n).prim = (s.core n).prim ∧ ((s.takeExc n sync e).core n).dbl = (s.core n).dbl ∧
    ((s.takeExc n sync e).core n).shad.pcCap = (s.core n).vb ∧
    ((s.takeExc n sync e).core n).shad.pc = BitVec.ofNat 48 a ∧
    ((s.takeExc n sync e).core n).shad.a = e.a ∧ ((s.takeExc n sync e).core n).shad.x = x ∧
    ((s.takeExc n sync e).core n).shad.y = causeWord e (s.core n).curId ∧
    ((s.takeExc n sync e).core n).shad.p = 1 ∧ ((s.takeExc n sync e).core n).shad.lc = 0 ∧
    ((s.takeExc n sync e).core n).shad.prog = 0 ∧ bit ((s.takeExc n sync e).core n).shad.st 3 = false ∧
    bit ((s.takeExc n sync e).core n).shad.st 0 = true ∧
    (∀ i, i < 8 → ((s.takeExc n sync e).core n).shad.breg i = (s.core n).shad.breg i) ∧
    (s.takeExc n sync e).mem = s.mem ∧ (s.takeExc n sync e).phys = s.phys ∧ (s.takeExc n sync e).io = s.io ∧
    ∀ k, k ≠ n.val → (s.takeExc n sync e).core k = s.core k

/-- R176, R177: a synchronous exception with SB or EM set, or one whose handler fails the VB checks, enters the
double-fault bank at DFLT, the second with the shadow bank entered before it; an exception there, or a DFLT handler that
fails them, which sets DF first, checkstops the core (here one with no store left to drain) and raises source 0x03. -/
def Sys2Proof.doubleFaults : Prop :=
  (∀ (s : State) (n : LCore) (e : Exc) (a : Nat) (x : Word),
    s.mapsOk = true → (s.core n).df = false → (s.core n).divider = none →
    ((s.core n).sb = true ∨ (s.core n).em = true) → s.excX e = (s, x) →
    (s.pmc (s.physOf n) 7).handler n vDflt = some a →
    ((s.takeExc n true e).core n).df = true ∧ ((s.takeExc n true e).core n).sb = (s.core n).sb ∧
    ((s.takeExc n true e).core n).dbl.pc = BitVec.ofNat 48 a ∧ ((s.takeExc n true e).core n).dbl.a = Word.raw0 ∧
    ((s.takeExc n true e).core n).dbl.y = causeWord e (s.core n).curId ∧
    ((s.takeExc n true e).core n).shad = (s.core n).shad ∧ ((s.takeExc n true e).core n).prim = (s.core n).prim) ∧
  (∀ (s : State) (n : LCore) (sync : Bool) (e : Exc) (x : Word),
    s.mapsOk = true → (s.core n).df = false → (s.core n).divider = none → s.excX e = (s, x) →
    (sync = true → (s.core n).sb = false ∧ (s.core n).em = false) → (s.pmc (s.physOf n) 7).handler n e.vec = none →
    ∀ a, (s.pmc (s.physOf n) 7).handler n vDflt = some a →
      ((s.takeExc n sync e).core n).df = true ∧ ((s.takeExc n sync e).core n).sb = true ∧
      ((s.takeExc n sync e).core n).dbl.pc = BitVec.ofNat 48 a ∧
      ((s.takeExc n sync e).core n).dbl.y = causeWord e (s.core n).curId ∧
      ((s.takeExc n sync e).core n).shad.y = causeWord e (s.core n).curId ∧
      ((s.takeExc n sync e).core n).prim = (s.core n).prim) ∧
  (∀ (s : State) (n : LCore) (sync : Bool) (e : Exc) (x : Word),
    s.mapsOk = true → (s.core n).df = false → (s.core n).divider = none → s.excX e = (s, x) →
    (sync = true ∧ ((s.core n).sb = true ∨ (s.core n).em = true) ∨ (s.pmc (s.physOf n) 7).handler n e.vec = none) →
    (s.pmc (s.physOf n) 7).handler n vDflt = none → s.stop = .running → s.escalated 0x03 = false →
    (s.core n).sq = [] → (s.core n).nt = [] →
      ((s.takeExc n sync e).core n).run = .checkstopped ∧ ((s.takeExc n sync e).core n).df = true ∧
      ((s.takeExc n sync e).core n).dbl.y = causeWord e (s.core n).curId ∧
      ((s.takeExc n sync e).core n).prim = (s.core n).prim) ∧
  (∀ (s : State) (n : LCore) (sync : Bool) (e : Exc), s.mapsOk = true → (s.core n).df = true → s.stop = .running →
    s.escalated 0x03 = false → (s.core n).sq = [] → (s.core n).nt = [] →
    ((s.takeExc n sync e).core n).run = .checkstopped ∧ ((s.takeExc n sync e).core n).resv = none ∧
    ((s.takeExc n sync e).core n).prim = (s.core n).prim ∧ (s.takeExc n sync e).mem = s.mem ∧
    (s.takeExc n sync e).fld Reg.fcCnt 32 16 = min (s.fld Reg.fcCnt 32 16 + 1) 65535)

/-- R172, R173, R176, R177: taking an exception, a double fault and a checkstop. -/
def Obligations.ExceptionEntry : Prop := exceptionEntry ∧ doubleFaults

/-- SVBK writes the 18-word record at B7, RARM moves the shadow bank back to the primary one with EM set, RTE restores the
interrupted bank, nulling stale capabilities: R181-R184; BOUNDARY_EVENT_TAKE takes the first event of R179 and
MICROWORD_LIMIT raises UCODE 0xFF02: R199. The micro-save record of SVBK's ILL is the model's choice (log 18). -/
def Obligations.SavingAndReturning : Prop :=
  (∀ (n : LCore) (o : XNForm) (s u : State) (t : Site) (ws : List Word) (v : Nat → State),
    issues s n false (illXN o) o.guard = true → (s.core n).sb = true ∨ (s.core n).df = true → u = s.settleDiv n →
    ws = (u.core n).record → checkM n 7 (fun base => base) 144 18 2 true .noDev u = .ok t (v 0) →
    (∀ i, i < 18 → ∃ (w : State) (r : Region) (pa : Nat),
      (v i).translate ((v i).parishOf n) (t.addr + 8 * i) = (r, pa) ∧
      touchM n 7 { t with addr := t.addr + 8 * i, pa := pa, region := r } (v i) = .ok () w ∧
      v (i + 1) = (w.ownStoreResv n (pa / 64)).coreStore n r (pa / 8) (.word (ws.getD i Word.raw0)) none) →
    completes (.svbk n o) s ((v 18).retire n)) ∧
  (∀ (n : LCore) (o : XNForm) (s u : State),
    issues s n false (illXN o) o.guard = true → (s.core n).sb = true → (s.core n).df = false → u = s.settleDiv n →
    completes (.rarm n o) s ((u.setCore n { u.core n with
      prim := { (u.core n).shad with st := putBit (u.core n).shad.st 0 true }, sb := false, mShad := .none, mPrim := .none
      }).retire n)) ∧
  (∀ (n : LCore) (o : XNForm) (s : State), issues s n false (illXN o) o.guard = true →
    ((s.core n).sb = false ∨ (s.core n).df = true → trapped (.rarm n o) s s n { vec := vIll }) ∧
    ((s.core n).sb = false → (s.core n).df = false →
      trapped (.svbk n o) s (vendorTrap s s n) n { vec := vIll })) ∧
  (∀ (n : LCore) (o : XNForm) (s u u1 v : State) (c d : Core) (tid : BankId) (t b : Bank) (mask : Nat),
    issues s n false (illXN o) o.guard = true → u = s.settleDiv n → c = u.core n →
    tid = (if c.df ∧ c.sb then BankId.shad else BankId.prim) →
    (if c.df = true ∨ c.sb = true then t = c.bank tid ∧ u1 = u else rteRecord n u = .ok t u1) →
    u1.nullStale (u.parishOf n) t = (b, mask) →
    (c.df = true ∨ c.sb = true → u1.capCurrent (u.parishOf n) b.pcCap = true) → v = u1.retired n → d = v.core n →
    completes (.rte n o) s ((v.setCore n (Core.setBank
      { d with
        df := false
        sb := if d.df then d.sb else false
        resv := none
        rvk := if mask ≠ 0 ∧ u1.flag (Reg.excCtl (u.parishOf n)) 0 = true then
                 some (d.rvk.getD 0 ||| BitVec.ofNat 8 mask) else d.rvk }
      tid (if mask = 0 then b else { b with st := putBit b.st 3 true }))).target n 4 0 b.pc.toNat)) ∧
  (∀ (n : LCore) (fp : Bool) (s : State) (e : BEvent), s.runnable n = true → s.boundary n fp = some e →
    completes (.boundaryEventTake n fp) s (s.takeEvent n e)) ∧
  (∀ (n : LCore) (s : State), (s.core n).atLimit = true → (s.core n).run = .running → s.stop = .running →
    ∀ v, v = s.setCore n { s.core n with atLimit := false } →
      completes (.microwordLimit n) s (State.faultAt v v n { vec := vUcode, detail := 0xFF02 }))

/-! ### Long instructions, caches, retry -/

/-- MOVB, CMPB, SCNT and FIND: a count of 0 and NIL complete at once; otherwise the first word decides, or one word is
moved, X, Y and PROG follow: R90, R92-R95. -/
def Obligations.LongInstructions : Prop :=
  (∀ (n : LCore) (o : XRForm) (s u : State) (b : Bank), s.mapsOk = true → u = s.settleDiv n → b = u.cur n →
    b.prog = 0 → b.a = Word.fix 0 →
    (issues s n false (illXR o 3 true) o.guard = true →
      completes (.movb n o) s ((u.setCur n (b.setProg 0)).retire n) ∧
      completes (.cmpb n o) s ((u.setCur n ((((b.setPred 1 false).setPred 2 true).setPred 3 false).setProg 0)).retire n)) ∧
    (issues s n false (illXR o 8 true) o.guard = true →
      completes (.scnt n o) s ((u.setCur n ((b.setPred 5 false).setProg 0)).retire n))) ∧
  (∀ (n : LCore) (o : XRForm) (s u u0 u1 v v1 v2 v3 v4 z : State) (b : Bank) (ts td : Site) (rs rd : Region) (pas pad acc : Nat)
    (w w' : Word) (card : Option Card),
    issues s n false (illXR o 3 true) o.guard = true → s.mapsOk = true →
    u = s.settleDiv n → b = u.cur n → b.prog = 0 → b.a = Word.fix 1 →
    runSite n o.bank.toNat 1 b.x.int 1 1 u = .ok ts u0 → runSite n o.sel.toNat 1 b.y.int 2 2 u0 = .ok td u1 →
    v = u1.setCur n ((u1.cur n).setProg 1) → v.mapsOk = true → (v.cur n).prog = 1 →
    v.translate (v.parishOf n) ts.addr = (rs, pas) → v.translate (v.parishOf n) td.addr = (rd, pad) →
    touchWord n o.bank.toNat ts ts.addr pas rs v = .ok () v1 →
    readM n rs pas {} v1 = .ok w v2 → (w.isCap = false ∨ (hasPerm ts.perms pCapld = true ∧ hasPerm td.perms pCapst = true)) →
    noteM n 1 pas w v2 = .ok () v3 →
    w' = (if w.poisoned = true then Word.pois else w) → acc = (if rd = Region.wb then 5 else 2) →
    hedge n acc td.addr w' {} v3 = .ok card v4 →
    z = (if rd = Region.wb then (v4.ownStoreResv n (pad / 64)).ntStore n (pad / 8) w' card
      else (v4.ownStoreResv n (pad / 64)).coreStore n rd (pad / 8) (.word w') card) →
    z.mapsOk = true → (z.cur n).prog = 1 →
    completes (.movb n o) s ((z.setCur n { (z.cur n).setProg 0 with
      x := Word.fix ((z.cur n).x.val + 1), y := Word.fix ((z.cur n).y.val + 1) }).retire n)) ∧
  (∀ (n : LCore) (o : XRForm) (s u u0 u1 v v0 v1 v2 v3 : State) (b : Bank) (ts td : Site) (k : Nat) (ws wd : Word),
    issues s n false (illXR o 3 true) o.guard = true → u = s.settleDiv n → b = u.cur n → b.prog = 0 →
    b.a = Word.fixNat k → 0 < k → k < 2 ^ 32 → s.mapsOk = true →
    runSite n o.bank.toNat k b.x.int 1 1 u = .ok ts u0 → runSite n o.sel.toNat k b.y.int 1 1 u0 = .ok td u1 →
    v = u1.setCur n ((u1.cur n).setProg k) → v.mapsOk = true → (v.cur n).prog = BitVec.ofNat 32 k →
    touchWord n o.bank.toNat ts ts.addr (v.translate (v.parishOf n) ts.addr).2 (v.translate (v.parishOf n) ts.addr).1 v =
      .ok () v0 →
    touchWord n o.sel.toNat td td.addr (v.translate (v.parishOf n) td.addr).2 (v.translate (v.parishOf n) td.addr).1 v0 =
      .ok () v1 →
    readM n (v.translate (v.parishOf n) ts.addr).1 (v.translate (v.parishOf n) ts.addr).2 {} v1 = .ok ws v2 →
    readM n (v.translate (v.parishOf n) td.addr).1 (v.translate (v.parishOf n) td.addr).2 {} v2 = .ok wd v3 →
    ws.poisoned = false → wd.poisoned = false → cmpKey ws ≠ cmpKey wd → v3.mapsOk = true →
    completes (.cmpb n o) s ((v3.setCur n (((((v3.cur n).setPred 1 (decide (cmpKey ws < cmpKey wd))).setPred 2 false).setPred 3
      (decide (cmpKey wd < cmpKey ws))).setProg 0)).retire n)) ∧
  (∀ (n : LCore) (o : XRForm) (s u u0 v v1 v2 v3 : State) (b : Bank) (ts : Site) (k : Nat) (w : Word),
    issues s n false (illXR o 8 true) o.guard = true → u = s.settleDiv n → b = u.cur n → b.prog = 0 →
    b.a = Word.fixNat k → 0 < k → k < 2 ^ 32 → s.mapsOk = true →
    runSite n o.bank.toNat k b.x.int 1 1 u = .ok ts u0 → v = u0.setCur n ((u0.cur n).setProg k) →
    v.mapsOk = true → (v.cur n).prog = BitVec.ofNat 32 k →
    touchWord n o.bank.toNat ts ts.addr (v.translate (v.parishOf n) ts.addr).2 (v.translate (v.parishOf n) ts.addr).1 v =
      .ok () v1 →
    readM n (v.translate (v.parishOf n) ts.addr).1 (v.translate (v.parishOf n) ts.addr).2 {} v1 = .ok w v2 →
    noteM n 1 (v.translate (v.parishOf n) ts.addr).2 w v2 = .ok () v3 → tagRead w = o.sel.toNat → v3.mapsOk = true →
    completes (.scnt n o) s ((v3.setCur n (((v3.cur n).setPred 5 true).setProg 0)).retire n)) ∧
  (∀ (n : LCore) (o : XMForm) (s u : State) (b : Bank),
    issues s n false (illXM o) o.guard = true → s.mapsOk = true → u = s.settleDiv n → b = u.cur n → b.prog = 0 →
    b.a.tag = Tag.nil →
    completes (.find n o) s ((u.setCur n ((b.setPred 5 false).setProg 0)).retire n))

/-- R241, R242: what a cache operation on one line leaves: older stores of the core to the line reach the L2 first; a line
of WB memory is operated on, and any other is left alone. `d` where CINV may drop dirty words. -/
def Sys2Proof.oneLine (op : CacheOp) (n : LCore) (o : XMForm) (u : State) (t : Site) : State :=
  let e := u.capEntry (u.parishOf n) (capIndex ((u.cur n).breg o.bank.toNat))
  let d := decide (e.lo ≤ t.addr / 64 * 64 ∧ t.addr / 64 * 64 + 64 ≤ e.lo + e.len) && hasPerm t.perms pDisc
  if t.region = Region.wb then (u.drainFor n (fun l => l == t.pa / 64)).cacheLine (u.physOf n) op (t.pa / 64) d else u

/-- R243: what a cache operation leaves on the range of `len` bytes at `t`, a line at a time. -/
def Sys2Proof.lineRange (op : CacheOp) (n : LCore) (u : State) (t : Site) (len : Nat) : State :=
  (List.range ((t.addr + len - 1) / 64 - t.addr / 64 + 1)).foldl
    (fun v i => v.rangeLine n op t len (t.addr / 64 + i)) u

/-- R87, R241-R243: CWB, CINV, CWBI, CWB.R, CINV.R and CWBI.R complete where their operand passes its check; LOCKF locks a
way (R238). -/
def Sys2Proof.cacheOperations : Prop :=
  (∀ (n : LCore) (o : XMForm) (s v : State) (t : Site),
    issues s n false (illXM o) o.guard = true → lineSite n o .noDev (s.settleDiv n) = .ok t v →
    completes (.cwb n o) s ((oneLine .cwb n o v t).retire n) ∧
    completes (.cinv n o) s ((oneLine .cinv n o v t).retire n) ∧
    completes (.cwbi n o) s ((oneLine .cwbi n o v t).retire n)) ∧
  (∀ (n : LCore) (o : XRForm) (s u v : State) (t : Site) (len : Nat),
    issues s n false (illXR o 0 true) o.guard = true → u = s.settleDiv n → (u.cur n).a = Word.fixNat len →
    1 ≤ len → len ≤ 0x200000 →
    checkM n o.bank.toNat (fun base => (base : Int) + 8 * (u.cur n).x.int) len 1 1 false .noDev u = .ok t v →
    completes (.cwbR n o) s ((lineRange .cwb n v t len).retire n) ∧
    completes (.cinvR n o) s ((lineRange .cinv n v t len).retire n) ∧
    completes (.cwbiR n o) s ((lineRange .cwbi n v t len).retire n)) ∧
  (∀ (n : LCore) (o : XMForm) (s v : State) (t : Site) (k : Fin 4),
    issues s n false (illXM o || o.mode == 2) o.guard = true →
    lineSite n o .wbOnly (s.settleDiv n) = .ok t v → (v.cur n).y = Word.fixNat k →
    completes (.lockf n o) s (((v.drainFor n (fun l => l == t.pa / 64)).lockf n (t.pa / 64) k).retire n))

/-- R231, R239, R242: what CWB, CWBI and CINV leave in the L2: a written-back line that stays clean, or no line; a line that
is not there is left alone. -/
def Sys2Proof.cacheLinesLeave : Prop :=
  (∀ (s : State) (p line : Nat) (op : CacheOp) (d : Bool), (s.physCore p).l2.find line = none →
    s.cacheLine p op line d = s) ∧
  (∀ (s : State) (p line : Nat) (l : L2Line), s.mapsOk = true → (s.physCore p).l2.find line = some l →
    ((s.l2Drop p line).physCore p).l2.find line = none ∧
    ((s.l2Drop p line).physCore p).l1i.lines.find line = none ∧ ((s.l2Drop p line).physCore p).l1d.lines.find line = none ∧
    (∀ k, k ≠ line → ((s.l2Drop p line).physCore p).l2.find k = (s.physCore p).l2.find k) ∧
    (∀ q, q ≠ p → (s.l2Drop p line).physCore q = s.physCore q) ∧
    (s.l2Drop p line).mem = { s.mem with sramErr := (s.l2Drop p line).mem.sramErr } ∧
    (s.l2Drop p line).cores = s.cores)

/-- R229, R238-R242: the cache instructions complete, and what leaves an L2 leaves nothing else changed. -/
def Obligations.CacheOperations : Prop := cacheOperations ∧ cacheLinesLeave

/-- R240, R247, R248: a write of CCTL by device-control to a core that is neither fallow nor failed nor failing in a transplant sets EN and PFEN and,
where it clears EN, starts the sweep, which CACHE_SWEEP_DONE ends; where it sets EN, the caches come up empty; UNLK clears the lock bits and nothing else. R564: a
write to the CCTL of a fallow or failed core, or of one failing in a transplant, is discarded. -/
def Obligations.CacheControl : Prop :=
  (∀ (acc : Accessor) (p : PCore) (v : BitVec 64) (s : State), s.waiting = none →
    s.flag Reg.fallowStat p = true ∨ s.flag Reg.failedMap p = true ∨ s.failing p = true →
      exec (.cctlEn acc p v) s = .next s ∧ exec (.cctlUnlk acc p) s = .next s) ∧
  (∀ (acc : Accessor) (p : PCore) (v : BitVec 64) (s : State),
    s.mapsOk = true → s.waiting = none → acc.devctl = true → s.flag Reg.fallowStat p = false → s.flag Reg.failedMap p = false → s.failing p = false →
    (∃ t, exec (.cctlEn acc p v) s = .next t ∧ t.flag (Reg.cctl p) 0 = bit v 0 ∧ t.flag (Reg.cctl p) 2 = bit v 2 ∧
      t.flag (Reg.cctl p) 1 = (s.flag (Reg.cctl p) 1 || (s.flag (Reg.cctl p) 0 && !bit v 0)) ∧
      t.mem = s.mem ∧ (∀ q, q ≠ p.val → t.physCore q = s.physCore q) ∧
      (s.flag (Reg.cctl p) 0 = true ∨ s.flag (Reg.cctl p) 1 = true ∨ bit v 0 = false → t.physCore p = s.physCore p) ∧
      (s.flag (Reg.cctl p) 0 = false → s.flag (Reg.cctl p) 1 = false → bit v 0 = true →
        t.physCore p = { s.physCore p with l2 := [], fills := [], l1i := .reset, l1d := .reset, dirty := [] }) ∧
      (∀ off, off ≠ Reg.cctl p → t.reg off = s.reg off)) ∧
    (∃ t, exec (.cctlUnlk acc p) s = .next t ∧ (t.physCore p).locks = [] ∧
      (t.physCore p).l2 = (s.physCore p).l2 ∧ t.mem = s.mem ∧ t.cores = s.cores ∧
      (∀ q, q ≠ p.val → t.physCore q = s.physCore q) ∧ ∀ off, t.reg off = s.reg off)) ∧
  (∀ (p : PCore) (n : Nat) (s : State), s.flag (Reg.cctl p) 1 = true → s.logicalOf p = some n →
    completes (.cacheSweepDone p) s ((((s.dropResv n).drainAll n).sweepLines p).setFlag (Reg.cctl p) 1 false))

/-- R205, R210-R216, R230: a detector's first three firings for an instruction count retries and leave the core running at
its checkpoint, the fourth pauses it, and so does any once RTY_CFG.THR has been reached; a parity error of an L1 line drops
it; RETRY_RATE_THRESHOLD pauses the core, or is noted while an instruction is being retried; a control-store word whose copy
can be read is reloaded, counted and recorded as a NOTICE. -/
def Obligations.Retry : Prop :=
  (∀ (n : LCore) (det : BitVec 4) (unc : Bool) (err : SramErr) (s : State),
    s.mapsOk = true → s.waiting = none → s.active n = true → 1 ≤ det.toNat → det.toNat ≤ 7 → (s.core n).devLoad = none →
    ((s.core n).thrHit = false → (s.core n).attempts < 3 →
      ∃ t, exec (.retry n det ⟨unc, .none, err⟩) s = .next t ∧ (t.core n).attempts = (s.core n).attempts + 1 ∧
        (t.core n).detector = det ∧ (t.core n).resv = none ∧ (t.core n).run = (s.core n).run ∧
        (t.core n).prim = (s.core n).prim ∧ t.mem = s.mem ∧ t.phys = s.phys ∧
        t.fld (Reg.rtyStat (s.physOf n)) 28 4 = det.toNat ∧
        t.fld (Reg.rtyStat (s.physOf n)) 48 16 = min (s.fld (Reg.rtyStat (s.physOf n)) 48 16 + 1) 65535) ∧
    ((s.core n).thrHit = true ∨ (s.core n).attempts = 3 →
      ∃ t, exec (.retry n det ⟨unc, .none, err⟩) s = .next t ∧ (t.core n).run = .paused ∧ (t.core n).target = none ∧
        t.flag (Reg.rtyStat (s.physOf n)) (if (s.core n).thrHit = true then 25 else 24) = true ∧
        (t.core n).prim = (s.core n).prim ∧ t.mem = s.mem)) ∧
  (∀ (n : LCore) (unc : Bool) (err : SramErr) (line : LineAddr) (s : State), s.mapsOk = true → s.waiting = none → s.active n = true →
    (s.core n).devLoad = none → (s.core n).thrHit = false → (s.core n).attempts < 3 →
    (∃ t, exec (.retry n 1#4 ⟨unc, .l1 line, err⟩) s = .next t ∧
      (t.physCore (s.physOf n)).l1i.lines.find line.toNat = none ∧ t.mem = s.mem ∧
      (t.physCore (s.physOf n)).l2 = (s.physCore (s.physOf n)).l2 ∧ (t.core n).attempts = (s.core n).attempts + 1) ∧
    ∃ t, exec (.retry n 2#4 ⟨unc, .l1 line, err⟩) s = .next t ∧
      (t.physCore (s.physOf n)).l1d.lines.find line.toNat = none ∧ t.mem = s.mem ∧
      (t.physCore (s.physOf n)).l2 = (s.physCore (s.physOf n)).l2 ∧ (t.core n).attempts = (s.core n).attempts + 1) ∧
  (∀ (n : LCore) (s : State), s.mapsOk = true → s.active n = true →
    s.fld (Reg.rtyCfg (s.physOf n)) 0 16 ≠ 0 →
    s.fld (Reg.rtyCfg (s.physOf n)) 0 16 ≤ (s.recentRetries n).length →
    ((s.core n).attempts = 0 → ∃ t, exec (.retryRateThreshold n) s = .next t ∧ (t.core n).run = .paused ∧
      t.flag (Reg.rtyStat (s.physOf n)) 25 = true ∧ t.mem = s.mem) ∧
    ((s.core n).attempts ≠ 0 → exec (.retryRateThreshold n) s = .next (s.setCore n { s.core n with thrHit := true }))) ∧
  (∀ (n : LCore) (a : BitVec 14) (s : State), s.mapsOk = true → s.waiting = none → s.runnable n = true →
    s.escalated 0x08 = false → s.mem.sramErr = [] → a.toNat ∉ (s.physCore (s.physOf n)).badU →
    ∃ t, exec (.controlStoreReload n a true true) s = .next t ∧ t.cores = s.cores ∧ t.mem = s.mem ∧
      t.microword (s.physOf n) a.toNat = UWord.of (BitVec.ofNat 160 ((s.mem.copyAt (3 * a.toNat)).val.toNat +
        (s.mem.copyAt (3 * a.toNat + 1)).val.toNat * 2 ^ 64 + (s.mem.copyAt (3 * a.toNat + 2)).val.toNat * 2 ^ 128)) ∧
      t.fld (Reg.ucsStat (s.physOf n)) 0 14 = a.toNat ∧
      t.fld (Reg.ucsStat (s.physOf n)) 32 16 = min (s.fld (Reg.ucsStat (s.physOf n)) 32 16 + 1) 65535 ∧
      t.fld Reg.fcCnt 0 16 = min (s.fld Reg.fcCnt 0 16 + 1) 65535)

/-- R216-R218, R221, R235: TRANSPLANT readies the first fallow core that is not refused and holds the control store of the
copy, TRANSPLANT_RESUME runs the logical core there; without a target or a checkpoint the core is lost; CORE_PREFETCH brings
a trained stream's next missing line into the L2 with RDS, or sends its request where it must wait, keeps it back where the
slice's queue is full, or drops it where its set has no entry to give, and places the two nearest lines in the L1D. -/
def Obligations.TransplantAndPrefetch : Prop :=
  (∀ (n : LCore) (ok : Bool) (refused : List PCore) (unr : List LineAddr) (s v : State),
    (s.core n).run = .paused → (s.core n).target = none →
    v = ((s.drainAll n).evacuate n (unr.map (·.toNat))).setFlag (Reg.cctl (s.physOf n)) 1 false →
    (ok = false ∨ v.targets (s.physOf n) = [] → completes (.transplant n ok refused unr) s (v.lostCore n)) ∧
    (∀ t rest, ok = true → v.targets (s.physOf n) = t :: rest → t ∉ refused.map (·.val) → v.storeMatches t = true →
      completes (.transplant n ok refused unr) s ((v.setPhys t { PhysCore.reset with ucode := (v.physCore t).ucode }).setCore n
        { (v.setPhys t { PhysCore.reset with ucode := (v.physCore t).ucode }).core n with target := some t }))) ∧
  (∀ (n : LCore) (s : State) (t : Nat), s.mapsOk = true → s.waiting = none → (s.core n).run = .paused →
    (s.core n).target = some t → t < 48 → (∀ d, (s.core n).devLoad = some d → d.answer = none) →
    s.escalated 0x02 = false → s.flag Reg.rcStat 0 = false →
    ∃ v, exec (.transplantResume n) s = .next v ∧ (v.core n).run = .running ∧ v.physOf n = t ∧
      v.flag Reg.fallowStat t = false ∧ v.flag Reg.failedMap (s.physOf n) = true ∧ (v.core n).prim = (s.core n).prim ∧
      (v.core n).resv = none ∧ (v.core n).attempts = 0 ∧ (v.core n).retryTimes = [] ∧ v.mem = s.mem) ∧
  (∀ (n : LCore) (ins : BitVec 48) (s s1 : State) (p : Nat) (t : Stream) (lines : List Nat) (line : Nat) (way : Option Nat),
    s.phase = phService → s.stop = .running → p = s.physOf n → s.coreValid n = true → s.cachesOn p = true →
    s.flag (Reg.cctl p) 2 = true → (s.core n).run = .running →
    (s.physCore p).streams.find? (fun t => t.ins == ins.toNat && decide (2 ≤ t.hits)) = some t →
    lines = t.ahead?.filterMap (fun a => s.aheadLine (s.parishOf n) true t a) →
    lines.find? (fun l => ((s.physCore p).l2.find l).isNone && ((s.physCore p).fills.find l).isNone) = some line →
    s.l2Room p line = (s1, way) →
    (way = none → completes (.corePrefetch n ins) s ((lines.take 2).foldl (fun s l => s.l1dAccess p l) s1)) ∧
    (∀ (w : Nat) (s2 s3 : State) (st : L2St) (ws : List Word) (r : Req), way = some w →
      r = { kind := .rds, master := BitVec.ofNat 12 (masterId 0 p), line := line } →
      s2 = s1.streamAhead p ins.toNat line →
      (s1.queueFull line = true →
        completes (.corePrefetch n ins) s ((lines.take 2).foldl (fun s l => s.l1dAccess p l) s1)) ∧
      (s1.queueFull line = false → s1.admitsNow r = true → s2.rdsFor n line 0xE = (s3, st, ws) →
        completes (.corePrefetch n ins) s
          ((lines.take 2).foldl (fun s l => s.l1dAccess p l) (s3.l2Install p line st ws w))) ∧
      (s1.queueFull line = false → s1.admitsNow r = false →
        completes (.corePrefetch n ins) s ((lines.take 2).foldl (fun s l => s.l1dAccess p l)
          ((s2.setPhys p { s2.physCore p with fills := (s2.physCore p).fills.ins line (Fin.ofNat 16 w) }).request r)))))

/-! ### The fabric -/

/-- RDS, RDO, UPG, RDH, ATM and PFG: a request that R264 and R266 allow its sender reaches its slice, an RDS or RDO with an
entry of its L2 set held for the fill (R232, R250); where the sender may not make it, the set has no entry to give or the
slice's queue is full, nothing is requested; a Commons answers its own reads and atomics (R320): R259, R263, R265, R266. -/
def Obligations.FabricRequests : Prop :=
  (∀ (p : PCore) (line : LineAddr) (err : BurstErr) (n : Nat) (s : State),
    s.requester p = some n → s.wbLine n line.toNat = true → s.asked (masterId 0 p) line.toNat = false →
    s.wbkOut p line.toNat = false →
    (∀ u1 way, (s.physCore p).l2.find line.toNat = none → (s.burstFlip line.toNat err).queueFull line.toNat = false →
      (s.burstFlip line.toNat err).l2Room p line.toNat = (u1, way) →
      (∀ w, way = some w →
        completes (.rds p line err) s ((u1.setPhys p { u1.physCore p with
            fills := (u1.physCore p).fills.ins line.toNat (Fin.ofNat 16 w) }).request
          { kind := .rds, master := BitVec.ofNat 12 p, line := line.toNat }) ∧
        completes (.rdo p line err) s ((u1.setPhys p { u1.physCore p with
            fills := (u1.physCore p).fills.ins line.toNat (Fin.ofNat 16 w) }).request
          { kind := .rdo, master := BitVec.ofNat 12 p, line := line.toNat })) ∧
      (way = none → completes (.rds p line err) s u1 ∧ completes (.rdo p line err) s u1)) ∧
    ((s.physCore p).l2.find line.toNat = none → (s.burstFlip line.toNat err).queueFull line.toNat = true →
      completes (.rds p line err) s (s.burstFlip line.toNat err) ∧
      completes (.rdo p line err) s (s.burstFlip line.toNat err)) ∧
    (∀ l, (s.physCore p).l2.find line.toNat = some l → l.st = .s → s.mirroredPa (64 * line.toNat) = false →
      completes (.upg p line) s (s.request { kind := .upg, master := BitVec.ofNat 12 p, line := line.toNat })) ∧
    (∀ l, (s.physCore p).l2.find line.toNat = some l →
      completes (.rds p line err) s s ∧ completes (.rdo p line err) s s)) ∧
  (∀ (m : BitVec 12) (line : LineAddr) (mask : BitVec 8) (err : BurstErr) (s : State), s.mayAccess m.toNat = true →
    (isDram (64 * line.toNat) = true → isCommons (64 * line.toNat) = false → s.asked m.toNat line.toNat = false →
      s.readsAtHome m.toNat line.toNat = true →
      completes (.rdh m line mask err) s
        ((s.burstFlip line.toNat err).request { kind := .rdh mask, master := m, line := line.toNat })) ∧
    (isCommons (64 * line.toNat) = false → s.readsAtHome m.toNat line.toNat = false →
      completes (.rdh m line mask err) s s) ∧
    (∀ u ws who, isCommons (64 * line.toNat) = true →
      who = { master := m.toNat, acc := if m.toNat / 0x100 = 0 then 1 else 8, parish := s.ownerOf (64 * line.toNat) } →
      s.commonsWords line.toNat mask who = (u, ws) →
      completes (.rdh m line mask err) s
        ((u.noteWords line.toNat mask ws who).send (.words mask ws) m.toNat line.toNat noTxn))) ∧
  (∀ (p : PCore) (op : AtmOp) (pa : BitVec 52) (a x : Word) (err : BurstErr) (n w : Nat) (s : State),
    s.sender p = some n → w = pa.toNat / 8 →
    (isDram (8 * w) = true → isCommons (8 * w) = false → s.atmAtHome n p (w / 8) = true →
      s.asked (masterId 0 p) (w / 8) = false →
      completes (.atm p op ⟨pa, err⟩ a x) s
        (((s.waitIf (op != .ldr && s.mirrorFull (w / 8))).burstFlip (w / 8) err).request
          { kind := .atm op w a x, master := BitVec.ofNat 12 p, line := w / 8 })) ∧
    (∀ u o k, isCommons (8 * w) = true → op = .xadd → a = Word.fix k →
      (s.drainMerge w).cmnRead w { master := p.val, acc := 3, parish := some (s.parishOf n) } = (u, Word.fix o) →
      completes (.atm p op ⟨pa, err⟩ a x) s (u.homeWriteWord w (Word.fix (o + k)) p 3))) ∧
  (∀ (line : LineAddr) (err : BurstErr) (s : State), s.fabricOn = true → isDram (64 * line.toNat) = true →
    64 * line.toNat < s.dramEnd → (s.burstFlip line.toNat err).dramEnd = s.dramEnd →
    completes (.pfg line err) s ((s.burstFlip line.toNat err).request
      { kind := .pfg, master := BitVec.ofNat 12 (s.pfgMaster line.toNat), line := line.toNat }))

/-- R259, R263, R266, R267: a request on a line nobody holds or waits for is admitted and performed: an RDS brings DATA
in E; a request that must wait goes to the end of its slice's queue while fewer than 96 wait there, and none, not even one
that could be admitted, is taken while 96 do; a PFG never waits. -/
def Obligations.Admission : Prop :=
  (∀ (p : PCore) (line : LineAddr) (n w : Nat) (s s1 u v : State) (ws : List Word) (r : Req), s.waiting = none →
    s.requester p = some n → s.wbLine n line.toNat = true → s.wbkOut p line.toNat = false →
    (s.physCore p).l2.find line.toNat = none → s.coh.sf = [] → s.coh.txns = [] → s.coh.retryQ = [] →
    s.coh.bookErr = [] →
    s.flag Reg.trcCtl 13 = false → s.l2Room p line.toNat = (s, some w) →
    s1 = s.setPhys p { s.physCore p with fills := (s.physCore p).fills.ins line.toNat (Fin.ofNat 16 w) } →
    r = { kind := .rds, master := BitVec.ofNat 12 p, line := line.toNat } →
    u = s1.setTxn line.toNat
      { req := r, way := some 0, await := [], wbp := [], got := [], victim := none, answered := false } →
    u.homeLine line.toNat { master := p.val, acc := u.reqAcc r, parish := u.ownerOf (64 * line.toNat) } = (v, some ws) →
    v.coh = u.coh → v.waiting = none →
    ∃ t, exec (.rds p line []) s = .next t ∧ t.coh.msgs = s.coh.msgs ++ [⟨.data .e ws, p, line.toNat, line.toNat⟩] ∧
      t.sfHas line.toNat p = true ∧ t.mem = v.mem ∧ t.phys = v.phys) ∧
  (∀ (s : State) (r : Req), s.coh.bookErr.find r.line = none → s.admissible r = false → r.kind ≠ .pfg →
    (s.retryAt (sliceOf (64 * r.line))).length < 96 →
    (s.request r).coh.retryQ = s.coh.retryQ ++ [r] ∧ (s.request r).coh.txns = s.coh.txns ∧
    (s.request r).mem = s.mem ∧ (s.request r).phys = s.phys ∧ (s.request r).cores = s.cores) ∧
  (∀ (s : State) (r : Req), s.coh.bookErr.find r.line = none →
    (s.admissible r = false ∧ r.kind = .pfg ∨ 96 ≤ (s.retryAt (sliceOf (64 * r.line))).length) → s.request r = s)

/-- R270: a write-back of the line is on its way from core `p`, or stands in for its answer already. -/
def Sys2Proof.wbkComing (s : State) (p : Nat) (m : Msg) : Bool :=
  s.coh.msgs.any (fun x => x.p == p && x.line == m.line && isWbk x) ||
    (match s.coh.txns.find m.txn with
     | some t => t.got.contains p && s.wbkOut p m.line
     | none => false)

/-- R268, R270: a snoop that is in flight and not held off reaches its core, which answers from its L2: SNP-S leaves an S
copy, SNP-I and BINV none, a dirty line's words come back, and where a write-back is on its way the answer says so. -/
def Obligations.Snoops : Prop :=
  ∀ (p : PCore) (line : LineAddr) (s s1 : State) (m : Msg) (rest : List Msg),
    s.mapsOk = true → s.waiting = none → s.mem.sramErr = [] → s.fabricOn = true →
    s1 = { s with coh := { s.coh with msgs := rest } } →
    (∀ r ∈ [(Instr.snpS, MsgKind.snpS), (Instr.snpI, MsgKind.snpI), (Instr.binv, MsgKind.binv)],
      s.heldOff p line.toNat = false →
      takeMsg (fun m => m.kind == r.2 && m.p == p.val && m.line == line.toNat) s.coh.msgs = some (m, rest) →
      (∀ l, (s.physCore p).l2.find line.toNat = some l →
        ∃ t, exec (r.1 p line) s = .next t ∧
          t.coh.msgs = rest ++ [⟨if l.st = .m then .sdata l.data else if wbkComing s1 p m then .ndataWbp
            else .sack (if r.2 = .snpS then some .s else none), p, line.toNat, m.txn⟩] ∧
          ((t.physCore p).l2.find line.toNat = if r.2 = .snpS then some { l with st := .s } else none) ∧ t.mem = s.mem) ∧
      ((s.physCore p).l2.find line.toNat = none →
        ∃ t, exec (r.1 p line) s = .next t ∧
          t.coh.msgs = rest ++ [⟨if wbkComing s1 p m then .ndataWbp else .miss, p, line.toNat, m.txn⟩] ∧
          t.mem = s.mem ∧ t.phys = s.phys)) ∧
    (∀ r ∈ [(Instr.snpS, MsgKind.snpS), (Instr.snpI, MsgKind.snpI), (Instr.binv, MsgKind.binv)],
      s.heldOff p line.toNat = true ∨
        takeMsg (fun m => m.kind == r.2 && m.p == p.val && m.line == line.toNat) s.coh.msgs = none →
      exec (r.1 p line) s = .next s)

/-- R266, R267, R270: DATA installs its line in the entry held for it, or brings the words of an RDH, GNT makes an S copy M,
and the answers SACK, SDATA, MISS and NDATA-WBP reach their transaction at home; the ACK of a store ends it, and that of a
write-back is only consumed. -/
def Obligations.Responses : Prop :=
  (∀ (p : PCore) (line : LineAddr) (s : State) (m : Msg) (rest : List Msg), s.mapsOk = true → s.waiting = none →
    s.fabricOn = true → s.coh.wbks = [] → s.coh.late = [] →
    (∀ st ws w, takeMsg (fun m => m.kind.isData && m.p == p.val && m.line == line.toNat) s.coh.msgs = some (m, rest) →
      m.kind = .data st ws → (s.physCore p).dirty.length < 1024 → s.takesFills p = true →
      (s.physCore p).l2.find line.toNat = none → (s.physCore p).fills.find line.toNat = some w →
      ∃ t, exec (.data (BitVec.ofNat 12 p) line) s = .next t ∧
        (t.physCore p).l2.find line.toNat = some { st := st, data := ws, way := w } ∧
        (t.physCore p).fills.find line.toNat = none ∧ t.coh.txns.find m.txn = none) ∧
    (∀ l, takeMsg (fun m => m.kind == MsgKind.gnt && m.p == p.val && m.line == line.toNat) s.coh.msgs = some (m, rest) →
      (s.physCore p).l2.find line.toNat = some l → (s.physCore p).dirty.length < 1024 → s.takesFills p = true →
      ∃ t, exec (.gnt p line) s = .next t ∧ (t.physCore p).l2.find line.toNat = some { l with st := .m } ∧
        t.coh.txns.find m.txn = none ∧ t.mem = s.mem) ∧
    (∀ n, takeMsg (fun m => m.kind.isAck && m.p == p.val && m.line == line.toNat) s.coh.msgs = some (m, rest) →
      s.logicalOf p = some n →
      (s.coh.txns.find m.txn = none → (s.core n).sq = [] →
        exec (.ack (BitVec.ofNat 12 p) line) s = .next { s with coh := { s.coh with msgs := rest } }) ∧
      (∀ t e, s.coh.txns.find m.txn = some t → t.req.kind = .wrh e → (s.core n).sq = [e] → e.card = none →
        ∃ u, exec (.ack (BitVec.ofNat 12 p) line) s = .next u ∧ (u.core n).sq = [] ∧ u.coh.txns.find m.txn = none ∧
          u.mem = s.mem ∧ u.phys = s.phys))) ∧
  (∀ (k : BitVec 12) (line : LineAddr) (s : State) (m : Msg) (rest : List Msg) (mask : BitVec 8) (ws : List Word),
    s.waiting = none → s.fabricOn = true → m.kind = .words mask ws →
    takeMsg (fun m => m.kind.isData && m.p == k.toNat && m.line == line.toNat) s.coh.msgs = some (m, rest) →
    exec (.data k line) s = .next { s with coh := { s.coh with msgs := rest } }) ∧
  (∀ (p : PCore) (line : LineAddr) (s : State) (m : Msg) (rest : List Msg) (t : Txn), s.fabricOn = true →
    s.coh.txns.find m.txn = some t →
    (∀ r ∈ [(Instr.sack, MsgKind.isSack), (Instr.sdata, MsgKind.isSdata), (Instr.miss, fun k => k == MsgKind.miss),
        (Instr.ndataWbp, fun k => k == MsgKind.ndataWbp)],
      takeMsg (fun m => r.2 m.kind && m.p == p.val && m.line == line.toNat) s.coh.msgs = some (m, rest) →
      completes (r.1 p line) s ((({ s with coh := { s.coh with msgs := rest } } : State).homeLook m).deliverAnswer m)))

/-- R234, R260, R266, R277, R279, R282, R300: WRT and WRH send the store at the head of its core's queue, a WRT of a line
that the L2 lacks after an RDO; WBK sends a dirty line, NT_FLUSH_TIMEOUT the oldest combining entry, MERGE_DRAIN_TIMEOUT a
merge entry. -/
def Obligations.FabricWrites : Prop :=
  (∀ (n : LCore) (s : State) (e : StoreEntry) (rest : List StoreEntry), s.fabricOn = true → s.coreValid n = true →
    (s.core n).sq = e :: rest →
    (isCommons (8 * e.word) = true → e.path = .wrh →
      completes (.wrh (.core n)) s ((s.setCore n { s.core n with sq := rest }).performStore n e)) ∧
    (isCommons (8 * e.word) = false → s.asked (masterId 0 (s.physOf n)) (e.word / 8) = true ∨ (s.core n).run = .paused →
      completes (.wrt n) s s ∧ completes (.wrh (.core n)) s s) ∧
    (isCommons (8 * e.word) = false → s.asked (masterId 0 (s.physOf n)) (e.word / 8) = false → (s.core n).run ≠ .paused →
      (e.path = .wrt → s.cachesOn (s.physOf n) = true → ((s.physCore (s.physOf n)).l2.find (e.word / 8)).isSome = true →
        completes (.wrt n) s (s.request
          { kind := .wrt e, master := BitVec.ofNat 12 (s.physOf n), line := e.word / 8 })) ∧
      (e.path = .wrt → s.cachesOn (s.physOf n) = false →
        completes (.wrt n) s (s.request
          { kind := .wrh e, master := BitVec.ofNat 12 (s.physOf n), line := e.word / 8 })) ∧
      (∀ u w, e.path = .wrt → s.cachesOn (s.physOf n) = true →
        (s.physCore (s.physOf n)).l2.find (e.word / 8) = none → s.queueFull (e.word / 8) = false →
        s.l2Room (s.physOf n) (e.word / 8) = (u, some w) →
        completes (.wrt n) s ((u.setPhys (s.physOf n) { u.physCore (s.physOf n) with
            fills := (u.physCore (s.physOf n)).fills.ins (e.word / 8) (Fin.ofNat 16 w) }).request
          { kind := .rdo, master := BitVec.ofNat 12 (s.physOf n), line := e.word / 8 })) ∧
      (e.path = .wrt → completes (.wrh (.core n)) s s) ∧
      (e.path = .wrh → completes (.wrh (.core n)) s (s.request
        { kind := .wrh e, master := BitVec.ofNat 12 (s.physOf n), line := e.word / 8 }) ∧ completes (.wrt n) s s))) ∧
  (∀ (m : BitVec 12) (line : LineAddr) (mask : BitVec 64) (bytes : List Byte) (s : State), s.fabricOn = true →
    m.toNat / 0x100 ≠ 0 →
    (isDram (64 * line.toNat) = true → isCommons (64 * line.toNat) = false → s.asked m.toNat line.toNat = false →
      completes (.wrh (.dma m line mask bytes)) s ((s.waitIf (s.mirrorFull line.toNat)).request
        { kind := .wrhDma mask bytes, master := m, line := line.toNat })) ∧
    (isCommons (64 * line.toNat) = true → inCommons (8 * line.toNat) = false →
      completes (.wrh (.dma m line mask bytes)) s s) ∧
    (isCommons (64 * line.toNat) = true → inCommons (8 * line.toNat) = true → mask = 0xFF#64 →
      completes (.wrh (.dma m line mask bytes)) s (s.homeWriteWord (8 * line.toNat)
        (mergeBytes Word.raw0 ((List.range 8).map (fun k => bytes.getD k 0)) 0xFF#8) m.toNat))) ∧
  (∀ (p : PCore) (line : LineAddr) (s : State) (l : L2Line), s.mapsOk = true → s.waiting = none → s.mem.sramErr = [] →
    s.fabricOn = true → s.coh.msgs = [] → s.coh.txns = [] → s.coh.late = [] → s.coh.bookErr = [] →
    s.flag Reg.trcCtl 13 = false →
    (List.range 16).all (fun q => !s.flag (Reg.dlCtl q) 0) = true →
    (s.physCore p).l2.find line.toNat = some l → l.st = .m →
    (∃ t, exec (.wbk p line true) s = .next t ∧ ((t.physCore p).l2.find line.toNat).map (·.st) = some .e ∧
      t.coh.msgs = [⟨.ack false none, p, line.toNat, noTxn⟩]) ∧
    (∃ t, exec (.wbk p line false) s = .next t ∧ (t.physCore p).l2.find line.toNat = none ∧
      t.coh.msgs = [⟨.ack false none, p, line.toNat, noTxn⟩])) ∧
  (∀ (n : LCore) (s : State) (e : NtEntry) (rest : List NtEntry), s.fabricOn = true → (s.core n).nt = e :: rest →
    completes (.ntFlushTimeout n) s (s.ntFlush n (fun x => x.line == e.line))) ∧
  (∀ (w : BitVec 49) (s : State), s.fabricOn = true → s.mem.merge.any (fun e => e.word == w.toNat) = true →
    s.coh = Coh.reset → completes (.mergeDrainTimeout w) s (s.drainMerge w.toNat))

/-- R475: a slice's bookkeeping of a line is read for a master: an error that one bit explains is corrected and a NOTICE, any
other stands and is GRAVE, and a request that would read it stays at its sender. -/
def Sys2Proof.bookkeepingReads : Prop :=
  (∀ (s : State) (line m acc : Nat), s.coh.bookErr.find line = none → s.bookMeet line m acc = (s, true)) ∧
  (∀ (s : State) (line m acc : Nat) (err : SramErr), s.mapsOk = true → s.coh.bookErr.find line = some err →
    (hsiaoDecode err = .ue → (s.bookMeet line m acc).2 = false ∧
      (s.bookMeet line m acc).1.fld Reg.fcCnt 48 16 = min (s.fld Reg.fcCnt 48 16 + 1) 65535 ∧
      (s.bookMeet line m acc).1.coh = s.coh) ∧
    (∀ b, hsiaoDecode err = .ce b → s.escalated 0x2B = false → (s.bookMeet line m acc).2 = true ∧
      (s.bookMeet line m acc).1.fld Reg.fcCnt 0 16 = min (s.fld Reg.fcCnt 0 16 + 1) 65535 ∧
      (s.bookMeet line m acc).1.coh.bookErr.find line = none)) ∧
  (∀ (s : State) (r : Req) (err : SramErr), s.mapsOk = true → s.coh.bookErr.find r.line = some err →
    hsiaoDecode err = .ue → (s.request r).coh = s.coh ∧ (s.request r).mem = s.mem)

/-- R259, R263: ARBITER_ADMIT admits the oldest admissible waiting request, whose record it reads; the hold-offs of R289 and
R291 end by their own commands, and log entries that waited for them are written. -/
def Sys2Proof.arbiterAndHolds : Prop :=
  (∀ (sl : Fin 64) (s u : State) (r : Req) (rest : List Req), s.fabricOn = true → s.coh.bookErr = [] →
    u = s.noteCap sl → pickReq u [] (u.retryAt sl) = some (r, rest) →
    completes (.arbiterAdmit sl 0) s (({ u with coh := { u.coh with
      retryQ := u.coh.retryQ.filter (fun q => sliceOf (64 * q.line) != sl.val) ++ rest } } : State).admitReq r)) ∧
  (∀ (sl : Fin 64) (err : SramErr) (s u : State) (r : Req) (rest : List Req), s.mapsOk = true → s.waiting = none →
    s.fabricOn = true → s.coh.bookErr = [] → u = s.noteCap sl → pickReq u [] (u.retryAt sl) = some (r, rest) →
    hsiaoDecode err = .ue →
    ∃ t, exec (.arbiterAdmit sl err) s = .next t ∧
      t.fld Reg.fcCnt 48 16 = min (s.fld Reg.fcCnt 48 16 + 1) 65535 ∧ t.coh.retryQ = s.coh.retryQ ∧
      t.coh.txns = s.coh.txns ∧ t.coh.bookErr.find r.line = some err ∧ t.mem = s.mem) ∧
  (∀ (n : LCore) (s v : State) (r : Resv), s.mapsOk = true → (s.core n).resv = some r →
    v = s.setCore n { s.core n with resv := some { r with hold := false } } →
    (r.home = false → exec (.reservationHoldoffExpire n) s = .next v.sinkLogs) ∧
    (∀ p : PCore, r.home = true → s.logicalOf p = some n.val →
      exec (.homeReservationHoldExpire p) s = .next v.sinkLogs) ∧
    (s.coh.late = [] → v.sinkLogs = v) ∧
    (v.core n).resv = some { r with hold := false } ∧ v.mem = s.mem ∧ v.phys = s.phys ∧ v.regs = s.regs ∧
    ∀ k, k ≠ n.val → v.core k = s.core k)

/-- R259, R263, R475: the arbiter, its bookkeeping, and the ends of the hold-offs. -/
def Obligations.ArbiterAndHolds : Prop := bookkeepingReads ∧ arbiterAndHolds

/-! ### Stored data -/

/-- What DRAM holds of `line` is `ws`, and no word but those where the line is and was stored has changed. -/
def Sys2Proof.dramIs (s t : State) (line : Nat) (ws : List Word) : Prop :=
  (∀ i, i < 8 → (t.mem.dramLine line).getD i Word.raw0 = ws.getD i Word.raw0) ∧
  ∀ w, w / 8 ≠ s.mem.place line → w / 8 ≠ t.mem.place line → t.mem.word w = s.mem.word w

/-- The word's tag is none that R45 has recorded as reserved. -/
def Sys2Proof.knownTag (x : Word) : Bool := !x.poisoned || x.tag == Tag.pois

/-- No parish logs pages, and no log entry waits. -/
def Sys2Proof.noLogs (s : State) : Bool :=
  (List.range 16).all (fun q => !s.flag (Reg.dlCtl q) 0) && decide (s.coh.late = [])

/-- The gleaner may scrub line `l` of channel `c` now (R306); no merge entry holds bytes of it, and no bit of it was wrong
before. -/
def Sys2Proof.gleans (s : State) (c l : Nat) : Bool :=
  s.mapsOk && s.waiting.isNone && s.fabricOn && s.fld Reg.glnCtl 0 8 != 0 && s.installed.contains c &&
    l == s.gleanNext c && decide (64 * l < s.dramEnd) && !s.lineBusy l &&
    !s.gleanOpen (fun x => s.channelOf (64 * x) == c) && s.mem.merge.all (fun e => e.word / 8 != l) &&
    s.mem.burstErr l == []

/-- R294, R306, R307, R309: GLEANER_LINE takes the next line of its channel: a clean burst changes no memory, a
corrected one is written back and counted, an uncorrectable one is taken from the Granary, asked of the partner, or
lost to POIS; while its line is busy, or its own transaction open on the channel, it does nothing. -/
def Obligations.GleanerLines : Prop :=
  (∀ (ch : Fin 12) (err : BurstErr) (s : State) (l c : Nat), gleans s ch l = true → c = s.channelOf (64 * l) →
    (err = [] → ∃ t, exec (.gleanerLine ch err) s = .next t ∧ t.gleanNext ch = (s.lineAfter ch l).1 ∧
      t.mem.dram = s.mem.dram ∧ t.mem.gran = s.mem.gran ∧ t.mem.cmn = s.mem.cmn ∧ t.phys = s.phys ∧
      ((s.mem.dramLine l).all knownTag = true → t.cores = s.cores ∧ t.fld Reg.fcCnt 32 16 = s.fld Reg.fcCnt 32 16)) ∧
    (rsDecode err = .ce err → ∃ t, exec (.gleanerLine ch err) s = .next t ∧ t.gleanNext ch = (s.lineAfter ch l).1 ∧
      t.fld (Reg.memEcc c) 48 16 = min (s.fld (Reg.memEcc c) 48 16 + 1) 65535 ∧ dramIs s t l (s.mem.dramLine l)) ∧
    (∀ g, rsDecode err = .ue ∨ rsDecode err = .addr → s.mem.gran.find l = some g → s.mem.sramErr = [] →
      ∃ t, exec (.gleanerLine ch err) s = .next t ∧ dramIs s t l g.data ∧
        t.mem.gran.find l = some { g with dirty := false }) ∧
    (rsDecode err = .ue → s.mem.gran.find l = none → s.canMend l = true →
      ∃ t, exec (.gleanerLine ch err) s = .next t ∧ t.mem.mends = s.mem.mends ++ [(l, ⟨0x21, gleaner ch, 0xA, err⟩)] ∧
        t.mem.dram = s.mem.dram ∧
        (t.pair.tx ++ t.pair.queue).map (·.body) =
          (s.pair.tx ++ s.pair.queue).map (·.body) ++ [.mendq (BitVec.ofNat 46 l)]) ∧
    (rsDecode err = .ue → s.mem.gran.find l = none → s.canMend l = false →
      ∃ t, exec (.gleanerLine ch err) s = .next t ∧ dramIs s t l poisLine ∧
        t.fld Reg.fcCnt 16 16 = min (s.fld Reg.fcCnt 16 16 + 1) 65535 ∧
        t.fld (Reg.memEcc c) 40 8 = min (s.fld (Reg.memEcc c) 40 8 + 1) 255)) ∧
  (∀ (ch : Fin 12) (err : BurstErr) (s : State),
    s.lineBusy (s.gleanNext ch) = true ∨ s.gleanOpen (fun x => s.channelOf (64 * x) == ch.val) = true →
    completes (.gleanerLine ch err) s s)

/-- R309, R310: MEND_RESPONSE ends an open mend: the partner's copy is written, or, without one, POIS; the gleaner's own
transaction on the line closes. -/
def Sys2Proof.mendsEnd : Prop :=
  (∀ (line : LineAddr) (ok : Bool) (ws : List Word) (s : State) (m : Nat × MendErr),
    s.mem.mends.find? (fun m => m.1 == line.toNat) = some m →
    (ok = true → ws.length = 8 → completes (.mendResponse line ok ws) s (s.mended line.toNat m.2 ws)) ∧
    (ok = false ∨ ws.length ≠ 8 → completes (.mendResponse line ok ws) s (s.mendFailed line.toNat m.2))) ∧
  (∀ (line : LineAddr) (ok : Bool) (ws : List Word) (s : State), s.mem.mends.find? (fun m => m.1 == line.toNat) = none →
    completes (.mendResponse line ok ws) s s) ∧
  ∀ (line : LineAddr) (ok : Bool) (ws : List Word) (s : State) (m : Nat × MendErr), s.mapsOk = true → s.waiting = none →
    s.mem.mends.find? (fun m => m.1 == line.toNat) = some m →
    (∀ t, s.coh.txns.find line.toNat = some t → t.req.kind = .rdh 0) → s.coh.wbks = [] → noLogs s = true →
    s.mem.gran.find line.toNat = none →
    (ok = true → ws.length = 8 → ∃ t, exec (.mendResponse line ok ws) s = .next t ∧ dramIs s t line.toNat ws ∧
      t.mem.mends = s.mem.mends.filter (fun m => m.1 ≠ line.toNat) ∧ t.coh.txns.find line.toNat = none) ∧
    (ok = false → ∃ t, exec (.mendResponse line ok ws) s = .next t ∧ dramIs s t line.toNat poisLine ∧
      t.mem.mends = s.mem.mends.filter (fun m => m.1 ≠ line.toNat) ∧ t.coh.txns.find line.toNat = none)

/-- The gleaner sweeps SRAMs now (R306). -/
def Sys2Proof.sweeping (s : State) : Bool :=
  s.mapsOk && s.waiting.isNone && s.fabricOn && s.fld Reg.glnCtl 0 8 != 0

/-- R297, R298, R302, R306: GLEANER_SRAM_SWEEP of a Commons word: one never written is not checked; a wrong bit is
corrected, and POIS written over a word it cannot correct. -/
def Sys2Proof.commonsSweeps : Prop :=
  ∀ (cn : Fin 4) (w : BitVec 20) (err : SramErr) (s : State) (k : Nat), sweeping s = true →
    k = commonsBase / 8 + cn * 2 ^ 20 + w.toNat → s.mem.merge.any (fun e => e.word == k) = false →
    (s.mem.cmnValid.find k = none → exec (.gleanerSramSweep (.commons cn w) err) s = .next s) ∧
    (s.mem.cmnValid.find k = some () → s.mem.cellErr (s.mem.cmnCell k) = 0 →
      (err = 0 → ∃ t, exec (.gleanerSramSweep (.commons cn w) err) s = .next t ∧ t.mem.cmn = s.mem.cmn ∧
        t.mem.sramErr = s.mem.sramErr ∧ (knownTag (s.mem.cmnWord k) = true → t.regs = s.regs)) ∧
      (∀ b, hsiaoDecode err = .ce b → err = bitErr b →
        ∃ t, exec (.gleanerSramSweep (.commons cn w) err) s = .next t ∧
          t.fld (Reg.cmnEcc cn) 48 16 = min (s.fld (Reg.cmnEcc cn) 48 16 + 1) 65535 ∧
          t.mem.cmnWord k = s.mem.cmnWord k ∧ t.mem.cellErr (t.mem.cmnCell k) = 0 ∧
          ∀ j, j ≠ s.mem.cmnCell k → j ≠ t.mem.cmnCell k →
            SMap.get Word.raw0 t.mem.cmn j = SMap.get Word.raw0 s.mem.cmn j) ∧
      (hsiaoDecode err = .ue → ∃ t, exec (.gleanerSramSweep (.commons cn w) err) s = .next t ∧
        t.fld (Reg.cmnEcc cn) 40 8 = min (s.fld (Reg.cmnEcc cn) 40 8 + 1) 255 ∧
        t.mem.cmnWord k = Word.pois ∧
        ∀ j, j ≠ s.mem.cmnCell k → j ≠ t.mem.cmnCell k →
          SMap.get Word.raw0 t.mem.cmn j = SMap.get Word.raw0 s.mem.cmn j))

/-- R298, R306, R475: GLEANER_SRAM_SWEEP of a Granary word it cannot correct loses a dirty line to POIS and reads a clean
one again from DRAM; of a snoop-filter entry it cannot correct, GRAVE. -/
def Sys2Proof.granarySweeps : Prop :=
  (∀ (line : LineAddr) (w : Fin 8) (err : SramErr) (s : State) (g : GranLine), sweeping s = true →
    s.lineBusy line.toNat = false → s.gleanOpen (fun x => sliceOf (64 * x) == sliceOf (64 * line.toNat)) = false →
    s.mem.merge.any (fun e => e.word == 8 * line.toNat + w) = false → s.mem.gran.find line.toNat = some g →
    s.mem.cellErr (s.mem.granCellOf line.toNat w) = 0 → hsiaoDecode err = .ue →
    (g.dirty = true → ∃ t, exec (.gleanerSramSweep (.granary line w) err) s = .next t ∧
      dramIs s t line.toNat poisLine ∧ t.mem.gran.find line.toNat = some { g with dirty := false, data := poisLine }) ∧
    (g.dirty = false → s.mem.burstErr line.toNat = [] →
      ∃ t, exec (.gleanerSramSweep (.granary line w) err) s = .next t ∧
        t.mem.peekLine line.toNat = s.mem.dramLine line.toNat)) ∧
  ∀ (sl : Fin 64) (line : LineAddr) (later : Bool) (err : SramErr) (s : State), sweeping s = true →
    s.coh.bookErr.find line.toNat = none →
    exec (.gleanerSramSweep (.snoop sl line later) 0) s = .next s ∧
    (sliceOf (64 * line.toNat) = sl →
      exec (.gleanerSramSweep (.snoop sl line true) err) s = .next (s.bookFlip line.toNat err) ∧
      (hsiaoDecode err = .ue → ∃ t, exec (.gleanerSramSweep (.snoop sl line false) err) s = .next t ∧
        t.fld Reg.fcCnt 48 16 = min (s.fld Reg.fcCnt 48 16 + 1) 65535 ∧ t.mem = s.mem ∧
        t.coh = { s.coh with bookErr := if (s.coh.sf.find line.toNat).isSome then s.coh.bookErr.ins line.toNat err
                                        else s.coh.bookErr }))

/-- R297, R298, R306, R309, R310: a mend ends, and the sweeps of the SRAMs correct, lose or read again what they meet. -/
def Obligations.MendsAndSweeps : Prop := mendsEnd ∧ commonsSweeps ∧ granarySweeps

/-- R320, R322: COMMONS_BANK_GRANT lets the best request make its access and holds the others over. -/
def Sys2Proof.bankGrants : Prop :=
  (∀ (cn : Fin 4) (bank : Fin 64) (a : CmnReq) (s : State) (k : Nat), s.mapsOk = true → s.fabricOn = true →
    s.coreFirst cn = false → s.cmnWaiting cn bank = [] → a.word.toNat % 64 = bank → secondBank a = none →
    k = commonsBase / 8 + cn * 2 ^ 20 + a.word.toNat →
    completes (.commonsBankGrant cn bank [a]) s
      (((s.setWaiting cn bank []).cmnFlip k a.err).cmnWordAccess k a (a.mask.extractLsb' 0 8) a.data) ∧
    (a.write = true → a.mask.extractLsb' 0 8 = 0xFF#8 → s.waiting = none →
      s.writeBarred (k / 8) a.master.toNat = false → s.mem.merge.any (fun e => e.word == k) = false →
      noLogs s = true →
      ∃ t, exec (.commonsBankGrant cn bank [a]) s = .next t ∧
        t.mem.cmnWord k = (if a.master.toNat / 0x100 = 0 then a.data else Word.raw a.data.val) ∧ t.mem.dram = s.mem.dram ∧
        t.mem.gran = s.mem.gran ∧
        ∀ j, j ≠ s.mem.cmnCell k → SMap.get Word.raw0 t.mem.cmn j = SMap.get Word.raw0 s.mem.cmn j) ∧
    (a.write = false → s.waiting = none → s.mem.merge.any (fun e => e.word == k) = false →
      s.mem.cellErr (s.mem.cmnCell k) = 0 → a.err = 0 →
      ∃ t, exec (.commonsBankGrant cn bank [a]) s = .next t ∧ t.mem.cmn = s.mem.cmn ∧ t.mem.dram = s.mem.dram ∧
        (knownTag (s.mem.cmnWord k) = true → t.regs = s.regs ∧ t.cores = s.cores) ∧
        (a.mask.getLsbD 0 = true → s.mem.cmnValid.find k = some () → knownTag (s.mem.cmnWord k) = false →
          t.fld Reg.fcCnt 32 16 = min (s.fld Reg.fcCnt 32 16 + 1) 65535))) ∧
  (∀ (cn : Fin 4) (bank : Fin 64) (a b : CmnReq) (s : State), s.mapsOk = true → s.fabricOn = true →
    s.waiting = none → s.coreFirst cn = false → s.cmnWaiting cn bank = [] →
    a.word.toNat % 64 = bank → b.word.toNat % 64 = bank → secondBank a = none → secondBank b = none →
    sameReq a b = false → reqBefore a b = true →
    s.writeBarred ((commonsBase / 8 + cn * 2 ^ 20 + a.word.toNat) / 8) a.master.toNat = false → ∀ l ∈ [[a, b], [b, a]],
    ∃ t, exec (.commonsBankGrant cn bank l) s = .next t ∧
      t.cmnWaiting cn bank = [⟨{ b with age := b.age + 1 }, 1⟩])

/-- R323: an access that needs two banks is made when it wins at both, and neither is taken while it does not. -/
def Sys2Proof.twoBanks : Prop :=
  ∀ (cn : Fin 4) (bank : Fin 64) (h : CmnHeld) (s : State), s.fabricOn = true → s.coreFirst cn = false →
    s.cmnWaiting cn bank = [h] → (secondBank h.req).isSome = true →
    (s.winsOther cn h.req [] = true →
      completes (.commonsBankGrant cn bank []) s (s.cmnGrant cn bank [h] h CmnHeld.over1)) ∧
    (s.winsOther cn h.req [] = false → s.waiting = none →
      ∃ t, exec (.commonsBankGrant cn bank []) s = .next t ∧ t.mem.cmn = s.mem.cmn ∧
        t.cmnWaiting cn bank = [⟨{ h.req with age := h.req.age + 1 }, h.denied + 1⟩])

/-- R322, R323, R327: COMMONS_BREAKER_GRANT grants the request the breaker has come due for, counts it, and the others of
the bank wait from 0 again. -/
def Sys2Proof.breakerGrants : Prop :=
  ∀ (cn : Fin 4) (bank : Fin 64) (h : CmnHeld) (s v : State), s.mapsOk = true → s.fabricOn = true →
    s.breakerDue cn bank = some h → s.winsOther cn h.req [] = true →
    v = s.breakerGrant cn bank (s.cmnWaiting cn bank) h →
    completes (.commonsBreakerGrant cn bank) s v ∧
    (v.waiting = none → secondBank h.req = none → exec (.commonsBreakerGrant cn bank) s = .next v ∧
      v.fld (Reg.cmnStat cn) 48 16 = min (s.fld (Reg.cmnStat cn) 48 16 + 1) 65535 ∧
      v.cmnWaiting cn bank = (dropReq h.req (s.cmnWaiting cn bank)).map
        (fun x => ⟨{ x.req with age := x.req.age + 1 }, 0⟩))

/-- R320, R322, R323: the grants of the Commons banks. -/
def Obligations.CommonsGrants : Prop := bankGrants ∧ twoBanks ∧ breakerGrants

/-! ### Queues, orders and links -/

/-- What waited for completion room goes on once HEAD has moved. -/
def Sys2Proof.roomAgain (s : State) (q : QueueId) : State :=
  match q with
  | .chan c => s.flushChan c
  | .comp i => State.compAbort 65536 s i
  | .ciph i => State.ciphAbort 65536 s i

/-- R337, R338, R340: doorbells, EN, ring bases, ring sizes and the completion HEAD, written by the queue's owner. -/
def Obligations.QueueRegisters : Prop :=
  ∀ (acc : Accessor) (q : QueueId) (s : State), s.ownerReach acc q = true → s.mapsOk = true → s.waiting = none →
    (∀ t : BitVec 32,
      (s.qEnabled q = true → (t.toNat + 2 ^ 32 - s.sqHead q) % 2 ^ 32 ≤ 2 ^ s.fld (queueCfg q) 8 5 →
        (s.sqTail q + 2 ^ 32 - s.sqHead q) % 2 ^ 32 ≤ (t.toNat + 2 ^ 32 - s.sqHead q) % 2 ^ 32 →
        exec (.doorbell acc q t) s = .next (s.setFld (queueSqp q) 0 32 t.toNat)) ∧
      (s.qEnabled q = false ∨ 2 ^ s.fld (queueCfg q) 8 5 < (t.toNat + 2 ^ 32 - s.sqHead q) % 2 ^ 32 ∨
        (t.toNat + 2 ^ 32 - s.sqHead q) % 2 ^ 32 < (s.sqTail q + 2 ^ 32 - s.sqHead q) % 2 ^ 32 →
        exec (.doorbell acc q t) s = .next ((s.countSat (queueStat q) 32 16).qFlag q 1))) ∧
    (∀ v : BitVec 64, v.getLsbD 0 = true → s.qEnabled q = false →
      (s.qBusy q = false →
        s.ringOk (s.qParish q) (ringBase (s.reg (queueSqb q))) (sizeField (s.fld (queueCfg q) 8 5) (bits v 8 5)) 64 = true →
        s.ringOk (s.qParish q) (ringBase (s.reg (queueCqb q))) (sizeField (s.fld (queueCfg q) 16 5) (bits v 16 5)) 32 = true →
        ∃ t, exec (.queueEnable acc q v) s = .next t ∧ t.qEnabled q = true ∧ t.sqHead q = 0 ∧ t.sqTail q = 0 ∧
          t.cqHead q = 0 ∧ t.cqTail q = 0 ∧ (∀ i, q = .comp i → (t.compInst i).flush = 0) ∧
          ∀ i, q = .ciph i → (t.ciphInst i).flush = 0 ∧ (t.ciphInst i).wait = .reset) ∧
      (s.qBusy q = true ∨
        s.ringOk (s.qParish q) (ringBase (s.reg (queueSqb q))) (sizeField (s.fld (queueCfg q) 8 5) (bits v 8 5)) 64 = false ∨
        s.ringOk (s.qParish q) (ringBase (s.reg (queueCqb q))) (sizeField (s.fld (queueCfg q) 16 5) (bits v 16 5)) 32 = false →
        exec (.queueEnable acc q v) s = .next (s.qFlag q 2))) ∧
    (∀ v : BitVec 64, s.qEnabled q = true →
      (sizeField (s.fld (queueCfg q) 8 5) (bits v 8 5) = s.fld (queueCfg q) 8 5 →
        sizeField (s.fld (queueCfg q) 16 5) (bits v 16 5) = s.fld (queueCfg q) 16 5 →
        ∃ t, exec (.queueEnable acc q v) s = .next t ∧ t.qEnabled q = v.getLsbD 0 ∧ t.mem = s.mem ∧ t.io = s.io ∧
          (∀ b, b ≠ 0 → (t.reg (queueCfg q)).getLsbD b = (s.reg (queueCfg q)).getLsbD b) ∧
          ∀ off, off ≠ queueCfg q → t.reg off = s.reg off) ∧
      (sizeField (s.fld (queueCfg q) 8 5) (bits v 8 5) ≠ s.fld (queueCfg q) 8 5 ∨
        sizeField (s.fld (queueCfg q) 16 5) (bits v 16 5) ≠ s.fld (queueCfg q) 16 5 →
        exec (.queueEnable acc q v) s = .next (s.qFlag q 2) ∧
        exec (.ringConfigWrite acc q .sizes v) s = .next (s.qFlag q 2)) ∧
      exec (.ringConfigWrite acc q .sqb v) s = .next (s.qFlag q 2) ∧
      exec (.ringConfigWrite acc q .cqb v) s = .next (s.qFlag q 2)) ∧
    (∀ v : BitVec 64, s.qEnabled q = false →
      exec (.ringConfigWrite acc q .sqb v) s = .next (s.setReg (queueSqb q) (v &&& 0xFFFFFFFFFFC0#64)) ∧
      exec (.ringConfigWrite acc q .cqb v) s = .next (s.setReg (queueCqb q) (v &&& 0xFFFFFFFFFFC0#64)) ∧
      ∃ t, exec (.ringConfigWrite acc q .sizes v) s = .next t ∧ t.qEnabled q = false ∧
        t.fld (queueCfg q) 8 5 = sizeField (s.fld (queueCfg q) 8 5) (bits v 8 5) ∧
        t.fld (queueCfg q) 16 5 = sizeField (s.fld (queueCfg q) 16 5) (bits v 16 5)) ∧
    (∀ h : BitVec 32,
      ((h.toNat + 2 ^ 32 - s.cqHead q) % 2 ^ 32 ≤ (s.cqTail q + 2 ^ 32 - s.cqHead q) % 2 ^ 32 →
        completes (.cqHeadWrite acc q h) s (roomAgain (s.setFld (queueCqp q) 0 32 h.toNat) q)) ∧
      ((s.cqTail q + 2 ^ 32 - s.cqHead q) % 2 ^ 32 < (h.toNat + 2 ^ 32 - s.cqHead q) % 2 ^ 32 →
        completes (.cqHeadWrite acc q h) s (roomAgain (s.qFlag q 2) q)))

/-- R432, R433: DRR_DISPATCH visits the instance that is next: its deficit grows by weight times quantum, and where its
ready head costs no more than that and a server is free, the head begins there and the deficit pays for it. -/
def Obligations.Dispatching : Prop :=
  ∀ (turn : DrrTurn) (pool : Pool) (s d : State) (i u : Nat), turn.pool = pool → s.portsRun = true → (s.server pool).isSome = true →
    nextMember (s.members pool) (s.drrAt pool / 2) = some i → s.drrAt pool % 2 = 0 →
    0 < s.weight pool i → s.headReady pool i = true →
    d = s.setDeficit pool i (s.deficit pool i + s.weight pool i * 1024) →
    d.headReady pool i = true → d.headCost pool i ≤ d.deficit pool i → d.server pool = some u →
    ∃ t, completes (.drrDispatch turn) s t ∧
      (t = ((d.setDeficit pool i (d.deficit pool i - d.headCost pool i)).beginHead pool i u turn).setDrr pool (2 * i + 1) ∨
       t = ((d.setDeficit pool i (d.deficit pool i - d.headCost pool i)).beginHead pool i u turn).endVisit pool i)

/-- The entry `e` of the ledger after its release in epoch `ep` at time `ts` (R346, R370). -/
def Sys2Proof.releasedEntry (e : LedgerEntry) (ep : Nat) (ts : BitVec 64) : LedgerEntry :=
  { e with st := .released, epoch := BitVec.ofNat 16 ep, reln := 1, trel := BitVec.ofNat 32 ts.toNat, poison := false,
           corrupt := false, overrun := false }

/-- No error stands in the words of the ledger that a command reads (R365). -/
def Sys2Proof.readable (s : State) (reads : Nat → Bool) : Prop := s.io.ledgerErr.filter (fun e => reads e.1) = []

/-- R346, R349, R367-R369: ORDER_ACCEPT enters an order into the ledger with the channel's next SEQ, in a pair only once
its frame is acknowledged; ORDER_RELEASE releases the due order and rings the adapter's doorbell; LEDGER_CLOSE closes an
order whose entry is performed, unless the units have stopped. A word of the ledger that cannot be read and that no
partner can give is a GRAVE fault, and its error stands; a correctable one, or one the partner can give, is mended
(R365, R380, R475). -/
def Obligations.OrderLife : Prop :=
  (∀ (c : Fin 256) (s : State) (o : OrderWait) (n : Nat), s.mapsOk = true → s.waiting = none → s.portsRun = true →
    s.flag (Reg.chCfg c) 32 = true → (s.chan c).waiting = [o] → (s.chan c).prog = none → o.status = 0 →
    s.acceptable c = true → n = s.fld (Reg.chSeq c) 0 48 → n + 1 < 2 ^ 48 → readable s (s.acceptKeys c) →
    ((s.partnered = false ∨ (∃ f, o.sent = some f ∧ s.unacked f = false)) →
      ∃ t, exec (.orderAccept c) s = .next t ∧ t.ledgerAt c (n % 1024) = (s.newEntry c o).2 ∧
        t.fld (Reg.chSeq c) 0 48 = n + 1 ∧ (t.chan c).waiting = [] ∧ (t.chan c).reserved = (s.chan c).reserved ∧
        t.mem = s.mem) ∧
    (s.partnered = true → o.sent = none → ∃ t r, exec (.orderAccept c) s = .next t ∧
      (t.pair.tx ++ t.pair.queue).map (·.body) = (s.pair.tx ++ s.pair.queue).map (·.body) ++ [.ledger [r]] ∧
      r.chan = c ∧ r.slot.val = n % 1024 ∧ r.entry = (s.newEntry c o).2.words ∧
      t.ledgerAt c (n % 1024) = s.ledgerAt c (n % 1024) ∧
      (t.chan c).waiting = [{ o with sent := some s.pair.nextId }] ∧ t.mem = s.mem)) ∧
  (∀ (c : Fin 256) (s : State) (slot : Nat) (sl : Option (Fin 1024)), s.mapsOk = true → s.waiting = none →
    s.flag (Reg.chCfg c) 32 = true → readable s (s.releaseKeys c) →
    (s.due c = some slot → slot < 1024 → ∃ t, exec (.orderRelease ⟨c, 0, sl⟩) s = .next t ∧
      t.ledgerAt c slot = releasedEntry (s.ledgerAt c slot) s.epoch s.ts ∧
      (t.chan c).lastRel = (s.ledgerAt c slot).seq.toNat ∧ t.mem = s.mem ∧
      (s.reg (Reg.chAdb c) ≠ 0 → (t.link (s.chanLink c)).down = (s.link (s.chanLink c)).down ++
        [.write (s.reg (Reg.chAdb c)) (BitVec.ofNat 64 (((s.ledgerAt c slot).seq.toNat + 1) % 2 ^ 32))])) ∧
    (s.due c = none → exec (.orderRelease ⟨c, 0, sl⟩) s = .next s)) ∧
  (∀ (c : Fin 256) (slot : Fin 1024) (s : State), s.mapsOk = true → s.waiting = none → readable s (· == entryKey c slot) →
    (s.stop = .running → (s.ledgerAt c slot).st = .done → (s.ledgerAt c slot).written = true →
      ((s.ledgerAt c slot).frame = none ∨ (∃ f, (s.ledgerAt c slot).frame = some f ∧ s.unacked f = false)) →
      ∃ t, exec (.ledgerClose c ⟨slot, 0⟩) s = .next t ∧ t.ledgerAt c slot = { s.ledgerAt c slot with st := .closed } ∧
        t.mem = s.mem) ∧
    (s.stop ≠ .running ∨ (s.ledgerAt c slot).st ≠ .done → exec (.ledgerClose c ⟨slot, 0⟩) s = .next s)) ∧
  ∀ (c : Fin 256) (slot : Fin 1024) (err : SramErr) (s : State), s.mapsOk = true → s.waiting = none →
    s.portsRun = true → s.flag (Reg.chCfg c) 32 = true → s.io.ledgerErr = [] →
    (s.ledgerCopy = false → hsiaoDecode err = .ue →
      ∀ e ∈ [(Instr.orderRelease ⟨c, err, none⟩, none), (Instr.ledgerClose c ⟨slot, err⟩, some slot.val),
          (Instr.orderTimeout c ⟨slot, err⟩, some slot.val)],
        ∃ t, exec e.1 s = .next t ∧ t.io = (s.strike c e.2 err).io ∧ t.io.ledgerErr ≠ [] ∧ t.mem = s.mem ∧
          t.fld Reg.fcCnt 48 16 = min (s.fld Reg.fcCnt 48 16 + 1) 65535) ∧
    ((hsiaoDecode err = .ue ∧ s.ledgerCopy = true) ∨ (∃ b, hsiaoDecode err = .ce b) →
      ∃ t, exec (.ledgerClose c ⟨slot, err⟩) s = .next t ∧ t.io.ledgerErr = [] ∧ t.mem = s.mem ∧
        t.fld Reg.fcCnt 0 16 = min (s.fld Reg.fcCnt 0 16 + 1) 65535)

/-- R332, R348-R350, R370: what an adapter reads over a link that is up: issue entries, the issue tail, OUT windows, and
UR for everything else; IN windows take whole writes. -/
def Obligations.Upstream : Prop :=
  ∀ (port link : Fin 4) (pl : Nat) (s : State), pl = plOf port link → s.linkUpBit pl = true → s.mapsOk = true → s.waiting = none →
    s.io.ledgerErr = [] →
    exec (.upstreamUr port link) s = .next (s.answer pl .ur) ∧
    (∀ (c : Fin 256) (slot : Fin 1024) (e : LedgerEntry), e = s.ledgerAt c slot →
      (s.serves pl c = true → e.st = .released → exec (.issueEntryRead port link c ⟨slot, 0⟩) s = .next (s.answer pl (.data
        (bytesOf (BitVec.ofNat 64 (e.seq.toNat * 2 ^ 16 + e.epoch.toNat)) ++
          bytesOf (BitVec.ofNat 64 (e.opc.toNat * 2 ^ 56 + e.count.toNat)) ++
          bytesOf (BitVec.ofNat 64 (if e.count = 0 then 0 else 0x400000000000 + (1024 * c + slot) * 0x1000000)) ++
          bytesOf e.param) false))) ∧
      (s.serves pl c = true → e.st ≠ .released →
        exec (.issueEntryRead port link c ⟨slot, 0⟩) s = .next (s.answer pl (.data (List.replicate 32 0) false))) ∧
      (s.serves pl c = true → exec (.issueTailRead port link c) s = .next (s.answer pl (.data
        (bytesOf (BitVec.ofNat 64 (((s.chan c).lastRel + 1) % 2 ^ 32))) false))) ∧
      (s.serves pl c = false → exec (.issueEntryRead port link c ⟨slot, 0⟩) s = .next (s.answer pl .ur) ∧
        exec (.issueTailRead port link c) s = .next (s.answer pl .ur))) ∧
    (∀ (addr : BitVec 64) (len c slot off : Nat) (r : State × List Byte × Bool) (e : LedgerEntry),
      s.windowHit pl addr.toNat len 1 = some (c, slot, off) → len ≤ 4096 → e = s.ledgerAt c slot →
      r = s.dmaRead (s.qParish (chanQ c)) (e.paddr.toNat + off) len
        { master := masterId 1 pl, acc := 8, parish := some (s.qParish (chanQ c)),
          stream := some (c, e.paddr.toNat, e.paddr.toNat + e.count.toNat) } → r.1.waiting = none →
      (r.2.2 = false → exec (.windowRead port link addr len) s = .next (r.1.answer pl (.data r.2.1 false))) ∧
      (r.2.2 = true → ∃ t, exec (.windowRead port link addr len) s = .next t ∧ (t.ledgerAt c slot).poison = true ∧
        (t.link pl).rsp = some (.data r.2.1 true))) ∧
    (∀ (addr : BitVec 64) (len : Nat), s.windowHit pl addr.toNat len 1 = none →
      ∃ t, exec (.windowRead port link addr len) s = .next t ∧ (t.link pl).rsp = some .ur ∧ t.mem = s.mem) ∧
    (∀ (addr : BitVec 64) (data : List Byte) (ep : Bool) (c slot off : Nat) (u : State) (r : State × Bool),
      s.windowHit pl addr.toNat data.length 2 = some (c, slot, off) → data.length ≤ 512 → u = s.received pl data.length →
      r = u.dmaPut (s.qParish (chanQ c)) ((s.ledgerAt c slot).paddr.toNat + off) data (masterId 1 pl) →
      (ep = false → r.2 = false → completes (.windowWrite port link addr data ep) s (r.1.answer pl .posted)) ∧
      (ep = true → ∃ t, exec (.windowWrite port link addr data ep) s = .next t ∧ (t.ledgerAt c slot).corrupt = true ∧
        t.mem = s.mem)) ∧
    (∀ (addr : BitVec 64) (data : List Byte) (ep : Bool),
      s.windowHit pl addr.toNat data.length 2 = none ∨ 512 < data.length →
      ∃ t, exec (.windowWrite port link addr data ep) s = .next t ∧ t.mem = s.mem ∧
        ∀ (c : Fin 256) (slot : Fin 1024), s.portsRun = true → 0 < data.length → data.length ≤ 4096 → s.serves pl c = true →
          (s.ledgerAt c slot).isOpen = true → addr.toNat < windowAddr c slot + (s.ledgerAt c slot).count.toNat →
          windowAddr c slot < addr.toNat + data.length → (t.ledgerAt c slot).overrun = true)

/-- R353: the status with which an accepted record ends its order. -/
def Sys2Proof.endsWith (e : LedgerEntry) (st xfer : Nat) : Nat :=
  if e.poison then 0x04 else if e.corrupt then 0x05
  else if e.overrun || decide (e.count.toNat < xfer) || !([0x00, 0x09, 0x0B, 0x0D].contains st) then 0x0B else st

/-- R351-R353, R371, R373: COMPLETION_RECORD ends the released order it names, and any other record is discarded and
counted; ORDER_TIMEOUT and SECONDARY_BUS_RESET end orders without one. -/
def Obligations.OrderEndings : Prop :=
  (∀ (port link : Fin 4) (c : Fin 256) (slot : Fin 1024) (addr q0 q1 : BitVec 64) (ep : Bool) (s : State) (pl : Nat)
      (e : LedgerEntry), s.mapsOk = true → s.waiting = none → pl = plOf port link → s.linkUpBit pl = true →
    s.serves pl c = true → addr.toNat = 0x3F0000000000 + 0x10000 * c + 0x8000 + 16 * slot → e = s.ledgerAt c slot →
    readable s (· == entryKey c slot) →
    (∀ t, ep = false → e.st = .released → bits q0 16 48 = e.seq.toNat → bits q0 0 16 = e.epoch.toNat →
      t = ((s.received pl 16).answer pl .posted).endOrder c slot (endsWith e (bits q1 24 8) (bits q1 0 24))
        (BitVec.ofNat 32 (bits q1 32 32)) (min (bits q1 0 24) e.count.toNat) → t.waiting = none →
      exec (.completionRecord port link addr (bytesOf q0 ++ bytesOf q1) ⟨ep, 0⟩) s = .next t ∧
        (t.ledgerAt c slot).st = .done ∧
        (t.ledgerAt c slot).status.toNat = endsWith e (bits q1 24 8) (bits q1 0 24) ∧
        (t.ledgerAt c slot).adet.toNat = bits q1 32 32 ∧
        (t.ledgerAt c slot).xfer.toNat = min (bits q1 0 24) e.count.toNat) ∧
    (ep = true ∨ e.st ≠ .released ∨ bits q0 16 48 ≠ e.seq.toNat ∨ bits q0 0 16 ≠ e.epoch.toNat →
      ∃ t, exec (.completionRecord port link addr (bytesOf q0 ++ bytesOf q1) ⟨ep, 0⟩) s = .next t ∧ t.ledgerAt c slot = e ∧
        t.flag (Reg.chStat c) 3 = true ∧
        t.fld (Reg.chStat c) 48 16 = min (s.fld (Reg.chStat c) 48 16 + 1) 65535 ∧ t.mem = s.mem)) ∧
  (∀ (c : Fin 256) (slot : Fin 1024) (s t : State), s.mapsOk = true → s.portsRun = true → readable s (· == entryKey c slot) →
    ((s.ledgerAt c slot).st = .released → t = (s.endOrder c slot 0x0C 0 0).ledgerFlag c 0 → t.waiting = none →
      exec (.orderTimeout c ⟨slot, 0⟩) s = .next t ∧
      (t.ledgerAt c slot).st = .done ∧ (t.ledgerAt c slot).status = 0x0C ∧ t.flag Reg.ldgStat 0 = true) ∧
    ((s.ledgerAt c slot).st ≠ .released → completes (.orderTimeout c ⟨slot, 0⟩) s s)) ∧
  (∀ (acc : Accessor) (port link : Fin 4) (c slot : Nat) (e : LedgerEntry) (s t : State), s.mapsOk = true →
    acc.devctl = true → s.linkExists (plOf port link) = true → s.stop = .running → s.io.ledgerErr = [] →
    t = s.sessionReset (plOf port link) → t.waiting = none →
      exec (.secondaryBusReset acc port link) s = .next t ∧
      (s.linkChans (plOf port link) = [c] →
        s.ledgerOf c (fun e => e.st == .accepted || e.st == .released) = [(slot, e)] → e.halt = false →
        (t.ledgerAt c slot).st = .done ∧ (t.ledgerAt c slot).status = 0x0B ∧ t.fld (Reg.chSeq c) 0 48 = 1 ∧
        (t.chan c).lastRel = 0 ∧ (t.chan c).spent = false ∧ t.flag Reg.ldgStat 2 = true))

/-- R332, R333, R364, R370, R576: links come up and go down; a TLP discarded for its ECRC and an AER message are logged;
PERST_N is released; a DEV load ends with its completion, or with all ones and an AER entry. -/
def Obligations.Links : Prop :=
  (∀ (port link : Fin 4) (pl : Nat) (s : State), pl = plOf port link → s.mapsOk = true → s.waiting = none →
    (∀ speed width : BitVec 2, s.linkExists pl = true → (s.link pl).perst = .high → s.linkUpBit pl = false → speed ≠ 3 →
      s.io.ledgerErr = [] →
      (s.linkChans pl = [] ∨ s.portsRun = false → ∃ t, exec (.linkUp port link speed width) s = .next t ∧
        t.linkUpBit pl = true ∧ t.fld (Reg.cpLstat port) (16 * link + 1) 2 = speed.toNat ∧
        t.fld (Reg.cpLstat port) (16 * link + 3) 2 = width.toNat ∧ t.io = s.io) ∧
      (∀ c slot e, s.linkChans pl = [c] → s.portsRun = true →
        s.ledgerOf c (fun e => e.st == .released) = [(slot, e)] → s.ledgerOf c (fun e => e.st == .accepted) = [] →
        e.reln.toNat < s.fld Reg.ldgCfg 16 8 → ∃ t, exec (.linkUp port link speed width) s = .next t ∧
          t.linkUpBit pl = true ∧ (t.ledgerAt c slot).st = .released ∧
          (t.ledgerAt c slot).reln.toNat = e.reln.toNat + 1 ∧
          t.fld Reg.ldgStat 16 16 = min (s.fld Reg.ldgStat 16 16 + 1) 65535)) ∧
    (∃ t, exec (.linkDown port link) s = .next t ∧ t.linkUpBit pl = false ∧ t.io = s.io ∧ t.mem = s.mem) ∧
    ((s.link pl).perst = .low → ∃ t, exec (.perstRelease port link) s = .next t ∧
      t.link pl = { s.link pl with perst := .high } ∧ t.regs = s.regs) ∧
    (s.linkExists pl = true →
      (∃ t, exec (.tlpDiscard port link) s = .next t ∧
        t.fld (Reg.cpLstat port) (16 * link + 8) 8 = min (s.fld (Reg.cpLstat port) (16 * link + 8) 8 + 1) 255 ∧
        t.fld Reg.fcCnt 32 16 = min (s.fld Reg.fcCnt 32 16 + 1) 65535 ∧ t.mem = s.mem) ∧
      (∀ sev : AerSev, ∃ t, exec (.aerMessage port link sev) s = .next t ∧ t.pendBit (192 + port) = true ∧
        t.fld Reg.fcCnt (if sev = .cor then 0 else 32) 16 =
          min (s.fld Reg.fcCnt (if sev = .cor then 0 else 32) 16 + 1) 65535))) ∧
  (∀ (n : LCore) (d : DevLoad) (v : BitVec 64) (s u : State), (s.core n).devLoad = some d → d.answer = none →
    d.failed = false → d.dest = .a → (s.core n).run = .running →
    (u = (s.received (4 * d.port + d.link) 8).setCore n
        { (s.received (4 * d.port + d.link) 8).core n with devLoad := none, devHeld := none } →
      (d.ltrap = false → completes (.devLoadCompletion n (.data v)) s ((withA u n (Word.raw v)).retire n)) ∧
      (d.ltrap = true → (s.core n).fpx = false →
        completes (.devLoadCompletion n (.data v)) s (u.takeExc n true { vec := vTagf, acc := 6 }))) ∧
    (∀ r ∈ [(Instr.devLoadTimeout n, aerTimeout), (Instr.devLoadCompletion n .unsupported, aerUnsupported),
        (Instr.devLoadCompletion n .abort, aerAbort)],
      u = (s.aer (4 * d.port + d.link) 0x31 6 r.2).setCore n
        { (s.aer (4 * d.port + d.link) 0x31 6 r.2).core n with devLoad := none, devHeld := none } → d.ltrap = false →
      (u.core n).run = .running → completes r.1 s ((withA u n (Word.raw (BitVec.allOnes 64))).retire n))) ∧
  (∀ (n : LCore) (d : DevLoad) (v : BitVec 64) (s : State), (s.core n).devLoad = some d → d.answer = none →
    (s.core n).run = .paused →
    completes (.devLoadCompletion n (.data v)) s ((s.received (4 * d.port + d.link) 8).setCore n
      { (s.received (4 * d.port + d.link) 8).core n with devLoad := some { d with answer := some (v, false) } }))

/-! ### Completion entries and engines -/

/-- R340: an entry goes to home as one write of four words at TAIL, with PHASE in the last, and TAIL moves on by one;
no other word at home changes (of a clean Granary line only DRAM's copy is spoken of, since it may be dropped). -/
def Obligations.CompletionEntries : Prop :=
  ∀ (q : QueueId) (m : Nat) (w0 w1 w2 w3 : BitVec 64) (s t : State) (k pa : Nat), s.mapsOk = true →
    s.coh = Coh.reset → s.mem.merge = [] → s.mem.dramErr = [] → s.mem.sramErr = [] → s.mem.remapD = [] → (List.range 16).all (fun p => !s.flag (Reg.dlCtl p) 0) = true →
    k = s.fld (queueCfg q) 16 5 → isDram pa = true →
    s.translate (s.qParish q) (ringBase (s.reg (queueCqb q)) + 32 * (s.cqTail q % 2 ^ k)) = (.wb, pa) →
    t = s.qEntry q m w0 w1 w2 w3 →
    t.mem.peekWord (pa / 8) = Word.raw w0 ∧ t.mem.peekWord (pa / 8 + 1) = Word.raw w1 ∧
    t.mem.peekWord (pa / 8 + 2) = Word.raw w2 ∧
    t.mem.peekWord (pa / 8 + 3) = Word.raw (putBit w3 63 (!(s.cqTail q).testBit k)) ∧
    t.cqTail q = (s.cqTail q + 1) % 2 ^ 32 ∧ t.cqHead q = s.cqHead q ∧
    ∀ w, w / 4 ≠ pa / 32 → (w / 8 = pa / 64 ∨ s.mem.gran.find (w / 8) = none ∨
        ∃ g, s.mem.gran.find (w / 8) = some g ∧ g.dirty = true) → t.mem.peekWord w = s.mem.peekWord w

/-- Nothing is in progress that an access would have to wait for: no transaction, no held error and no reservation. -/
def Sys2Proof.quiet (s : State) : Bool :=
  s.waiting.isNone && s.coh == Coh.reset && s.mem.dramErr == [] && s.mem.sramErr == [] && s.mem.remapD == [] &&
    s.cores.all (fun e => e.2.resv.isNone)

/-- The module is quiet and has no partner. -/
def Sys2Proof.calm (s : State) : Bool := quiet s && !s.partnered

/-- A queue's event bit where the entry's IRQ asks for it. -/
def Sys2Proof.irqFlag (s : State) (q : QueueId) (irq : Bool) : State := if irq then s.qFlag q 0 else s

/-- R388, R399, R461: COMPRESSION_JOB_END writes the entry of the instance's oldest job, CI_FLUSH marks what is queued for
ABORTED entries, and no engine writes an entry while the units have stopped or the 12 µs after a loss run; R413:
DRBG_RESEED. -/
def Obligations.CompressionAndDrbg : Prop :=
  (∀ (i : Fin 64) (s v : State) (j : CompJob) (rest : List CompJob), s.stop = .running →
    s.pair.lossHold = false → (s.compInst i).comp = j :: rest →
    v = irqFlag (s.qEntry (.comp i) (masterId 3 j.unit) j.user (BitVec.ofNat 64 (j.out.toNat * 2 ^ 32 + j.indone.toNat))
      (BitVec.ofNat 64 (j.stateid.toNat * 2 ^ 32 + j.nsheaf.toNat)) (BitVec.ofNat 64 (i * 2 ^ 40 + j.status.toNat)))
      (.comp i) j.irq →
    completes (.compressionJobEnd i) s
      (v.setCompInst i { v.compInst i with comp := rest, reserved := (s.compInst i).reserved - 1 })) ∧
  (∀ (i : Fin 64) (s : State), s.stop ≠ .running ∨ s.pair.lossHold = true →
    completes (.compressionJobEnd i) s s ∧ completes (.cipherJobEnd i) s s) ∧
  (∀ (acc : Accessor) (i : Fin 64) (s : State), s.ownerReach acc (.comp i) = true → s.mapsOk = true →
    (s.waiting = none → s.qRoom (.comp i) = false → ∃ t, exec (.ciFlush acc i) s = .next t ∧
      (t.compInst i).flush = (s.sqTail (.comp i) + 2 ^ 32 - s.sqHead (.comp i)) % 2 ^ 32 ∧ t.mem = s.mem ∧
      ∀ off, t.reg off = s.reg off) ∧
    (calm s = true → s.stop = .running → s.pair.lossHold = false → s.qRoom (.comp i) = true → (s.sqTail (.comp i) + 2 ^ 32 - s.sqHead (.comp i)) % 2 ^ 32 = 1 →
      ∃ t, exec (.ciFlush acc i) s = .next t ∧ (t.compInst i).flush = 0 ∧ t.sqHead (.comp i) = s.sqTail (.comp i) ∧
        t.cqTail (.comp i) = (s.cqTail (.comp i) + 1) % 2 ^ 32)) ∧
  (∀ (seed : BitVec 384) (s : State), s.mapsOk = true → s.stop = .running →
    (∃ t, exec (.drbgReseed seed true) s = .next t ∧
      t.io.drbg = some (drbgSeed s.io.drbg (beBytes 48 seed.toNat)) ∧ t.flag Reg.cphRng 0 = true ∧ t.mem = s.mem) ∧
    (∃ t, exec (.drbgReseed seed false) s = .next t ∧ t.io.drbg = none ∧ t.flag Reg.cphRng 1 = true ∧
      t.fld Reg.fcCnt 32 16 = min (s.fld Reg.fcCnt 32 16 + 1) 65535))

/-- The jobs of a cipher instance that may end, each with its place: those that hold their staging bytes (R418). -/
def Sys2Proof.endable (s : State) (i : Nat) : List (CiphJob × Nat) :=
  (s.ciphInst i).ciph.zipIdx.filter (fun e => e.1.hold.isNone)

/-- R405, R415, R418-R420, R423: CIPHER_JOB_END ends one of the jobs that may end, whichever the engine has finished: it
overwrites what STREAM must not leave, writes the entry, and starts what waited for its staging bytes;
CIPHER_WAIT_SATISFIED reads the awaited entry; CX_FLUSH. -/
def Obligations.CipherJobs : Prop :=
  (∀ (i : Fin 64) (s : State), s.stop = .running → s.pair.lossHold = false →
    (endable s i = [] → completes (.cipherJobEnd i) s s) ∧
    (endable s i ≠ [] → ∃ e ∈ endable s i, ∃ w, w = (if (endable s i).length ≤ 1 then s else s.fresh) ∧ ∀ u v : State,
      u = (w.dmaPut (w.qParish (.ciph i)) e.1.zero.1 (List.replicate e.1.zero.2 0) (masterId 2 e.1.cluster)).1.qEntry
        (.ciph i) (masterId 2 e.1.cluster) e.1.user e.1.word1 e.1.word2
        (BitVec.ofNat 64 (i * 2 ^ 40 + e.1.slot.toNat * 2 ^ 28 + e.1.status.toNat)) →
      v = irqFlag (if e.1.status = 2 then u.qFlag (.ciph i) 3 else u) (.ciph i) e.1.irq →
      completes (.cipherJobEnd i) s
        ((v.setCiphInst i { v.ciphInst i with ciph := (v.ciphInst i).ciph.eraseIdx e.2,
                                              reserved := (v.ciphInst i).reserved - 1 }).runHeld e.1.cluster))) ∧
  (∀ (i w : Fin 64) (s u v : State) (ws es : List Word) (wcnt : Nat), s.stop = .running → s.mapsOk = true →
    s.qEnabled (.ciph i) = true → s.sqHead (.ciph i) ≠ s.sqTail (.ciph i) → (s.ciphInst i).wait.ready = false →
    s.headDesc (.ciph i) (masterId 2 0) = (u, ws) → u.waiting = none → waits ws = true → headField ws 44 6 = w.val → wcnt = headField ws 0 32 →
    ((u.qAssigned (.comp w) = false ∨ u.qParish (.comp w) ≠ u.qParish (.ciph i)) →
      ∃ t, exec (.cipherWaitSatisfied i) s = .next t ∧ (t.ciphInst i).wait = ⟨true, 0x0A, none⟩ ∧ t.mem = u.mem) ∧
    (u.qAssigned (.comp w) = true → u.qParish (.comp w) = u.qParish (.ciph i) →
      (2 ^ 31 ≤ (u.cqTail (.comp w) + 2 ^ 32 - wcnt - 1) % 2 ^ 32 → exec (.cipherWaitSatisfied i) s = .next u) ∧
      ((u.cqTail (.comp w) + 2 ^ 32 - wcnt - 1) % 2 ^ 32 < 2 ^ 31 →
        u.fetchWords (u.qParish (.comp w))
          (ringBase (u.reg (queueCqb (.comp w))) + 32 * (wcnt % 2 ^ u.fld (queueCfg (.comp w)) 16 5))
          { master := masterId 2 0, acc := 0xF, parish := some (u.qParish (.comp w)) } 4 = (v, es) → v.waiting = none →
        es.any Word.poisoned = false →
        ∃ t, exec (.cipherWaitSatisfied i) s = .next t ∧ (t.ciphInst i).wait =
          ⟨true, if bits (dmaPayload (es.getD 3 Word.raw0)).1 0 8 = 0 ∧ bits (dmaPayload (es.getD 3 Word.raw0)).1 40 6 = w.val then 0 else 0x0A,
            if headField ws 52 1 = 1 then some (BitVec.ofNat 32 (bits (dmaPayload (es.getD 1 Word.raw0)).1 32 32)) else none⟩))) ∧
  (∀ (acc : Accessor) (i : Fin 64) (s : State), s.ownerReach acc (.ciph i) = true → s.mapsOk = true →
    (s.waiting = none → s.qRoom (.ciph i) = false → ∃ t, exec (.cxFlush acc i) s = .next t ∧
      (t.ciphInst i).flush = (s.sqTail (.ciph i) + 2 ^ 32 - s.sqHead (.ciph i)) % 2 ^ 32 ∧ t.mem = s.mem ∧
      ∀ off, t.reg off = s.reg off) ∧
    (calm s = true → s.stop = .running → s.pair.lossHold = false → s.qRoom (.ciph i) = true → (s.sqTail (.ciph i) + 2 ^ 32 - s.sqHead (.ciph i)) % 2 ^ 32 = 1 →
      ∃ t, exec (.cxFlush acc i) s = .next t ∧ (t.ciphInst i).flush = 0 ∧ t.sqHead (.ciph i) = s.sqTail (.ciph i) ∧
        t.cqTail (.ciph i) = (s.cqTail (.ciph i) + 1) % 2 ^ 32))

/-! ### Runtime commands and registers with behaviour -/

/-- R431: RC_STAT after a command of code `op` has ended with `result`. -/
def Sys2Proof.ended (s t : State) (op result : Nat) : Prop :=
  t.fld Reg.rcStat 40 8 = result ∧ t.fld Reg.rcStat 48 8 = op ∧ t.flag Reg.rcStat 1 = true ∧
  t.flag Reg.rcStat 0 = false ∧ t.pendBit 364 = true ∧ t.mem.dram = s.mem.dram

/-- R431, R435, R438, R440: SETW, MOVE and CRST, written with device-control: their results and what they do. -/
def Obligations.RuntimeCommands : Prop :=
  ∀ (acc : Accessor) (arg : BitVec 32) (s : State) (q : QueueId) (n : Nat),
    s.waiting = none → q = argQueue arg.toNat → n = argCore arg.toNat →
    (acc.devctl = true → s.mapsOk = true → s.flag Reg.rcStat 0 = true → ∀ r ∈ [Instr.setw, Instr.move, Instr.crst],
      exec (r acc arg) s = .next (s.setFld Reg.rcStat 40 8 1)) ∧
    (acc.devctl = true → s.mapsOk = true → s.flag Reg.rcStat 0 = false → s.phase ≠ phService →
      ∀ r ∈ [(Instr.setw, 1), (Instr.move, 2), (Instr.crst, 3)], ∃ t, exec (r.1 acc arg) s = .next t ∧ ended s t r.2 4) ∧
    (acc.devctl = true → s.mapsOk = true → s.flag Reg.rcStat 0 = false → s.phase = phService →
      (s.badArg 1 arg.toNat = true → ∃ t, exec (.setw acc arg) s = .next t ∧ ended s t 1 2) ∧
      (s.badArg 1 arg.toNat = false → s.qAssigned q = false → ∃ t, exec (.setw acc arg) s = .next t ∧ ended s t 1 3) ∧
      (s.badArg 1 arg.toNat = false → s.qAssigned q = true → ∃ t, exec (.setw acc arg) s = .next t ∧ ended s t 1 0 ∧
        t.weight (s.poolOf q) (queueIndex q) = argWeight arg.toNat ∧
        ∀ k ∈ s.members (s.poolOf q), t.deficit (s.poolOf q) k = 0) ∧
      (s.badArg 2 arg.toNat = false → s.movable q = false → ∃ t, exec (.move acc arg) s = .next t ∧ ended s t 2 3) ∧
      (s.badArg 2 arg.toNat = false → s.movable q = true → s.partnered = false →
        ∃ t, exec (.move acc arg) s = .next t ∧ ended s t 2 0 ∧ t.qParish q = argParish arg.toNat ∧
          t.fld (altReg (s.poolOf q) (queueIndex q)) 0 40 = 0 ∧
          ∀ (i : Fin 64) (k rel : Nat), q = .ciph i → s.slotOf i rel = some k → t.slotAt k = KeySlot.reset) ∧
      (s.badArg 2 arg.toNat = false → s.movable q = true → s.partnered = true →
        ∃ t, exec (.move acc arg) s = .next t ∧ t.flag Reg.rcStat 0 = true ∧ t.qParish q = argParish arg.toNat ∧
          (t.pair.tx ++ t.pair.queue).map (·.body) = (s.pair.tx ++ s.pair.queue).map (·.body) ++ [.move arg]) ∧
      (n < 46 → s.coreValid n = false → ∃ t, exec (.crst acc arg) s = .next t ∧ ended s t 3 3) ∧
      (n < 46 → s.coreValid n = true → (s.core n).run ≠ .paused → ∀ t,
        t = (((s.setFld Reg.rcCmd 16 32 arg.toNat).setFlag Reg.rcStat 0 true).coreReset n).endCommand 3 0 →
        t.waiting = none → exec (.crst acc arg) s = .next t ∧
        t.fld Reg.rcStat 40 8 = 0 ∧ t.flag Reg.rcStat 0 = false ∧
        (t.core n).prim = entryBank s.image (s.parishOf n) (coreRank (s.reg (Reg.parCores (s.parishOf n))) n) false ∧
        (t.core n).sb = false ∧ (t.core n).df = false ∧ (t.core n).fpx = false ∧ (t.core n).rvk = none ∧
        (t.core n).mchk = none ∧ (t.core n).sq = [] ∧
        (t.core n).run = if t.stop = .running then .running else .stopped))

/-- R441-R443: EN, CLR, the ring and TAIL of a page log, written with device-control. -/
def Sys2Proof.pageLogRegisters : Prop :=
  ∀ (acc : Accessor) (p : Parish) (s : State),
    (s.waiting = none → acc.devctl = true → s.mapsOk = true →
      (∀ en, ∃ t, exec (.dlCtlEn acc p en) s = .next t ∧ t.flag (Reg.dlCtl p) 0 = en ∧
        (t.plogOf p).filter = (s.plogOf p).filter ∧ (t.plogOf p).halted = (en && (s.plogOf p).halted) ∧ t.mem = s.mem) ∧
      (∃ t, exec (.dlCtlClr acc p) s = .next t ∧ (t.plogOf p).filter = [] ∧
        t.flag (Reg.dlCtl p) 0 = s.flag (Reg.dlCtl p) 0 ∧ t.mem = s.mem) ∧
      (∀ v k a, k = bits v 48 5 → a = bits v 7 41 * 0x80 →
        (10 ≤ k → k ≤ 20 → a % (8 * 2 ^ k) = 0 → s.spanIn 0 a (8 * 2 ^ k) isNormal = true →
          ∃ t, exec (.dlRingWrite acc p false v) s = .next t ∧ t.reg (Reg.dlRing p) = BitVec.ofNat 64 (k * 2 ^ 48 + a) ∧
            t.reg (Reg.dlPtr p) = 0 ∧ (t.plogOf p).ring = .reset ∧ (t.plogOf p).filter = (s.plogOf p).filter ∧
            (t.plogOf p).halted = (s.plogOf p).halted ∧ t.mem = s.mem ∧
            ∀ off, off ≠ Reg.dlRing p → off ≠ Reg.dlPtr p → t.reg off = s.reg off) ∧
        (k < 10 ∨ 20 < k ∨ a % (8 * 2 ^ k) ≠ 0 ∨ s.spanIn 0 a (8 * 2 ^ k) isNormal = false →
          exec (.dlRingWrite acc p false v) s = .next (s.setEv (Reg.dlStat p) 1 370))) ∧
      (∀ v k, k = s.fld (Reg.dlRing p) 48 5 →
        (tailOk (s.fld (Reg.dlPtr p) 32 32) (bits v 0 32) (if k = 0 then 0 else 2 ^ k) = true →
          exec (.dlRingWrite acc p true v) s = .next (s.setFld (Reg.dlPtr p) 0 32 (bits v 0 32))) ∧
        (tailOk (s.fld (Reg.dlPtr p) 32 32) (bits v 0 32) (if k = 0 then 0 else 2 ^ k) = false →
          exec (.dlRingWrite acc p true v) s = .next (s.setEv (Reg.dlStat p) 1 370))))

/-- R128, R130-R133: the collection registers of a parish. -/
def Sys2Proof.collectionRegisters : Prop :=
  ∀ (acc : Accessor) (p : Parish) (v : BitVec 64) (s : State) (k a : Nat), s.waiting = none → k = bits v 48 5 →
    a = bits v 7 41 * 0x80 →
    exec (.gcCtlWrite acc p v) s = .next (s.setReg (Reg.gcCtl p) (v &&& 7#64)) ∧
    (s.spanIn p (bits v 0 36 * 0x1000) (bits v 36 27 + 1) (· == .wb) = true →
      exec (.gcZoneWrite acc p v) s = .next (s.setReg (Reg.gcZone p) (v &&& 0x7FFFFFFFFFFFFFFF#64))) ∧
    (s.spanIn p (bits v 0 36 * 0x1000) (bits v 36 27 + 1) (· == .wb) = false →
      exec (.gcZoneWrite acc p v) s = .next (s.setFlag (Reg.gcStat p) 0 true)) ∧
    (s.mapsOk = true → 4 ≤ k → k ≤ 16 → a % (8 * 2 ^ k) = 0 → s.spanIn p a (8 * 2 ^ k) (· == .wb) = true →
      ∃ t, exec (.gcClogWrite acc p v) s = .next t ∧ t.reg (Reg.gcClog p) = BitVec.ofNat 64 (k * 2 ^ 48 + a) ∧
        t.reg (Reg.gcClogp p) = 0 ∧ t.mem = s.mem) ∧
    (k < 4 ∨ 16 < k ∨ a % (8 * 2 ^ k) ≠ 0 ∨ s.spanIn p a (8 * 2 ^ k) (· == .wb) = false →
      exec (.gcClogWrite acc p v) s = .next (s.setFlag (Reg.gcStat p) 0 true)) ∧
    (tailOk (s.fld (Reg.gcClogp p) 32 32) (bits v 0 32) (s.cardCap p) = true →
      exec (.gcClogpTailWrite acc p v) s = .next (s.setFld (Reg.gcClogp p) 0 32 (bits v 0 32))) ∧
    (tailOk (s.fld (Reg.gcClogp p) 32 32) (bits v 0 32) (s.cardCap p) = false →
      exec (.gcClogpTailWrite acc p v) s = .next (s.setFlag (Reg.gcStat p) 1 true))

/-- R128-R133, R441-R443: the page-log and collection registers of a parish take what their rules accept, and tell what
they refuse. -/
def Obligations.LogAndCollectionRegisters : Prop := pageLogRegisters ∧ collectionRegisters

/-- R33, R35, R482, R490-R492: the tag attribute table, event routes, pending bits, the door and the fault collector's
status, each for those who may write it. -/
def Obligations.EventAndTagRegisters : Prop :=
  (∀ (acc : Accessor) (t : BitVec 8) (v : BitVec 64) (s : State), s.waiting = none → s.mapsOk = true →
    (acc.tags = true → ∃ u, exec (.tatStore acc t v) s = .next u ∧
      ((0x11 < t.toNat ∧ t.toNat < 0x40 ∨ t = 7 ∨ 0x80 ≤ t.toNat → u.reg (Reg.tat t.toNat) = s.reg (Reg.tat t.toNat)) ∧
       (t.toNat ≤ 0x11 → t ≠ 7 → u.fld (Reg.tat t.toNat) 0 3 = s.fld (Reg.tat t.toNat) 0 3 ∧
         u.fld (Reg.tat t.toNat) 4 3 = s.fld (Reg.tat t.toNat) 4 3) ∧
       (t.toNat ≤ 0x11 ∧ t ≠ 7 ∨ 0x40 ≤ t.toNat ∧ t.toNat < 0x80 →
         u.fld (Reg.tat t.toNat) 12 12 = bits v 12 12 ∧ u.flag (Reg.tat t.toNat) 3 = v.getLsbD 3)))) ∧
  (∀ (acc : Accessor) (i : Fin 384) (v : BitVec 64) (s : State), s.waiting = none →
    (acc.devctl = true → v.getLsbD 16 = true → (s.flag (Reg.parCfg (bits v 12 4)) 0 = false ∨
        s.flag (Reg.parCores (bits v 12 4)) (bits v 6 6) = false) →
      exec (.evRouteWrite acc i v) s = .next (s.setFlag Reg.evStat 0 true)) ∧
    (acc.devctl = true → s.mapsOk = true → (v.getLsbD 16 = false ∨ (s.flag (Reg.parCfg (bits v 12 4)) 0 = true ∧
        s.flag (Reg.parCores (bits v 12 4)) (bits v 6 6) = true)) →
      ∃ t, exec (.evRouteWrite acc i v) s = .next t ∧ t.reg (Reg.evRoute i) = v &&& 0x1FFDF#64 ∧
        ∀ off, off ≠ Reg.evRoute i → t.reg off = s.reg off)) ∧
  (∀ (acc : Accessor) (k : Fin 6) (v : BitVec 64) (s : State), s.waiting = none → s.mapsOk = true →
    ∃ t, exec (.evPendClear acc k v) s = .next t ∧ ∀ b, b < 64 → (t.reg (Reg.evPend k)).getLsbD b =
      ((s.reg (Reg.evPend k)).getLsbD b && !(v.getLsbD b &&
        (acc.devctl || s.fld (Reg.evRoute (64 * k + b)) 12 4 == acc.parish.val)))) ∧
  (∀ (acc : Accessor) (p : Parish) (v : BitVec 64) (s : State), s.waiting = none →
    exec (.evDoor acc p v) s = .next (s.raise (324 + p))) ∧
  (∀ (acc : Accessor) (v : BitVec 64) (s : State), s.waiting = none → s.mapsOk = true →
    (acc.devctl = true → s.phase = phService → ∃ t, exec (.fcStatClear acc v) s = .next t ∧
      (∀ c, c < 3 → t.flag Reg.fcStat c = (s.flag Reg.fcStat c && !v.getLsbD c) ∧
        t.flag Reg.fcStat (4 + c) = (s.flag Reg.fcStat (4 + c) && !v.getLsbD (4 + c))) ∧
      (s.fld (Reg.fcInfo 3) 54 2 ≠ phService → t.flag Reg.fcStat 3 = s.flag Reg.fcStat 3) ∧
      (s.fld (Reg.fcInfo 3) 54 2 = phService → t.flag Reg.fcStat 3 = (s.flag Reg.fcStat 3 && !v.getLsbD 3))))

/-- R9, R11: REGISTER_WRITE: of a register whose fields have no behaviour of their own, RW bits take the value written,
W1C bits written 1 clear and every other bit stands; an offset the map does not assign takes nothing. A store of one who
may not write the register, and a write of a queue's registers by one who does not own it, changes nothing: the model's
choice (log 20). -/
def Obligations.RegisterWrites : Prop :=
  (∀ (acc : Accessor) (q : QueueId) (s : State), s.waiting = none → s.ownerReach acc q = false →
    ∀ (t h : BitVec 32) (v : BitVec 64) (r : RingReg),
      exec (.doorbell acc q t) s = .next s ∧ exec (.queueEnable acc q v) s = .next s ∧
      exec (.ringConfigWrite acc q r v) s = .next s ∧ exec (.cqHeadWrite acc q h) s = .next s) ∧
  (∀ (acc : Accessor) (s : State), s.waiting = none → acc.devctl = false →
    ∀ (v : BitVec 64) (t : BitVec 8) (i : Fin 384) (p : Parish) (en : Bool) (arg : BitVec 32) (link port : Fin 4),
      (acc.tags = false → exec (.tatStore acc t v) s = .next s) ∧ exec (.evRouteWrite acc i v) s = .next s ∧
      exec (.fcStatClear acc v) s = .next s ∧ exec (.dlCtlEn acc p en) s = .next s ∧
      exec (.dlCtlClr acc p) s = .next s ∧ exec (.dlRingWrite acc p en v) s = .next s ∧
      exec (.setw acc arg) s = .next s ∧ exec (.move acc arg) s = .next s ∧ exec (.crst acc arg) s = .next s ∧
      exec (.secondaryBusReset acc port link) s = .next s ∧ exec (.switch acc) s = .next s) ∧
  ∀ (acc : Accessor) (off : BitVec 28) (v : BitVec 64) (s : State), s.waiting = none → s.mapsOk = true →
    (regRowAt off.toNat = none → exec (.registerWrite acc off v) s = .next s) ∧
    (∀ r i j, regRowAt off.toNat = some (r, i, j) → s.canWrite acc r i = false →
      exec (.registerWrite acc off v) s = .next s) ∧
    (∀ r i j, regRowAt off.toNat = some (r, i, j) → s.canWrite acc r i = true → r.act = .plain →
      ∃ t, exec (.registerWrite acc off v) s = .next t ∧
        (∀ b, b < 64 → (t.reg off.toNat).getLsbD b = if r.rw.getLsbD b then v.getLsbD b
          else (s.reg off.toNat).getLsbD b && !(v.getLsbD b && r.w1c.getLsbD b)) ∧
        (∀ o, o ≠ off.toNat → t.reg o = s.reg o) ∧ t.mem = s.mem ∧ t.cores = s.cores ∧ t.io = s.io)

/-! ### Observation and the test access port -/

/-- R515, R516, R529-R531: what the samples of the monitors set, the issue limit, the trip, and a rail that is out of its
range twice. -/
def Obligations.Monitors : Prop :=
  (∀ (temps : List (BitVec 16)) (s : State), s.mapsOk = true →
    (s.pins.vaux = false → exec (.thermalSample temps) s = .next s) ∧
    (s.pins.vaux = true → temps.length = 64 → ∃ t, exec (.thermalSample temps) s = .next t ∧ t.freshT = false ∧
      (∀ n, n < 64 → t.fld (Reg.monT n) 0 16 = (temps.getD n 0).toNat) ∧
      (s.pins.resetN = true → (∀ v ∈ temps, v.toInt < 16 * 115) → ∀ n, n < 4 →
        t.fld Reg.thmStat (2 * n) 2 = nextLevel (s.fld Reg.thmStat (2 * n) 2) (t.chipletTemp n)) ∧
      (s.pins.resetN = true → s.pins.thermtrip = false → s.paired = false → (∃ v ∈ temps, 16 * 115 ≤ v.toInt) →
        t.pins.thermtrip = true ∧ t.stop = .trip ∧ t.cores = [] ∧ t.mem = Mem.reset))) ∧
  (∀ (mv : List (BitVec 16)) (s : State), s.mapsOk = true →
    (s.pins.vaux = false → exec (.voltageSample mv) s = .next s) ∧
    (s.pins.vaux = true → mv.length = 24 → ∃ t, exec (.voltageSample mv) s = .next t ∧
      (∀ n, n < 24 → t.fld (Reg.monV n) 0 16 = (mv.getD n 0).toNat ∧
        (s.freshV = false →
          t.fld (Reg.monV n) 16 16 = min (s.fld (Reg.monV n) 16 16) (mv.getD n 0).toNat ∧
          t.fld (Reg.monV n) 32 16 = max (s.fld (Reg.monV n) 32 16) (mv.getD n 0).toNat)) ∧
      (∀ n, n < 23 → s.pins.resetN = true → s.railSpan n = true → s.vOut.getLsbD n = true →
        ((mv.getD n 0).toNat < (railRange n).1 ∨ (railRange n).2 < (mv.getD n 0).toNat) → 0x4A#8 ∉ s.levels →
        0x4A#8 ∈ t.levels ∧ t.fld Reg.fcCnt 48 16 = min (s.fld Reg.fcCnt 48 16 + 1) 65535))) ∧
  (∀ (counts : List (BitVec 24)) (s : State), s.mapsOk = true →
    (s.pins.vaux = false → exec (.processSample counts) s = .next s) ∧
    (s.pins.vaux = true → counts.length = 16 → ∃ t, exec (.processSample counts) s = .next t ∧
      ∀ n b c, n < 16 → b = s.fld (Reg.monP n) 24 24 → c = (counts.getD n 0).toNat →
        t.fld (Reg.monP n) 0 24 = c ∧ t.fld (Reg.monP n) 24 24 = b ∧
        t.flag (Reg.monP n) 48 = (s.flag (Reg.monP n) 48 || (b != 0 && decide (b < 32 * (max b c - min b c))))))

/-- R475, R520, R523, R554: trace lanes, I3C reads, discrete inputs, and a parity error in the collector or the router. -/
def Obligations.TraceInputsAndParity : Prop :=
  (∀ (lane : Fin 4) (s : State),
    (s.laneOn lane = true → (∃ t, exec (.traceSync lane) s = .next t ∧
        t.trace.sent.find lane = some (packet 1 0 s.ts [s.ts]) ∧ t.trace.lastSync.find lane = some s.ts.toNat ∧
        t.trace.buf = s.trace.buf ∧ t.regs = s.regs) ∧
      (s.trace.lastSync.find lane = none → exec (.tracePacket lane) s = exec (.traceSync lane) s) ∧
      (∀ k, s.trace.lastSync.find lane = some k →
        (s.trace.buf = [] → ∃ t, exec (.tracePacket lane) s = .next t ∧ t.trace.sent.find lane = some [0#64] ∧
          t.trace.buf = []) ∧
        (∀ p rest, s.trace.buf = p :: rest → ∃ t, exec (.tracePacket lane) s = .next t ∧
          t.trace.sent.find lane = some p ∧ t.trace.buf = rest))) ∧
    (s.laneOn lane = false → ∃ t, exec (.tracePacket lane) s = .next t ∧ exec (.traceSync lane) s = .next t ∧
      t.trace.sent = s.trace.sent ∧ t.trace.buf = s.trace.buf)) ∧
  (∀ (off : BitVec 32) (a : BitVec 7) (s : State),
    (s.pins.vaux = true → s.pins.resetN = true →
      exec (.i3cDynamicAddress a) s = .next { s with i3cAddr := a } ∧
      (off.toNat % 8 = 0 → (regRowAt off.toNat).isSome = true → (i3cAlways off.toNat = true ∨
          i3cPowered off.toNat = true ∧ s.pins.vin = true ∧ 2 ≤ s.step?) →
        exec (.i3cRead off) s = .next { s with i3cOut := s.regValue off.toNat }) ∧
      (off.toNat % 8 ≠ 0 ∨ regRowAt off.toNat = none ∨
          i3cAlways off.toNat = false ∧ (i3cPowered off.toNat = false ∨ s.pins.vin = false ∨ s.step? < 2) →
        exec (.i3cRead off) s = .next { s with i3cOut := 0 })) ∧
    (s.pins.vaux = false ∨ s.pins.resetN = false →
      exec (.i3cDynamicAddress a) s = .next s ∧ exec (.i3cRead off) s = .next s)) ∧
  (∀ (i : Fin 32) (level : Bool) (s : State), s.mapsOk = true → ∃ t, exec (.dinAccept i level) s = .next t ∧
    (∀ k, k < 32 → t.pins.din.getLsbD k = if k = i.val then level else s.pins.din.getLsbD k) ∧
    (s.pins.vaux = true → s.pins.resetN = true → s.tsRun = true → s.flag Reg.dioIen i = true →
      s.flag Reg.dioIn i ≠ level →
      t.flag Reg.dioIn i = level ∧ t.flag Reg.dioChg i = true ∧ t.pendBit (376 + i / 4) = true) ∧
    (s.flag Reg.dioIen i = false ∨ s.flag Reg.dioIn i = level → t.regs = s.regs)) ∧
  (∀ (off : BitVec 28) (s : State), s.mapsOk = true → s.pins.vaux = true → s.pins.resetN = true →
    (∀ k, k < 6 → off.toNat = Reg.evPend k → ∃ t, exec (.eventRouterParityError off) s = .next t ∧
      t.reg (Reg.evPend k) = BitVec.allOnes 64 ∧ t.fld Reg.fcCnt 48 16 = min (s.fld Reg.fcCnt 48 16 + 1) 65535) ∧
    (∀ k, k < 384 → off.toNat = Reg.evRoute k → ∃ t, exec (.eventRouterParityError off) s = .next t ∧
      Reg.evRoute k ∈ t.badRoutes ∧ t.fld Reg.fcCnt 48 16 = min (s.fld Reg.fcCnt 48 16 + 1) 65535))

/-- R549: the instructions of the test access port, its controller, and the registers it shifts; it is offered in TEST
alone. -/
def Obligations.TestAccessPort : Prop :=
  ∀ s : State,
    (s.tapOn = true →
      (∀ r ∈ [(Instr.extest, 0#4), (.samplePreload, 1#4), (.clamp, 2#4), (.highz, 3#4), (.bypass, 0xF#4)],
        exec r.1 s = .next { s with tap := { s.tap with st := .updIr, ir := r.2, tdo := none, ones := 0 } }) ∧
      (∃ t, exec .tapReset s = .next t ∧ t.tap.st = .reset ∧ t.tap.ir = 0xF#4 ∧ t.tap.cells = 0 ∧
        t.regs = s.regs ∧ t.pins = s.pins) ∧
      (∀ tms tdi, ∃ t, exec (.tckCycle tms tdi) s = .next t ∧
        (tms = false ∨ s.tap.ones < 4 → t.tap.st = s.tap.st.next tms) ∧
        (tms = true → 4 ≤ s.tap.ones → t.tap.st = .reset ∧ t.tap.ir = 0xF#4) ∧
        (s.tap.st = .shDr → tms = false → s.tap.scans = false → t.tap.bypass = tdi ∧ t.tap.tdo = some tdi) ∧
        (s.tap.st = .shDr → tms = false → s.tap.scans = true →
          t.tap.bsr = s.tap.bsr <<< 1 ||| BitVec.ofNat 167 tdi.toNat ∧
          t.tap.tdo = some (s.tap.bsr.getLsbD 165)) ∧
        (s.tap.st = .ex1Dr → tms = true → s.tap.ones < 4 → s.tap.scans = true → t.tap.cells = s.tap.bsr) ∧
        (s.tap.st = .ex1Ir → tms = true → s.tap.ones < 4 → t.tap.ir = tapDecode s.tap.irShift) ∧
        t.regs = s.regs ∧ t.pins = s.pins)) ∧
    (s.tapOn = false → (∀ c ∈ [Instr.extest, .samplePreload, .clamp, .highz, .bypass, .tapReset], exec c s = .next s) ∧
      ∀ tms tdi, exec (.tckCycle tms tdi) s = .next s)

/-! ### The pair -/

/-- R453: the frames that the partner has not acknowledged, in the order in which they go: those sent, and those that wait. -/
def Sys2Proof.frames (s : State) : List Frame := s.pair.tx ++ s.pair.queue

/-- R452, R453: an `ahead` message (CTRLU) leaves at once: there is room, and none of its kind waits before it. -/
def Sys2Proof.leavesAtOnce (s : State) : Prop :=
  s.pair.tx.length < 2048 ∧ s.pair.queue.filter (fun f => f.body.ahead) = []

/-- R452, R453: the message is sent with the next FSEQ and the acknowledgement of what has been received, or waits. -/
def Sys2Proof.sentAhead (s t : State) (b : FrameBody) : Prop :=
  (leavesAtOnce s → ∃ f, t.pair.tx = s.pair.tx ++ [f] ∧ f.fseq = s.pair.nextFseq ∧ f.ackseq = s.pair.rxNext - 1 ∧
    f.nak = s.pair.nak ∧ f.body = b) ∧
  (¬leavesAtOnce s → t.pair.tx = s.pair.tx ∧ ∃ f ∈ t.pair.queue, f.body = b)

/-- R443: no slot of a page-log ring lies in the line. -/
def Sys2Proof.noSlot (s : State) (line : Nat) : Prop :=
  ∀ p n, p < 16 → (s.ringSlot (s.fld (Reg.dlRing p) 7 41) (s.fld (Reg.dlRing p) 48 5) n).2 / 64 ≠ line

/-- R453: the state after a frame in order has been counted and its trailer read. -/
def Sys2Proof.counted (s : State) (h : FrameHdr) : State :=
  ({ s with pair := { s.pair with rxNext := s.pair.rxNext + 1, nak := false } } : State).trailer h.ackseq h.nak

/-- R450-R453: a frame out of order is dropped with NAK, whatever it carries; a frame in order is counted, and its
trailer acknowledges every frame up to ACKSEQ; a NAK has the rest sent again; a broken frame is counted. -/
def Obligations.PairFrames : Prop :=
  (∀ (h : FrameHdr) (recs : List MirrorRec) (lrecs : List LedgerRec) (line : LineAddr) (lines : List (List Word))
      (runs : List (LineAddr × Nat)) (info : HelloInfo) (a b : BitVec 64) (r p : BitVec 2) (v arg : BitVec 32)
      (t : BitVec 8) (s : State), s.linked = true → h.fseq ≠ s.pair.rxNext →
    ∀ c ∈ [Instr.idleFrame h, .mirror h recs, .ledger h lrecs, .bulk h line lines, .zrun h runs, .hello h info,
        .hb h a b r p, .dio h v, .mendq h line, .tatMessage h t a, .moveMessage h arg, .handover h, .leave h, .rcvdone h],
      exec c s = .next { s with pair := { s.pair with nak := true } }) ∧
  (∀ (h : FrameHdr) (s : State), s.waiting = none → s.linked = true → h.fseq = s.pair.rxNext →
    (h.more = true → exec (.idleFrame h) s = .next s) ∧ (h.more = false → exec (.idleFrame h) s = .next (counted s h)) ∧
    (∀ l1 f l2, s.pair.tx = l1 ++ f :: l2 → f.fseq = h.ackseq → (∀ g ∈ l1, g.fseq ≠ h.ackseq) →
      s.pair.movePend = none → h.nak = false →
      (counted s h).pair.rxNext = h.fseq + 1 ∧ (counted s h).mem = s.mem ∧
      (frames (counted s h)).map (·.body) = (l2 ++ s.pair.queue).map (·.body) ∧
      ((counted s h).pair.queue = [] ∨ 2048 ≤ (counted s h).pair.tx.length) ∧
      (s.pair.queue = [] → (counted s h).pair.tx = l2 ∧ (counted s h).regs = s.regs))) ∧
  (∀ (a : BitVec 12) (s : State), s.mapsOk = true → s.linked = true →
    (∀ l1 f l2 g, s.pair.tx = l1 ++ f :: g :: l2 → f.fseq = a → (∀ g ∈ l1, g.fseq ≠ a) → s.pair.movePend = none →
      ∃ t, exec (.frameNak a) s = .next t ∧ (frames t).map (·.body) = (g :: l2 ++ s.pair.queue).map (·.body) ∧
        (∀ x ∈ t.pair.tx, x.ackseq = s.pair.rxNext - 1 ∧ x.nak = s.pair.nak) ∧
        t.fld Reg.pairLink 32 32 = min (s.fld Reg.pairLink 32 32 + 1) (2 ^ 32 - 1)) ∧
    exec (.frameCrcDrop false) s = .next { s with pair := { s.pair with nak := true } } ∧
    (∃ t, exec (.frameCrcDrop true) s = .next t ∧ t.pair.nak = true ∧
      t.fld Reg.pairLink 16 16 = min (s.fld Reg.pairLink 16 16 + 1) 65535 ∧
      t.fld Reg.fcCnt 0 16 = min (s.fld Reg.fcCnt 0 16 + 1) 65535)) ∧
  (∀ (s : State), s.linked = false → ∀ a b, exec (.frameNak a) s = .next s ∧ exec (.frameCrcDrop b) s = .next s)

/-- R309, R369, R438, R458, R464, R467: what a STANDBY applies of the frames it receives: mirror changes, ledger updates,
the copy's lines, discrete outputs, tags, moves and the end of the copy; and the answer to a mend request. -/
def Obligations.StandbyApplies : Prop :=
  ∀ (h : FrameHdr) (s : State), s.mapsOk = true → s.waiting = none → s.linked = true → h.fseq = s.pair.rxNext →
    h.more = false → s.role = 2 → s.stop = .running →
    (∀ r : MirrorRec, r.mend = false → quiet s = true → ∃ t, exec (.mirror h [r]) s = .next t ∧
      (s.mem.mends.any (fun m => m.1 == r.line.toNat) = false → noSlot s r.line.toNat →
        t.mem.peekLine r.line.toNat = maskWords r.wmask r.words (s.mem.peekLine r.line.toNat)) ∧
      (s.mem.mends.any (fun m => m.1 == r.line.toNat) = true → t.mem = s.mem ∧
        t.coh.late.map (fun e => (e.pa, e.w)) = ((List.range 8).filter (fun i => r.wmask.getLsbD i)).map
          (fun i => (64 * r.line.toNat + 8 * i, r.words.getD i Word.raw0)))) ∧
    (∀ r : LedgerRec, ∃ t, exec (.ledger h [r]) s = .next t ∧ t.ledgerAt r.chan r.slot = ledgerOfWords r.entry ∧
      t.io.crecs.find r.chan = some r.crec ∧ t.epoch = max s.epoch (ledgerOfWords r.entry).epoch.toNat) ∧
    (∀ (first : LineAddr) (ws : List Word), s.phase = phRecovery → s.pair.rcv = true → ws.length = 8 → quiet s = true →
      s.mem.mends = [] → noSlot s first.toNat → ∃ t, exec (.bulk h first [ws]) s = .next t ∧ t.mem.peekLine first.toNat = ws) ∧
    (∀ (first : LineAddr) (n : Nat), s.phase = phRecovery → s.pair.rcv = true → quiet s = true →
      s.mem.mends = [] → noLogs s = true → ∃ t, exec (.zrun h [(first, n)]) s = .next t ∧
      (∀ l, first.toNat ≤ l → l < first.toNat + n → t.mem.peekLine l = List.replicate 8 Word.raw0) ∧
      ∀ l, l < first.toNat ∨ first.toNat + n ≤ l → t.mem.peekLine l = s.mem.peekLine l) ∧
    (∀ v : BitVec 32, ∃ t, exec (.dio h v) s = .next t ∧ t.pair.dioHeld = v ∧
      t.reg Reg.dioOut = v.setWidth 64 &&& s.reg Reg.dioOen) ∧
    (∀ (t : BitVec 8) (v : BitVec 64), exec (.tatMessage h t v) s = .next ((counted s h).setReg (Reg.tat t.toNat) v)) ∧
    (∀ arg : BitVec 32, ∃ t, exec (.moveMessage h arg) s = .next t ∧
      t.qParish (argQueue arg.toNat) = argParish arg.toNat ∧
      ∀ (c : Fin 256) (cfg : BitVec 64) (rest : List (BitVec 64)), argQueue arg.toNat = .chan c →
        s.io.crecs.find c = some (cfg :: rest) → t.io.crecs.find c = some (putBits cfg 28 4 (argParish arg.toNat) :: rest)) ∧
    (s.phase = phRecovery → s.pair.rcv = true → ∃ t, exec (.rcvdone h) s = .next t ∧ t.phase = phService ∧
      t.pair.rcv = false ∧ t.pendBit 342 = true ∧ t.mem = s.mem) ∧
    (s.pair.rcv = false → exec (.rcvdone h) s = .next (counted s h) ∧
      ∀ (first : LineAddr) (lines : List (List Word)) (runs : List (LineAddr × Nat)),
        exec (.bulk h first lines) s = .next (counted s h) ∧ exec (.zrun h runs) s = .next (counted s h)) ∧
    (∀ line : LineAddr, s.partnered = true → s.phase = phService → quiet s = true →
      (∀ e ∈ s.mem.merge, e.word / 8 ≠ line.toNat) → ∃ t, exec (.mendq h line) s = .next t ∧
      (frames t).map (·.body) = (frames (counted s h)).map (·.body) ++
        [.mirror [{ mend := true, line := line, wmask := 0xFF#8, words := s.mem.peekLine line.toNat, time := s.ts }]])

/-- R454-R456, R460, R464, R470: HELLO settles partner and role, its time-out, the heartbeat, and how an ACTIVE claims its
place. -/
def Obligations.PairHandshake : Prop :=
  (∀ (h : FrameHdr) (i : HelloInfo) (s : State), s.mapsOk = true → s.waiting = none → s.linked = true → h.fseq = s.pair.rxNext →
    h.more = false →
    (s.helloOk i = true → ∃ t, exec (.hello h i) s = .next t ∧ t.fld Reg.pairStat 4 2 = 1 ∧
      t.fld Reg.pairStat 6 2 = i.phase.toNat ∧
      (∀ r alike, s.pair.settled = false → s.inStep 4 = true → s.start.s4Done = true → s.pair.movePend = none →
        helloRole s.pins.pairRole s.rom.dieId i = some (r, alike) → t.role = r ∧ t.pair.settled = true)) ∧
    (s.helloOk i = false → ∃ t, exec (.hello h i) s = .next t ∧ t.fld Reg.pairStat 4 2 = 3 ∧
      t.fld Reg.fcCnt 0 16 = min (s.fld Reg.fcCnt 0 16 + 1) 65535)) ∧
  (∀ (s : State), s.linked = true → s.start.s4Done = true → s.stop = .running → ∃ t,
    exec .helloSend s = .next t ∧ sentAhead s t (.hello s.helloInfo)) ∧
  (∀ (s : State), s.mapsOk = true → s.paired = true → s.inStep 4 = true → s.start.s4Done = true →
    s.pair.settled = false → s.pair.absent = false → s.partnered = false → ∃ t, exec .helloTimeout s = .next t ∧
      t.pair.absent = true ∧ (s.pins.pairRole = true → t.role = 1) ∧
      (s.pins.pairRole = false → t.pair.settled = false ∧ t.regs = s.regs)) ∧
  (∀ (h : FrameHdr) (time echo : BitVec 64) (role phase : BitVec 2) (s : State), s.mapsOk = true → s.waiting = none →
    s.linked = true → h.fseq = s.pair.rxNext → h.more = false → ∃ t, exec (.hb h time echo role phase) s = .next t ∧
      t.pair.hbRx = some time ∧ t.pair.hbRxEcho = echo ∧ t.fld Reg.pairStat 6 2 = phase.toNat ∧
      ∀ now, now = time + Config.hbAge (s.ts - echo) → s.inStep 4 = false → s.tsRun = true →
        t.ts = (if s.role ≠ 2 ∨ s.ts = now then s.ts else if s.ts.toNat < now.toNat then s.ts + 1 else s.ts - 1)) ∧
  (∀ (s : State), s.linked = true → s.tsRun = true → s.stop = .running → s.role ≠ 1 → ∃ t,
    exec .hbSend s = .next t ∧
      sentAhead s t (.hb s.ts (s.pair.hbRx.getD 0) (BitVec.ofNat 2 s.role) (BitVec.ofNat 2 s.phase))) ∧
  (∀ (s : State), s.mapsOk = true → s.inStep 5 = true → s.pair.claiming = true → ∃ t,
    exec .activeClaimCheck s = .next t ∧ (s.pins.actIn = false → t.phase = phService ∧ t.pair.claiming = false) ∧
      (s.pins.actIn = true → t.stop = .stood ∧ t.flag Reg.pairStat 15 = true)) ∧
  (∀ (s : State), s.mapsOk = true → s.pair.waitAct = true → s.inStep 4 = true → s.role = 1 → ∃ t,
    exec .pairActInDeassert s = .next t ∧ t.pins.actIn = false ∧ t.pins.actOut = some true ∧ t.step? = 5 ∧
      t.pair.waitAct = false ∧ t.pair.claiming = true)

/-- R377, R460-R462, R465, R467, R469: loss of the partner, standing down, takeover, switch-over, and the copy to a partner
in RECOVERY. -/
def Obligations.LossAndTakeover : Prop :=
  (∀ (s : State), s.mapsOk = true → s.partnered = true → s.mem.mends = [] → s.escalated 0x42 = false →
    (s.role = 1 → s.pair.switching = false → s.fld Reg.pairStat 6 2 = phService → s.phase = phService →
      s.stop = .running → ∃ t, exec .partnerLost s = .next t ∧ t.pair.lossHold = true ∧ t.fld Reg.pairStat 4 2 = 2 ∧
        t.pair.tx = [] ∧ t.role = 1) ∧
    (s.role = 2 → s.phase = phService → s.stop = .running → ∃ t, exec .partnerLost s = .next t ∧ t.role = 1 ∧
      t.pins.actOut = some true ∧ t.pair.takeT0 = some s.ts.toNat ∧ t.fld Reg.pairStat 4 2 = 2) ∧
    (s.role = 1 → s.pair.switching = true → s.stop = .running → ∃ t, exec .partnerLost s = .next t ∧ t.stop = .handed ∧
      t.pair.switching = false ∧ t.pins.actOut ≠ some true ∧ t.fld Reg.fcCnt 32 16 = s.fld Reg.fcCnt 32 16)) ∧
  (∀ (s : State), s.mapsOk = true → s.waiting = none → s.partnered = false →
    (s.fld Reg.pairStat 4 2 = 2 ∨ s.pair.hbRx = none → exec .partnerLost s = .next s) ∧
    (s.fld Reg.pairStat 4 2 ≠ 2 → s.pair.hbRx.isSome = true → s.pair.switching = false → ∃ t, exec .partnerLost s = .next t ∧
      t.fld Reg.pairStat 4 2 = 2 ∧ t.flag Reg.pairStat 12 = true ∧ t.role = s.role ∧
      t.fld Reg.fcCnt 32 16 = min (s.fld Reg.fcCnt 32 16 + 1) 65535)) ∧
  (∀ (h : FrameHdr) (s : State), s.mapsOk = true → s.waiting = none → s.linked = true → h.fseq = s.pair.rxNext →
    h.more = false → (s.role = 2 → s.phase = phService → s.stop = .running → ∃ t, exec (.handover h) s = .next t ∧ t.role = 1 ∧
      t.pins.actOut = some true ∧ t.pair.takeT0 = some s.ts.toNat ∧ t.fld Reg.pairStat 4 2 = 0) ∧
    (s.mem.mends = [] → ∃ t, exec (.leave h) s = .next t ∧ t.pair.rcv = false ∧ t.pair.leaveRx = true ∧ t.fld Reg.pairStat 4 2 = 0 ∧ t.pair.tx = [])) ∧
  (∀ (s t : State), s.pair.lossHold = true → s.pins.actIn = false → s.stop = .running →
    t = (List.range 64).foldl (fun t i => State.ciphAbort 65536 (State.compAbort 65536 t i) i)
      (((List.range 256).filter (fun c => s.flag (Reg.chCfg c) 32)).foldl State.writeHeld
        { s with pair := { s.pair with lossHold := false } }) →
    completes .lossHoldEnd s t ∧ t.pair.lossHold = false) ∧
  (∀ (s : State), s.mapsOk = true → s.pins.actIn = false → s.paired = true → s.role = 1 → s.phase = phService →
    s.stop = .running → s.pins.actOut = some true → ∃ t, exec .pairActInAssert s = .next t ∧ t.pins.actIn = true ∧
      t.stop = .stood ∧ t.pins.actOut = some false ∧ t.flag Reg.pairStat 15 = true) ∧
  (∀ (s : State), s.mapsOk = true → s.pair.takeT0.isSome = true → s.stop = .running → s.io.ledgerErr = [] → ∃ t,
    exec .takeoverDrive s = .next t ∧ t.pair.takeT0 = none ∧
      (∀ c, c < 256 → t.reg (Reg.altChn c) = recWord s.image recChan 0 c &&& 0xFF#64) ∧
      t.epoch = (if s.epoch = 0xFFFF then 0xFFFF else s.epoch + 1) ∧
      ∀ p ∈ validParishes s.image, ∀ n, s.mirrored p = true → n < 46 → s.flag (Reg.parCores p) n = true →
        s.coreValid n = true → (t.core n).prim = entryBank s.image (s.parishOf n)
          (coreRank (s.reg (Reg.parCores (s.parishOf n))) n) true) ∧
  (∀ (acc : Accessor) (s : State), s.waiting = none →
    (acc.devctl = true → s.role = 1 → s.partnered = true → s.fld Reg.pairStat 6 2 = phService → s.phase = phService →
      s.stop = .running → ∃ t, exec (.switch acc) s = .next t ∧ t.pair.switching = true ∧
        t.cores = s.cores.map (fun e => (e.1, e.2.halt)) ∧ t.mem = s.mem ∧ t.regs = s.regs) ∧
    (acc.devctl = true → s.role ≠ 1 ∨ s.partnered = false → exec (.switch acc) s = .next s)) ∧
  (∀ (s : State), s.mapsOk = true → s.linked = true → s.partnered = true → s.role = 1 → s.pair.switching = true →
    frames s = [] → s.stop = .running → ∃ t f, exec .handoverSend s = .next t ∧ t.pair.tx = [f] ∧ f.body = .handover ∧
      t.pair.switching = false ∧ t.stop = .handed ∧ t.pins.actOut ≠ some true) ∧
  (∀ (s : State), s.mapsOk = true → s.partnered = true → s.role = 1 → s.phase = phService → s.stop = .running →
    s.fld Reg.pairStat 6 2 = phRecovery → s.io.ledgerErr = [] →
    (s.waiting = none → s.pair.copy = .idle → ∃ t, exec .recoveryCopy s = .next t ∧ t.mem = s.mem ∧
      t.pair.copy = .ledger ∧ t.pair.copyPos = 1 ∧ t.reg Reg.pairRcv = s.copyTotal ∧
      (frames t).length = (frames s).length + 1024) ∧
    (s.waiting = none → s.pair.copy = .ledger → s.pair.copyPos < 256 → ∃ t, exec .recoveryCopy s = .next t ∧ t.mem = s.mem ∧
      t.pair.copy = .ledger ∧ t.pair.copyPos = s.pair.copyPos + 1 ∧ (frames t).length = (frames s).length + 1024) ∧
    (s.pair.copy = .ledger → 256 ≤ s.pair.copyPos → completes .recoveryCopy s (s.setCopy .capt 0)) ∧
    (s.pair.copy = .capt → ∀ r, r = State.sendLines s.tableLines 4096 s s.pair.copyPos → completes .recoveryCopy s
      (if s.tableLines.length ≤ r.2 then r.1.setCopy .tat 0 else r.1.setCopy .capt r.2)) ∧
    (s.waiting = none → s.pair.copy = .tat → ∃ t, exec .recoveryCopy s = .next t ∧ t.mem = s.mem ∧
      t.pair.copy = .dram ∧ t.pair.copyPos = 0 ∧ (frames t).length = (frames s).length + 256) ∧
    (s.pair.copy = .dram → ∀ k g r, k = s.pair.copyPos / 2 ^ 14 → s.mirroredGranules[k / 1024]? = some g →
      r = State.sendLines (mibLines g (k % 1024)) 4096 s (s.pair.copyPos % 2 ^ 14) → completes .recoveryCopy s
        ((r.1.setFld Reg.pairRcv 32 22 ((k * 2 ^ 14 + r.2) / 2 ^ 14)).setCopy .dram (k * 2 ^ 14 + r.2))) ∧
    (s.waiting = none → s.pair.copy = .dram → s.mirroredGranules.length ≤ s.pair.copyPos / 2 ^ 14 / 1024 →
      ∃ t, exec .recoveryCopy s = .next t ∧ t.mem = s.mem ∧ t.pair.copy = .done ∧
        (frames t).map (·.body) = (frames s).map (·.body) ++ [.rcvdone] ∧ t.pendBit 342 = true)) ∧
  (∀ (s : State) (l : Nat) (t : State) (ws : List Word),
    (s.settle l).homeWords l { master := 0x500, acc := 0xF, parish := s.ownerOf (64 * l) } = (t, ws) →
    s.sendGroup [l] = t.sendFrame (if ws.all (fun w => w == Word.raw0) then .zrun [(BitVec.ofNat 46 l, 1)]
      else .bulk (BitVec.ofNat 46 l) [ws])) ∧
  (∀ (s : State) (lines : List Nat) (k pos : Nat), s.copyRoom = false → State.sendLines lines k s pos = (s, pos)) ∧
  (∀ (s : State), s.mapsOk = true → (s.linked = true → ∃ t, exec .welienLinkDown s = .next t ∧
      t.flag Reg.pairStat 3 = false ∧ t.pendBit 341 = true ∧ t.mem = s.mem) ∧
    (s.linked = false → exec .welienLinkDown s = .next s))

/-! ### Resets, supplies and start-up -/

/-- R17-R19, R483, R505, R516, R526, R531, R532, R535-R537, R574: RESET_N, VAUX, VIN, PWRGOOD_IN, the PLLs and the
power-fail flush. -/
def Obligations.ResetAndSupplies : Prop :=
  (∀ s : State, s.mapsOk = true →
    (s.pins.vaux = true → s.pins.resetN = true → ∃ t, exec .resetNAssert s = .next t ∧ t.pins.resetN = false ∧
      t.phase = phStartup ∧ t.cores = [] ∧ t.mem = Mem.reset ∧ t.coh = Coh.reset ∧ t.ts = 0 ∧ t.pins.actOut = none ∧
      (∀ off, keptReg off = false → t.reg off = regDefault off) ∧
      ∀ off, Reg.fcStat ≤ off → off < Reg.fcEsc 0 → t.reg off = s.reg off) ∧
    (s.pins.resetN = false → ∀ (testmode : Bool) (bootsel : BitVec 2) (role : Bool), ∃ t,
      exec (.resetNDeassert testmode bootsel role) s = .next t ∧ t.pins.resetN = true ∧ t.pins.testmode = testmode ∧
        t.pins.bootsel = bootsel ∧ t.pins.pairRole = role ∧
        (s.pins.vaux = true → (t.phase = if testmode then phTest else phStartup) ∧
          ∀ off, keptReg off = false → off ≠ Reg.imgStat → t.reg off = regDefault off)) ∧
    (s.pins.vaux = false → ∃ t, exec .vauxApply s = .next t ∧ t.pins.vaux = true ∧ t.freshT = true ∧ t.freshV = true ∧
      (s.pins.resetN = true → s.pins.testmode = false → t.phase = phStartup)) ∧
    (s.pins.vaux = true → exec .vauxRemove s = .next { State.reset with
      pending := s.pending, free := s.free, rom := s.rom,
      pins := { s.pins with vaux := false, actOut := none, thermtrip := false } }) ∧
    (s.pins.pwrgood = false → ∃ t, exec .pwrgoodInAssert s = .next t ∧ t.pins.vin = true ∧ t.pins.pwrgood = true ∧
      t.pins.powerfail = false ∧ t.mem = s.mem ∧ (s.stop = .running → t.start.waitPwr = false) ∧
      (s.stop ≠ .running → t.step? = s.step?)) ∧
    (s.pins.vin = true → s.pins.vaux = true → s.pins.resetN = true → s.phase = phService → s.stop = .running →
      ∃ t, exec .vinLoss s = .next t ∧ (s.flag Reg.pairStat 3 = true → t.flag Reg.pairStat 3 = false ∧ t.pendBit 341 = true) ∧
        t.pins.vin = false ∧ t.pins.pwrgood = false ∧ t.cores = [] ∧ t.mem = Mem.reset ∧
        t.stop = (if s.paired then .handed else .vinLoss) ∧
        t.fld Reg.fcCnt 48 16 = if s.pins.powerfail then s.fld Reg.fcCnt 48 16
          else min (s.fld Reg.fcCnt 48 16 + 1) 65535) ∧
    (s.start.pllLocked = true → ∃ t, exec .pllLockLoss s = .next t ∧ t.tsRun = false ∧ t.reg Reg.clkStat = 0 ∧
      0x4B#8 ∈ t.levels ∧ t.ts = s.ts) ∧
    (s.start.pllLocked = false → exec .pllLockLoss s = .next s)) ∧
  (∀ s : State, s.mapsOk = true → s.pins.vaux = true → s.pins.resetN = true → s.pins.powerfail = false →
    s.phase = phService → s.pins.vin = true → ∃ t, exec .powerfailNAssert s = .next t ∧ t.pins.powerfail = true ∧
      t.flag Reg.pwrStat 0 = true ∧ t.flushT0 = some s.ts.toNat ∧
      (s.stop = .running → s.escalated 0x4C = false → t.stop = .pfail) ∧
      (s.role = 1 → s.partnered = true → t.pair.switching = true)) ∧
  (∀ (s : State) (t0 : Nat), s.mapsOk = true → s.flushT0 = some t0 → ∃ t, exec .powerfailFlushDone s = .next t ∧
    t.flag Reg.pwrStat 1 = true ∧ t.fld Reg.pwrStat 32 16 = (s.ts.toNat - t0) / 600 % 65536 ∧ t.flushT0 = none ∧
    t.mem.granDirty = [] ∧ (s.mem.sramErr = [] → s.mem.remapD = [] → ∀ l ∈ s.mem.granDirty, ∀ g,
      s.mem.gran.find l = some g → g.dirty = true →
        ∀ i, i < 8 → (t.mem.dramLine l).getD i Word.raw0 = g.data.getD i Word.raw0)) ∧
  (∀ s : State,
    (s.pins.powerfail = true → s.pair.switching = true →
      exec .powerfailAckTimeout s = .next { s with pair := { s.pair with switching := false } }) ∧
    (s.pins.powerfail = false ∨ s.pair.switching = false → exec .powerfailAckTimeout s = .next s))

/-- R186, R372, R456, R500-R506, R526, R575: the steps of START-UP: its image, its registers, its control store, and the
start of the cores; a step that fails stops it. -/
def Obligations.StartUp : Prop :=
  (∀ s : State, s.mapsOk = true → s.pins.vaux = true → s.phase = phStartup → s.start.s0Ended = false → ∃ t,
    exec .startupS0End s = .next t ∧ t.start.s0Ended = true ∧
      (s.pins.resetN = true → s.pins.vin = true → s.pins.pwrgood = true → s.pins.powerfail = false →
        s.pins.thermtrip = false → s.start.waitPwr = false → s.stop = .running → s.flag Reg.fcStat 3 = false →
        s.step? = 0 → t.step? = 1)) ∧
  (∀ (copyA copyB : Option (List Byte)) (s : State), s.mapsOk = true → s.inStep 1 = true → s.pins.bootsel = 0 →
    ∃ t, exec (.startupS2 copyA copyB) s = .next t ∧ t.tsRun = true ∧ t.ts = 0 ∧
      ((examine s.rom copyA).reason = 0 → t.image = (examine s.rom copyA).recs ∧ t.start.accepted = true ∧ t.step? = 3 ∧
        t.fld Reg.imgStat 8 2 = 1) ∧
      ((examine s.rom copyA).reason ≠ 0 → (examine s.rom copyB).reason = 0 →
        t.image = (examine s.rom copyB).recs ∧ t.start.accepted = true ∧ t.step? = 3 ∧ t.fld Reg.imgStat 8 2 = 2 ∧
        t.flag Reg.imgStat 10 = true) ∧
      ((examine s.rom copyA).reason ≠ 0 → (examine s.rom copyB).reason ≠ 0 → t.stop = .startup ∧ t.step? = 6 ∧
        t.start.accepted = s.start.accepted ∧ t.fld Reg.fcCnt 48 16 = min (s.fld Reg.fcCnt 48 16 + 1) 65535)) ∧
  (∀ (env : S3Env) (s : State), s.mapsOk = true → s.inStep 3 = true → s.start.accepted = true →
    (env.failed = true → ∃ t, exec (.startupS3 env) s = .next t ∧ t.stop = .startup ∧ t.step? = 6) ∧
    (env.failed = false → env.badCores = [] → env.welien = true →
      (List.range 12).all (fun c => env.capacity.getD c 0 == dimmGiB s.image c) = true →
      ∃ t, exec (.startupS3 env) s = .next t ∧ t.step? = 4 ∧ t.stop = .running ∧ t.cores = [] ∧ t.image = s.image ∧
        t.reg Reg.glnCtl = recWord s.image recDevice 0 2 ∧ t.reg Reg.pairDig = pairDigest s.image ∧
        ∀ p, p < 16 → t.reg (Reg.parCores p) = parishWord s.image p 1)) ∧
  (∀ s : State, s.mapsOk = true → s.inStep 4 = true → s.start.s4Done = false →
    (∃ t, exec (.startupS4 false) s = .next t ∧ t.mem = s.mem.placeCopy (imageStore s.image) ∧
      (imageStore s.image ≠ [] → ∀ p, p < 48 → (t.physCore p).ucode = imageStore s.image) ∧ t.start.s4Done = true ∧
      t.step? = if s.paired then 4 else 5) ∧
    (∃ t, exec (.startupS4 true) s = .next t ∧ t.stop = .startup ∧ t.step? = 6)) ∧
  (∀ s : State, s.mapsOk = true →
    (s.paired = false → s.inStep 5 = true → ∃ t, exec .startupS5 s = .next t ∧ t.phase = phService ∧ t.step? = 7 ∧
      t.epoch = 1 ∧ ∀ p ∈ validParishes s.image, ∀ n, n < 46 → s.flag (Reg.parCores p) n = true → s.coreValid n = true →
        (t.core n).run = .running ∧ (t.core n).prim = entryBank s.image (s.parishOf n)
          (coreRank (s.reg (Reg.parCores (s.parishOf n))) n) false) ∧
    (s.paired = true → s.inStep 4 = true → s.start.s4Done = true → s.role = 1 → s.pins.actIn = false →
      ∃ t, exec .startupS5 s = .next t ∧ t.step? = 5 ∧ t.pins.actOut = some true ∧ t.pair.claiming = true))

/-! ### The machine -/

/-- The command at the front of the queue is run on the state with the queue's rest; on an empty queue one SCLK cycle
passes, in which the timestamp counts where it runs and each core that runs executes the instruction that the word at its PC
spells (the model's choice: log 1). R294, R297: a fetch that meets an error in what it reads goes on from the state that this
leaves. -/
def Obligations.StepRunsTheFront : Prop :=
  (∀ (c : Instr) (rest : List Instr) (s : State),
    step { s with pending := c :: rest } = exec c { s with pending := rest }) ∧
  (∀ s : State, s.pending = [] → step s = .next s.tick.runCores ∧ s.tick.runCores.pending = [] ∧
    s.tick.ts = (if s.tsRun then s.ts + 1 else s.ts) ∧ (s.coh.late = [] → s.tick.mem = s.mem) ∧
    ((∀ n, n < 46 → s.tick.runnable n = false) → s.tick.runCores = s.tick)) ∧
  (∀ (n : LCore) (s : State), s.runnable n = true → s.fetchFault n = none →
    (∀ c, decodeWord n (s.wordAtPc n) = some c → exec c s = .next (s.runAtPc n)) ∧
    (decodeWord n (s.wordAtPc n) = none → s.runAtPc n = s.unassigned n)) ∧
  ∀ (n : Nat) (fp ill : State → Bool) (g : Guard) (body : M Unit) (skip : State → State) (s t u : State),
    s.runnable n = true → (∀ b, s.boundary n b = none) → t = s.fetchMeet n → t.waiting = none → t.fetchFault n = none →
    u.waiting = none →
    (ill t = false → (t.cur n).guardOk g = true → body t = .ok () u → s.instr n fp ill g body skip = u) ∧
    (ill t = false → (t.cur n).guardOk g = false → (skip t).retire n = u → s.instr n fp ill g body skip = u) ∧
    (ill t = true → State.faultAt t t n { vec := vIll } = u → s.instr n fp ill g body skip = u)

/-- R8, R18, R493, R383, R549: the state at reset: START-UP, every register at its Reset column, nothing in any store;
its maps are in their form. -/
def Obligations.ResetState : Prop :=
  State.reset.mapsOk = true ∧ State.reset.pending = [] ∧ State.reset.waiting = none ∧ State.reset.phase = phStartup ∧ State.reset.step? = 0 ∧
  State.reset.mem = Mem.reset ∧ State.reset.stop = .running ∧ State.reset.tap.ir = 0xF#4 ∧ State.reset.tap.st = .reset ∧
  State.reset.fld Reg.fcCfg 0 2 = 2 ∧ (∀ c, c < 256 → State.reset.reg (Reg.chSeq c) = 1) ∧
  (∀ off, off ≠ Reg.fcCfg → (∀ c, c < 256 → off ≠ Reg.chSeq c) → State.reset.reg off = 0) ∧
  ∀ n, (State.reset.core n).run = .off ∧ (State.reset.core n).prim.st = 1

/-- Every step that answers a next state keeps every map of the state in its form: each key listed once and in rising
order, and no word of DRAM or the Commons listed that reads as an unlisted one does. -/
def Obligations.EveryStepKeepsTheMaps : Prop :=
  ∀ s t : State, s.mapsOk = true → step s = .next t → t.mapsOk = true

/-- Every command answers a next state, whatever the state: none stops. It changes nothing of the fuses and the mask ROM,
none but the one taken leaves the queue, and what an access has to wait for is known before the step ends: no state
between two commands waits (the model's choice: log 64). -/
def Obligations.FusesAndQueue : Prop :=
  ∀ (c : Instr) (s : State), ∃ t, exec c s = .next t ∧ t.rom = s.rom ∧ t.pending = s.pending ∧
    (s.waiting = none → t.waiting = none)

/-- R473, R474, R478-R480: a fault is captured in its class where no record is held, else counted as an overflow, in whose
record it stands where it is of a lower source and of the same cycle (which commands stand in one cycle is the model's
choice: log 47); an
escalated source is captured and counted as GRAVE as well; a GRAVE fault of a single device in SERVICE stops its units. -/
def Obligations.FaultCollector : Prop :=
  ∀ (f : FaultArg) (s : State) (c : Nat), s.mapsOk = true → c = srcClass f.src → s.escalated f.src = false →
    (c ≠ 3 ∨ s.phase ≠ phStartup) →
    (s.fault f).fld Reg.fcCnt (16 * c) 16 = min (s.fld Reg.fcCnt (16 * c) 16 + 1) 65535 ∧
    (s.flag Reg.fcStat c = false → (s.fault f).flag Reg.fcStat c = true ∧
      (s.fault f).flag Reg.fcStat (4 + c) = s.flag Reg.fcStat (4 + c) ∧
      (s.fault f).reg (Reg.fcAddr c) = BitVec.ofNat 64 (f.pa.getD 0 % 2 ^ 52) ∧
      (s.fault f).reg (Reg.fcTime c) = s.ts ∧
      (f.src < 256 → f.acc < 16 → f.master < 4096 → f.parish.getD 0 < 16 → (s.fault f).fld (Reg.fcInfo c) 56 8 = f.src) ∧ (s.fault f).pendBit (365 + c) = true) ∧
    (s.flag Reg.fcStat c = true → (s.fault f).flag Reg.fcStat (4 + c) = true ∧ (s.fault f).pendBit 369 = true ∧
      (s.fault f).reg (Reg.fcInfo c) = (if s.firstOf c f then fcInfoWord s.phase f else s.reg (Reg.fcInfo c)) ∧
      (s.fault f).reg (Reg.fcAddr c) =
        (if s.firstOf c f then BitVec.ofNat 64 (f.pa.getD 0 % 2 ^ 52) else s.reg (Reg.fcAddr c))) ∧
    (c = 3 → s.phase = phService → s.paired = false → s.role = 0 → s.stop = .running →
      (s.fault f).stop = .grave ∧ (s.fault f).mem = s.mem ∧
        ∀ e ∈ (s.fault f).cores, e.2.run ≠ .running ∧ e.2.run ≠ .idle)

end
end

