-- ==== Sys2Proof/Laws/Map.lean ====
section
/-! SUPPORT. Sparse maps: reading after a write, and that every operation keeps the canonical form. -/

namespace Sys2Proof.Machine

/-! ### Rising keys -/

theorem SMap.risingFrom_weaken {V : Type} {lo lo' : Nat} {m : SMap V} (hl : lo' ≤ lo) (h : SMap.risingFrom lo m = true) :
    SMap.risingFrom lo' m = true := by
  cases m with
  | nil => rfl
  | cons e m =>
    simp only [SMap.risingFrom, Bool.and_eq_true, decide_eq_true_eq] at h ⊢
    exact ⟨Nat.le_trans hl h.1, h.2⟩

theorem SMap.risingFrom_cons {V : Type} {lo j : Nat} {v : V} {m : SMap V} :
    SMap.risingFrom lo ((j, v) :: m) = true ↔ lo ≤ j ∧ SMap.risingFrom (j + 1) m = true := by
  simp [SMap.risingFrom]

/-- A key below every key of the map is not listed. -/
theorem SMap.get_below {V : Type} (d : V) {lo k : Nat} {m : SMap V} (h : SMap.risingFrom lo m = true) (hk : k < lo) :
    SMap.get d m k = d := by
  induction m generalizing lo with
  | nil => rfl
  | cons e m ih =>
    obtain ⟨j, v⟩ := e
    rw [SMap.risingFrom_cons] at h
    simp only [SMap.get, if_neg (show ¬ k = j by omega)]
    exact ih h.2 (by omega)

theorem SMap.find_below {V : Type} {lo k : Nat} {m : SMap V} (h : SMap.risingFrom lo m = true) (hk : k < lo) :
    SMap.find m k = none := by
  induction m generalizing lo with
  | nil => rfl
  | cons e m ih =>
    obtain ⟨j, v⟩ := e
    rw [SMap.risingFrom_cons] at h
    simp only [SMap.find, if_neg (show ¬ k = j by omega)]
    exact ih h.2 (by omega)

/-! ### `set` -/

theorem SMap.risingFrom_set {V : Type} [DecidableEq V] {d v : V} {lo k : Nat} {m : SMap V}
    (h : SMap.risingFrom lo m = true) (hk : lo ≤ k) : SMap.risingFrom lo (SMap.set d m k v) = true := by
  induction m generalizing lo with
  | nil =>
    simp only [SMap.set]
    split
    · rfl
    · simp [SMap.risingFrom, hk]
  | cons e m ih =>
    obtain ⟨j, w⟩ := e
    have h' := SMap.risingFrom_cons.mp h
    simp only [SMap.set]
    split
    · split
      · exact h
      · rw [SMap.risingFrom_cons, SMap.risingFrom_cons]
        exact ⟨hk, by omega, h'.2⟩
    · split
      · split
        · exact SMap.risingFrom_weaken (by omega) h'.2
        · rw [SMap.risingFrom_cons]
          subst k
          exact h'
      · rw [SMap.risingFrom_cons]
        exact ⟨h'.1, ih h'.2 (by omega)⟩

/-- A write keeps the keys rising. -/
theorem SMap.sorted_set {V : Type} [DecidableEq V] {d v : V} {k : Nat} {m : SMap V} (h : SMap.sorted m = true) :
    SMap.sorted (SMap.set d m k v) = true := SMap.risingFrom_set h (Nat.zero_le k)

theorem SMap.all_set {V : Type} [DecidableEq V] {d v : V} {k : Nat} {m : SMap V} {f : Nat × V → Bool}
    (h : m.all f = true) (hv : v ≠ d → f (k, v) = true) : (SMap.set d m k v).all f = true := by
  induction m with
  | nil =>
    simp only [SMap.set]
    split
    · rfl
    · simp [hv ‹_›]
  | cons e m ih =>
    obtain ⟨j, w⟩ := e
    simp only [List.all_cons, Bool.and_eq_true] at h
    simp only [SMap.set]
    split
    · split
      · simp [h.1, h.2]
      · simp [h.1, h.2, hv ‹_›]
    · split
      · split
        · exact h.2
        · simp [h.2, hv ‹_›]
      · simp [h.1, ih h.2]

/-- A write keeps the canonical form. -/
theorem SMap.wf_set {V : Type} [DecidableEq V] {d : Nat → V} {v : V} {k : Nat} {m : SMap V} (h : SMap.wf d m = true) :
    SMap.wf d (SMap.set (d k) m k v) = true := by
  simp only [SMap.wf, Bool.and_eq_true] at h ⊢
  exact ⟨SMap.sorted_set h.1, SMap.all_set h.2 (by simp)⟩

theorem SMap.get_set_rising {V : Type} [DecidableEq V] {d v : V} {k j lo : Nat} {m : SMap V}
    (h : SMap.risingFrom lo m = true) : SMap.get d (SMap.set d m k v) j = if j = k then v else SMap.get d m j := by
  induction m generalizing lo with
  | nil =>
    simp only [SMap.set, SMap.get]
    split
    · simp only [SMap.get]; split <;> simp_all
    · simp only [SMap.get]
  | cons e m ih =>
    obtain ⟨i, w⟩ := e
    have h' := SMap.risingFrom_cons.mp h
    have hb := SMap.get_below d (k := k) h'.2
    simp only [SMap.set]
    split
    · split
      · subst v
        simp only [SMap.get]
        by_cases hj : j = k
        · subst hj; rw [if_neg (by omega), if_pos rfl, hb (by omega)]
        · rw [if_neg hj]
      · simp only [SMap.get]
    · split
      · subst k
        split
        · subst v
          by_cases hj : j = i
          · subst hj; rw [if_pos rfl, hb (by omega)]
          · simp only [SMap.get, if_neg hj]
        · simp only [SMap.get]
          split <;> rfl
      · simp only [SMap.get, ih h'.2]
        by_cases hj : j = i
        · subst hj; rw [if_pos rfl, if_pos rfl, if_neg (by omega)]
        · simp only [if_neg hj]

/-- A read after a write: the value written at its key, what was there before at every other. -/
theorem SMap.get_set {V : Type} [DecidableEq V] {d v : V} {k j : Nat} {m : SMap V} (h : SMap.sorted m = true) :
    SMap.get d (SMap.set d m k v) j = if j = k then v else SMap.get d m j := SMap.get_set_rising h

theorem SMap.get_set_same {V : Type} [DecidableEq V] {d v : V} {k : Nat} {m : SMap V} (h : SMap.sorted m = true) :
    SMap.get d (SMap.set d m k v) k = v := by rw [SMap.get_set h, if_pos rfl]

/-- A write leaves every other key alone, whatever the map and whatever its unlisted keys read. -/
theorem SMap.get_set_any {V : Type} [DecidableEq V] {d d' v : V} {k j : Nat} {m : SMap V} (hj : j ≠ k) :
    SMap.get d' (SMap.set d m k v) j = SMap.get d' m j := by
  induction m with
  | nil =>
    simp only [SMap.set]
    split
    · rfl
    · simp only [SMap.get, if_neg hj]
  | cons e m ih =>
    obtain ⟨i, w⟩ := e
    simp only [SMap.set]
    split
    · split
      · rfl
      · simp only [SMap.get, if_neg hj]
    · split
      · subst k
        split <;> simp only [SMap.get, if_neg hj]
      · simp only [SMap.get, ih]

theorem SMap.get_set_other {V : Type} [DecidableEq V] {d v : V} {k j : Nat} {m : SMap V} (hj : j ≠ k) :
    SMap.get d (SMap.set d m k v) j = SMap.get d m j := SMap.get_set_any hj

/-! ### `ins` and `del` -/

theorem SMap.risingFrom_ins {V : Type} {v : V} {lo k : Nat} {m : SMap V} (h : SMap.risingFrom lo m = true)
    (hk : lo ≤ k) : SMap.risingFrom lo (SMap.ins m k v) = true := by
  induction m generalizing lo with
  | nil => simp [SMap.ins, SMap.risingFrom, hk]
  | cons e m ih =>
    obtain ⟨j, w⟩ := e
    have h' := SMap.risingFrom_cons.mp h
    simp only [SMap.ins]
    split
    · rw [SMap.risingFrom_cons, SMap.risingFrom_cons]
      exact ⟨hk, by omega, h'.2⟩
    · split
      · rw [SMap.risingFrom_cons]
        subst k
        exact h'
      · rw [SMap.risingFrom_cons]
        exact ⟨h'.1, ih h'.2 (by omega)⟩

theorem SMap.sorted_ins {V : Type} {v : V} {k : Nat} {m : SMap V} (h : SMap.sorted m = true) :
    SMap.sorted (SMap.ins m k v) = true := SMap.risingFrom_ins h (Nat.zero_le k)

theorem SMap.risingFrom_del {V : Type} {lo k : Nat} {m : SMap V} (h : SMap.risingFrom lo m = true) :
    SMap.risingFrom lo (SMap.del m k) = true := by
  induction m generalizing lo with
  | nil => rfl
  | cons e m ih =>
    obtain ⟨j, w⟩ := e
    have h' := SMap.risingFrom_cons.mp h
    simp only [SMap.del]
    split
    · exact SMap.risingFrom_weaken (by omega) h'.2
    · rw [SMap.risingFrom_cons]
      exact ⟨h'.1, ih h'.2⟩

theorem SMap.sorted_del {V : Type} {k : Nat} {m : SMap V} (h : SMap.sorted m = true) :
    SMap.sorted (SMap.del m k) = true := SMap.risingFrom_del h

theorem SMap.find_ins {V : Type} {v : V} {k j : Nat} {m : SMap V} :
    SMap.find (SMap.ins m k v) j = if j = k then some v else SMap.find m j := by
  induction m with
  | nil => simp only [SMap.ins, SMap.find]
  | cons e m ih =>
    obtain ⟨i, w⟩ := e
    simp only [SMap.ins]
    split
    · simp only [SMap.find]
    · split
      · subst k
        simp only [SMap.find]
        split <;> rfl
      · simp only [SMap.find, ih]
        by_cases hj : j = i
        · subst hj; rw [if_pos rfl, if_pos rfl, if_neg (by omega)]
        · simp only [if_neg hj]

theorem SMap.find_del {V : Type} {k j : Nat} {m : SMap V} (h : SMap.sorted m = true) :
    SMap.find (SMap.del m k) j = if j = k then none else SMap.find m j := by
  suffices ∀ lo, SMap.risingFrom lo m = true → SMap.find (SMap.del m k) j = if j = k then none else SMap.find m j from
    this 0 h
  clear h
  induction m with
  | nil => intro _ _; simp [SMap.del, SMap.find]
  | cons e m ih =>
    obtain ⟨i, w⟩ := e
    intro lo h
    have h' := SMap.risingFrom_cons.mp h
    simp only [SMap.del]
    split
    · subst k
      by_cases hj : j = i
      · subst hj; rw [if_pos rfl, SMap.find_below h'.2 (by omega)]
      · simp only [SMap.find, if_neg hj]
    · simp only [SMap.find, ih _ h'.2]
      by_cases hj : j = i
      · subst hj; rw [if_pos rfl, if_pos rfl, if_neg (by omega)]
      · simp only [if_neg hj]

/-! ### Filters and maps of values -/

theorem SMap.risingFrom_filter {V : Type} {lo : Nat} {m : SMap V} (f : Nat × V → Bool) (h : SMap.risingFrom lo m = true) :
    SMap.risingFrom lo (m.filter f) = true := by
  induction m generalizing lo with
  | nil => rfl
  | cons e m ih =>
    obtain ⟨j, w⟩ := e
    have h' := SMap.risingFrom_cons.mp h
    simp only [List.filter_cons]
    split
    · rw [SMap.risingFrom_cons]
      exact ⟨h'.1, ih h'.2⟩
    · exact SMap.risingFrom_weaken (by omega) (ih h'.2)

theorem SMap.sorted_filter {V : Type} {m : SMap V} (f : Nat × V → Bool) (h : SMap.sorted m = true) :
    SMap.sorted (m.filter f) = true := SMap.risingFrom_filter f h

theorem SMap.risingFrom_map {V W : Type} {lo : Nat} {m : SMap V} (g : Nat × V → Nat × W) (hg : ∀ e, (g e).1 = e.1)
    (h : SMap.risingFrom lo m = true) : SMap.risingFrom lo (m.map g) = true := by
  induction m generalizing lo with
  | nil => rfl
  | cons e m ih =>
    obtain ⟨j, w⟩ := e
    have h' := SMap.risingFrom_cons.mp h
    have hj := hg (j, w)
    rw [List.map_cons, show g (j, w) = (j, (g (j, w)).2) from Prod.ext hj rfl, SMap.risingFrom_cons]
    exact ⟨h'.1, ih h'.2⟩

theorem SMap.sorted_map {V W : Type} {m : SMap V} (g : Nat × V → Nat × W) (hg : ∀ e, (g e).1 = e.1)
    (h : SMap.sorted m = true) : SMap.sorted (m.map g) = true := SMap.risingFrom_map g hg h

end Sys2Proof.Machine
end

