-- ==== Sys2Proof/Laws/State.lean ====
section
/-! SUPPORT. What each update of the state leaves alone, one lemma a field, and what is read after an update. -/

namespace Sys2Proof.Machine

/-! ### A register is written -/

@[simp] theorem State.setReg_pending (s : State) (off : Nat) (v : Reg64) : (s.setReg off v).pending = s.pending := rfl
@[simp] theorem State.setReg_free (s : State) (off : Nat) (v : Reg64) : (s.setReg off v).free = s.free := rfl
@[simp] theorem State.setReg_cores (s : State) (off : Nat) (v : Reg64) : (s.setReg off v).cores = s.cores := rfl
@[simp] theorem State.setReg_phys (s : State) (off : Nat) (v : Reg64) : (s.setReg off v).phys = s.phys := rfl
@[simp] theorem State.setReg_mem (s : State) (off : Nat) (v : Reg64) : (s.setReg off v).mem = s.mem := rfl
@[simp] theorem State.setReg_coh (s : State) (off : Nat) (v : Reg64) : (s.setReg off v).coh = s.coh := rfl
@[simp] theorem State.setReg_clog (s : State) (off : Nat) (v : Reg64) : (s.setReg off v).clog = s.clog := rfl
@[simp] theorem State.setReg_plog (s : State) (off : Nat) (v : Reg64) : (s.setReg off v).plog = s.plog := rfl
@[simp] theorem State.setReg_io (s : State) (off : Nat) (v : Reg64) : (s.setReg off v).io = s.io := rfl
@[simp] theorem State.setReg_pair (s : State) (off : Nat) (v : Reg64) : (s.setReg off v).pair = s.pair := rfl
@[simp] theorem State.setReg_trace (s : State) (off : Nat) (v : Reg64) : (s.setReg off v).trace = s.trace := rfl
@[simp] theorem State.setReg_tap (s : State) (off : Nat) (v : Reg64) : (s.setReg off v).tap = s.tap := rfl
@[simp] theorem State.setReg_pins (s : State) (off : Nat) (v : Reg64) : (s.setReg off v).pins = s.pins := rfl
@[simp] theorem State.setReg_rom (s : State) (off : Nat) (v : Reg64) : (s.setReg off v).rom = s.rom := rfl
@[simp] theorem State.setReg_start (s : State) (off : Nat) (v : Reg64) : (s.setReg off v).start = s.start := rfl
@[simp] theorem State.setReg_image (s : State) (off : Nat) (v : Reg64) : (s.setReg off v).image = s.image := rfl
@[simp] theorem State.setReg_stop (s : State) (off : Nat) (v : Reg64) : (s.setReg off v).stop = s.stop := rfl
@[simp] theorem State.setReg_ts (s : State) (off : Nat) (v : Reg64) : (s.setReg off v).ts = s.ts := rfl
@[simp] theorem State.setReg_tsRun (s : State) (off : Nat) (v : Reg64) : (s.setReg off v).tsRun = s.tsRun := rfl
@[simp] theorem State.setReg_levels (s : State) (off : Nat) (v : Reg64) : (s.setReg off v).levels = s.levels := rfl
@[simp] theorem State.setReg_badRoutes (s : State) (off : Nat) (v : Reg64) : (s.setReg off v).badRoutes = s.badRoutes := rfl
@[simp] theorem State.setReg_vOut (s : State) (off : Nat) (v : Reg64) : (s.setReg off v).vOut = s.vOut := rfl
@[simp] theorem State.setReg_freshT (s : State) (off : Nat) (v : Reg64) : (s.setReg off v).freshT = s.freshT := rfl
@[simp] theorem State.setReg_freshV (s : State) (off : Nat) (v : Reg64) : (s.setReg off v).freshV = s.freshV := rfl
@[simp] theorem State.setReg_flushT0 (s : State) (off : Nat) (v : Reg64) : (s.setReg off v).flushT0 = s.flushT0 := rfl
@[simp] theorem State.setReg_waiting (s : State) (off : Nat) (v : Reg64) : (s.setReg off v).waiting = s.waiting := rfl
@[simp] theorem State.setReg_i3cOut (s : State) (off : Nat) (v : Reg64) : (s.setReg off v).i3cOut = s.i3cOut := rfl
@[simp] theorem State.setReg_i3cAddr (s : State) (off : Nat) (v : Reg64) : (s.setReg off v).i3cAddr = s.i3cAddr := rfl

/-! ### A field of a register is written -/

@[simp] theorem State.setFld_pending (s : State) (off lo w x : Nat) : (s.setFld off lo w x).pending = s.pending := rfl
@[simp] theorem State.setFld_free (s : State) (off lo w x : Nat) : (s.setFld off lo w x).free = s.free := rfl
@[simp] theorem State.setFld_cores (s : State) (off lo w x : Nat) : (s.setFld off lo w x).cores = s.cores := rfl
@[simp] theorem State.setFld_phys (s : State) (off lo w x : Nat) : (s.setFld off lo w x).phys = s.phys := rfl
@[simp] theorem State.setFld_mem (s : State) (off lo w x : Nat) : (s.setFld off lo w x).mem = s.mem := rfl
@[simp] theorem State.setFld_coh (s : State) (off lo w x : Nat) : (s.setFld off lo w x).coh = s.coh := rfl
@[simp] theorem State.setFld_clog (s : State) (off lo w x : Nat) : (s.setFld off lo w x).clog = s.clog := rfl
@[simp] theorem State.setFld_plog (s : State) (off lo w x : Nat) : (s.setFld off lo w x).plog = s.plog := rfl
@[simp] theorem State.setFld_io (s : State) (off lo w x : Nat) : (s.setFld off lo w x).io = s.io := rfl
@[simp] theorem State.setFld_pair (s : State) (off lo w x : Nat) : (s.setFld off lo w x).pair = s.pair := rfl
@[simp] theorem State.setFld_trace (s : State) (off lo w x : Nat) : (s.setFld off lo w x).trace = s.trace := rfl
@[simp] theorem State.setFld_tap (s : State) (off lo w x : Nat) : (s.setFld off lo w x).tap = s.tap := rfl
@[simp] theorem State.setFld_pins (s : State) (off lo w x : Nat) : (s.setFld off lo w x).pins = s.pins := rfl
@[simp] theorem State.setFld_rom (s : State) (off lo w x : Nat) : (s.setFld off lo w x).rom = s.rom := rfl
@[simp] theorem State.setFld_start (s : State) (off lo w x : Nat) : (s.setFld off lo w x).start = s.start := rfl
@[simp] theorem State.setFld_image (s : State) (off lo w x : Nat) : (s.setFld off lo w x).image = s.image := rfl
@[simp] theorem State.setFld_stop (s : State) (off lo w x : Nat) : (s.setFld off lo w x).stop = s.stop := rfl
@[simp] theorem State.setFld_ts (s : State) (off lo w x : Nat) : (s.setFld off lo w x).ts = s.ts := rfl
@[simp] theorem State.setFld_tsRun (s : State) (off lo w x : Nat) : (s.setFld off lo w x).tsRun = s.tsRun := rfl
@[simp] theorem State.setFld_levels (s : State) (off lo w x : Nat) : (s.setFld off lo w x).levels = s.levels := rfl
@[simp] theorem State.setFld_badRoutes (s : State) (off lo w x : Nat) : (s.setFld off lo w x).badRoutes = s.badRoutes := rfl
@[simp] theorem State.setFld_vOut (s : State) (off lo w x : Nat) : (s.setFld off lo w x).vOut = s.vOut := rfl
@[simp] theorem State.setFld_freshT (s : State) (off lo w x : Nat) : (s.setFld off lo w x).freshT = s.freshT := rfl
@[simp] theorem State.setFld_freshV (s : State) (off lo w x : Nat) : (s.setFld off lo w x).freshV = s.freshV := rfl
@[simp] theorem State.setFld_flushT0 (s : State) (off lo w x : Nat) : (s.setFld off lo w x).flushT0 = s.flushT0 := rfl
@[simp] theorem State.setFld_waiting (s : State) (off lo w x : Nat) : (s.setFld off lo w x).waiting = s.waiting := rfl
@[simp] theorem State.setFld_i3cOut (s : State) (off lo w x : Nat) : (s.setFld off lo w x).i3cOut = s.i3cOut := rfl
@[simp] theorem State.setFld_i3cAddr (s : State) (off lo w x : Nat) : (s.setFld off lo w x).i3cAddr = s.i3cAddr := rfl

/-! ### A bit of a register is written -/

@[simp] theorem State.setFlag_pending (s : State) (off i : Nat) (b : Bool) : (s.setFlag off i b).pending = s.pending := rfl
@[simp] theorem State.setFlag_free (s : State) (off i : Nat) (b : Bool) : (s.setFlag off i b).free = s.free := rfl
@[simp] theorem State.setFlag_cores (s : State) (off i : Nat) (b : Bool) : (s.setFlag off i b).cores = s.cores := rfl
@[simp] theorem State.setFlag_phys (s : State) (off i : Nat) (b : Bool) : (s.setFlag off i b).phys = s.phys := rfl
@[simp] theorem State.setFlag_mem (s : State) (off i : Nat) (b : Bool) : (s.setFlag off i b).mem = s.mem := rfl
@[simp] theorem State.setFlag_coh (s : State) (off i : Nat) (b : Bool) : (s.setFlag off i b).coh = s.coh := rfl
@[simp] theorem State.setFlag_clog (s : State) (off i : Nat) (b : Bool) : (s.setFlag off i b).clog = s.clog := rfl
@[simp] theorem State.setFlag_plog (s : State) (off i : Nat) (b : Bool) : (s.setFlag off i b).plog = s.plog := rfl
@[simp] theorem State.setFlag_io (s : State) (off i : Nat) (b : Bool) : (s.setFlag off i b).io = s.io := rfl
@[simp] theorem State.setFlag_pair (s : State) (off i : Nat) (b : Bool) : (s.setFlag off i b).pair = s.pair := rfl
@[simp] theorem State.setFlag_trace (s : State) (off i : Nat) (b : Bool) : (s.setFlag off i b).trace = s.trace := rfl
@[simp] theorem State.setFlag_tap (s : State) (off i : Nat) (b : Bool) : (s.setFlag off i b).tap = s.tap := rfl
@[simp] theorem State.setFlag_pins (s : State) (off i : Nat) (b : Bool) : (s.setFlag off i b).pins = s.pins := rfl
@[simp] theorem State.setFlag_rom (s : State) (off i : Nat) (b : Bool) : (s.setFlag off i b).rom = s.rom := rfl
@[simp] theorem State.setFlag_start (s : State) (off i : Nat) (b : Bool) : (s.setFlag off i b).start = s.start := rfl
@[simp] theorem State.setFlag_image (s : State) (off i : Nat) (b : Bool) : (s.setFlag off i b).image = s.image := rfl
@[simp] theorem State.setFlag_stop (s : State) (off i : Nat) (b : Bool) : (s.setFlag off i b).stop = s.stop := rfl
@[simp] theorem State.setFlag_ts (s : State) (off i : Nat) (b : Bool) : (s.setFlag off i b).ts = s.ts := rfl
@[simp] theorem State.setFlag_tsRun (s : State) (off i : Nat) (b : Bool) : (s.setFlag off i b).tsRun = s.tsRun := rfl
@[simp] theorem State.setFlag_levels (s : State) (off i : Nat) (b : Bool) : (s.setFlag off i b).levels = s.levels := rfl
@[simp] theorem State.setFlag_badRoutes (s : State) (off i : Nat) (b : Bool) : (s.setFlag off i b).badRoutes = s.badRoutes := rfl
@[simp] theorem State.setFlag_vOut (s : State) (off i : Nat) (b : Bool) : (s.setFlag off i b).vOut = s.vOut := rfl
@[simp] theorem State.setFlag_freshT (s : State) (off i : Nat) (b : Bool) : (s.setFlag off i b).freshT = s.freshT := rfl
@[simp] theorem State.setFlag_freshV (s : State) (off i : Nat) (b : Bool) : (s.setFlag off i b).freshV = s.freshV := rfl
@[simp] theorem State.setFlag_flushT0 (s : State) (off i : Nat) (b : Bool) : (s.setFlag off i b).flushT0 = s.flushT0 := rfl
@[simp] theorem State.setFlag_waiting (s : State) (off i : Nat) (b : Bool) : (s.setFlag off i b).waiting = s.waiting := rfl
@[simp] theorem State.setFlag_i3cOut (s : State) (off i : Nat) (b : Bool) : (s.setFlag off i b).i3cOut = s.i3cOut := rfl
@[simp] theorem State.setFlag_i3cAddr (s : State) (off i : Nat) (b : Bool) : (s.setFlag off i b).i3cAddr = s.i3cAddr := rfl

/-! ### A counter field that stops at its highest value -/

@[simp] theorem State.countSat_pending (s : State) (off lo w : Nat) : (s.countSat off lo w).pending = s.pending := rfl
@[simp] theorem State.countSat_free (s : State) (off lo w : Nat) : (s.countSat off lo w).free = s.free := rfl
@[simp] theorem State.countSat_cores (s : State) (off lo w : Nat) : (s.countSat off lo w).cores = s.cores := rfl
@[simp] theorem State.countSat_phys (s : State) (off lo w : Nat) : (s.countSat off lo w).phys = s.phys := rfl
@[simp] theorem State.countSat_mem (s : State) (off lo w : Nat) : (s.countSat off lo w).mem = s.mem := rfl
@[simp] theorem State.countSat_coh (s : State) (off lo w : Nat) : (s.countSat off lo w).coh = s.coh := rfl
@[simp] theorem State.countSat_clog (s : State) (off lo w : Nat) : (s.countSat off lo w).clog = s.clog := rfl
@[simp] theorem State.countSat_plog (s : State) (off lo w : Nat) : (s.countSat off lo w).plog = s.plog := rfl
@[simp] theorem State.countSat_io (s : State) (off lo w : Nat) : (s.countSat off lo w).io = s.io := rfl
@[simp] theorem State.countSat_pair (s : State) (off lo w : Nat) : (s.countSat off lo w).pair = s.pair := rfl
@[simp] theorem State.countSat_trace (s : State) (off lo w : Nat) : (s.countSat off lo w).trace = s.trace := rfl
@[simp] theorem State.countSat_tap (s : State) (off lo w : Nat) : (s.countSat off lo w).tap = s.tap := rfl
@[simp] theorem State.countSat_pins (s : State) (off lo w : Nat) : (s.countSat off lo w).pins = s.pins := rfl
@[simp] theorem State.countSat_rom (s : State) (off lo w : Nat) : (s.countSat off lo w).rom = s.rom := rfl
@[simp] theorem State.countSat_start (s : State) (off lo w : Nat) : (s.countSat off lo w).start = s.start := rfl
@[simp] theorem State.countSat_image (s : State) (off lo w : Nat) : (s.countSat off lo w).image = s.image := rfl
@[simp] theorem State.countSat_stop (s : State) (off lo w : Nat) : (s.countSat off lo w).stop = s.stop := rfl
@[simp] theorem State.countSat_ts (s : State) (off lo w : Nat) : (s.countSat off lo w).ts = s.ts := rfl
@[simp] theorem State.countSat_tsRun (s : State) (off lo w : Nat) : (s.countSat off lo w).tsRun = s.tsRun := rfl
@[simp] theorem State.countSat_levels (s : State) (off lo w : Nat) : (s.countSat off lo w).levels = s.levels := rfl
@[simp] theorem State.countSat_badRoutes (s : State) (off lo w : Nat) : (s.countSat off lo w).badRoutes = s.badRoutes := rfl
@[simp] theorem State.countSat_vOut (s : State) (off lo w : Nat) : (s.countSat off lo w).vOut = s.vOut := rfl
@[simp] theorem State.countSat_freshT (s : State) (off lo w : Nat) : (s.countSat off lo w).freshT = s.freshT := rfl
@[simp] theorem State.countSat_freshV (s : State) (off lo w : Nat) : (s.countSat off lo w).freshV = s.freshV := rfl
@[simp] theorem State.countSat_flushT0 (s : State) (off lo w : Nat) : (s.countSat off lo w).flushT0 = s.flushT0 := rfl
@[simp] theorem State.countSat_waiting (s : State) (off lo w : Nat) : (s.countSat off lo w).waiting = s.waiting := rfl
@[simp] theorem State.countSat_i3cOut (s : State) (off lo w : Nat) : (s.countSat off lo w).i3cOut = s.i3cOut := rfl
@[simp] theorem State.countSat_i3cAddr (s : State) (off lo w : Nat) : (s.countSat off lo w).i3cAddr = s.i3cAddr := rfl

/-! ### A counter field that wraps -/

@[simp] theorem State.countMod_pending (s : State) (off lo w : Nat) : (s.countMod off lo w).pending = s.pending := rfl
@[simp] theorem State.countMod_free (s : State) (off lo w : Nat) : (s.countMod off lo w).free = s.free := rfl
@[simp] theorem State.countMod_cores (s : State) (off lo w : Nat) : (s.countMod off lo w).cores = s.cores := rfl
@[simp] theorem State.countMod_phys (s : State) (off lo w : Nat) : (s.countMod off lo w).phys = s.phys := rfl
@[simp] theorem State.countMod_mem (s : State) (off lo w : Nat) : (s.countMod off lo w).mem = s.mem := rfl
@[simp] theorem State.countMod_coh (s : State) (off lo w : Nat) : (s.countMod off lo w).coh = s.coh := rfl
@[simp] theorem State.countMod_clog (s : State) (off lo w : Nat) : (s.countMod off lo w).clog = s.clog := rfl
@[simp] theorem State.countMod_plog (s : State) (off lo w : Nat) : (s.countMod off lo w).plog = s.plog := rfl
@[simp] theorem State.countMod_io (s : State) (off lo w : Nat) : (s.countMod off lo w).io = s.io := rfl
@[simp] theorem State.countMod_pair (s : State) (off lo w : Nat) : (s.countMod off lo w).pair = s.pair := rfl
@[simp] theorem State.countMod_trace (s : State) (off lo w : Nat) : (s.countMod off lo w).trace = s.trace := rfl
@[simp] theorem State.countMod_tap (s : State) (off lo w : Nat) : (s.countMod off lo w).tap = s.tap := rfl
@[simp] theorem State.countMod_pins (s : State) (off lo w : Nat) : (s.countMod off lo w).pins = s.pins := rfl
@[simp] theorem State.countMod_rom (s : State) (off lo w : Nat) : (s.countMod off lo w).rom = s.rom := rfl
@[simp] theorem State.countMod_start (s : State) (off lo w : Nat) : (s.countMod off lo w).start = s.start := rfl
@[simp] theorem State.countMod_image (s : State) (off lo w : Nat) : (s.countMod off lo w).image = s.image := rfl
@[simp] theorem State.countMod_stop (s : State) (off lo w : Nat) : (s.countMod off lo w).stop = s.stop := rfl
@[simp] theorem State.countMod_ts (s : State) (off lo w : Nat) : (s.countMod off lo w).ts = s.ts := rfl
@[simp] theorem State.countMod_tsRun (s : State) (off lo w : Nat) : (s.countMod off lo w).tsRun = s.tsRun := rfl
@[simp] theorem State.countMod_levels (s : State) (off lo w : Nat) : (s.countMod off lo w).levels = s.levels := rfl
@[simp] theorem State.countMod_badRoutes (s : State) (off lo w : Nat) : (s.countMod off lo w).badRoutes = s.badRoutes := rfl
@[simp] theorem State.countMod_vOut (s : State) (off lo w : Nat) : (s.countMod off lo w).vOut = s.vOut := rfl
@[simp] theorem State.countMod_freshT (s : State) (off lo w : Nat) : (s.countMod off lo w).freshT = s.freshT := rfl
@[simp] theorem State.countMod_freshV (s : State) (off lo w : Nat) : (s.countMod off lo w).freshV = s.freshV := rfl
@[simp] theorem State.countMod_flushT0 (s : State) (off lo w : Nat) : (s.countMod off lo w).flushT0 = s.flushT0 := rfl
@[simp] theorem State.countMod_waiting (s : State) (off lo w : Nat) : (s.countMod off lo w).waiting = s.waiting := rfl
@[simp] theorem State.countMod_i3cOut (s : State) (off lo w : Nat) : (s.countMod off lo w).i3cOut = s.i3cOut := rfl
@[simp] theorem State.countMod_i3cAddr (s : State) (off lo w : Nat) : (s.countMod off lo w).i3cAddr = s.i3cAddr := rfl

/-! ### The phase -/

@[simp] theorem State.setPhase_pending (s : State) (p : Nat) : (s.setPhase p).pending = s.pending := rfl
@[simp] theorem State.setPhase_free (s : State) (p : Nat) : (s.setPhase p).free = s.free := rfl
@[simp] theorem State.setPhase_cores (s : State) (p : Nat) : (s.setPhase p).cores = s.cores := rfl
@[simp] theorem State.setPhase_phys (s : State) (p : Nat) : (s.setPhase p).phys = s.phys := rfl
@[simp] theorem State.setPhase_mem (s : State) (p : Nat) : (s.setPhase p).mem = s.mem := rfl
@[simp] theorem State.setPhase_coh (s : State) (p : Nat) : (s.setPhase p).coh = s.coh := rfl
@[simp] theorem State.setPhase_clog (s : State) (p : Nat) : (s.setPhase p).clog = s.clog := rfl
@[simp] theorem State.setPhase_plog (s : State) (p : Nat) : (s.setPhase p).plog = s.plog := rfl
@[simp] theorem State.setPhase_io (s : State) (p : Nat) : (s.setPhase p).io = s.io := rfl
@[simp] theorem State.setPhase_pair (s : State) (p : Nat) : (s.setPhase p).pair = s.pair := rfl
@[simp] theorem State.setPhase_trace (s : State) (p : Nat) : (s.setPhase p).trace = s.trace := rfl
@[simp] theorem State.setPhase_tap (s : State) (p : Nat) : (s.setPhase p).tap = s.tap := rfl
@[simp] theorem State.setPhase_pins (s : State) (p : Nat) : (s.setPhase p).pins = s.pins := rfl
@[simp] theorem State.setPhase_rom (s : State) (p : Nat) : (s.setPhase p).rom = s.rom := rfl
@[simp] theorem State.setPhase_start (s : State) (p : Nat) : (s.setPhase p).start = s.start := rfl
@[simp] theorem State.setPhase_image (s : State) (p : Nat) : (s.setPhase p).image = s.image := rfl
@[simp] theorem State.setPhase_stop (s : State) (p : Nat) : (s.setPhase p).stop = s.stop := rfl
@[simp] theorem State.setPhase_ts (s : State) (p : Nat) : (s.setPhase p).ts = s.ts := rfl
@[simp] theorem State.setPhase_tsRun (s : State) (p : Nat) : (s.setPhase p).tsRun = s.tsRun := rfl
@[simp] theorem State.setPhase_levels (s : State) (p : Nat) : (s.setPhase p).levels = s.levels := rfl
@[simp] theorem State.setPhase_badRoutes (s : State) (p : Nat) : (s.setPhase p).badRoutes = s.badRoutes := rfl
@[simp] theorem State.setPhase_vOut (s : State) (p : Nat) : (s.setPhase p).vOut = s.vOut := rfl
@[simp] theorem State.setPhase_freshT (s : State) (p : Nat) : (s.setPhase p).freshT = s.freshT := rfl
@[simp] theorem State.setPhase_freshV (s : State) (p : Nat) : (s.setPhase p).freshV = s.freshV := rfl
@[simp] theorem State.setPhase_flushT0 (s : State) (p : Nat) : (s.setPhase p).flushT0 = s.flushT0 := rfl
@[simp] theorem State.setPhase_waiting (s : State) (p : Nat) : (s.setPhase p).waiting = s.waiting := rfl
@[simp] theorem State.setPhase_i3cOut (s : State) (p : Nat) : (s.setPhase p).i3cOut = s.i3cOut := rfl
@[simp] theorem State.setPhase_i3cAddr (s : State) (p : Nat) : (s.setPhase p).i3cAddr = s.i3cAddr := rfl

/-! ### A logical core -/

@[simp] theorem State.setCore_pending (s : State) (n : Nat) (c : Core) : (s.setCore n c).pending = s.pending := rfl
@[simp] theorem State.setCore_free (s : State) (n : Nat) (c : Core) : (s.setCore n c).free = s.free := rfl
@[simp] theorem State.setCore_regs (s : State) (n : Nat) (c : Core) : (s.setCore n c).regs = s.regs := rfl
@[simp] theorem State.setCore_phys (s : State) (n : Nat) (c : Core) : (s.setCore n c).phys = s.phys := rfl
@[simp] theorem State.setCore_mem (s : State) (n : Nat) (c : Core) : (s.setCore n c).mem = s.mem := rfl
@[simp] theorem State.setCore_coh (s : State) (n : Nat) (c : Core) : (s.setCore n c).coh = s.coh := rfl
@[simp] theorem State.setCore_clog (s : State) (n : Nat) (c : Core) : (s.setCore n c).clog = s.clog := rfl
@[simp] theorem State.setCore_plog (s : State) (n : Nat) (c : Core) : (s.setCore n c).plog = s.plog := rfl
@[simp] theorem State.setCore_io (s : State) (n : Nat) (c : Core) : (s.setCore n c).io = s.io := rfl
@[simp] theorem State.setCore_pair (s : State) (n : Nat) (c : Core) : (s.setCore n c).pair = s.pair := rfl
@[simp] theorem State.setCore_trace (s : State) (n : Nat) (c : Core) : (s.setCore n c).trace = s.trace := rfl
@[simp] theorem State.setCore_tap (s : State) (n : Nat) (c : Core) : (s.setCore n c).tap = s.tap := rfl
@[simp] theorem State.setCore_pins (s : State) (n : Nat) (c : Core) : (s.setCore n c).pins = s.pins := rfl
@[simp] theorem State.setCore_rom (s : State) (n : Nat) (c : Core) : (s.setCore n c).rom = s.rom := rfl
@[simp] theorem State.setCore_start (s : State) (n : Nat) (c : Core) : (s.setCore n c).start = s.start := rfl
@[simp] theorem State.setCore_image (s : State) (n : Nat) (c : Core) : (s.setCore n c).image = s.image := rfl
@[simp] theorem State.setCore_stop (s : State) (n : Nat) (c : Core) : (s.setCore n c).stop = s.stop := rfl
@[simp] theorem State.setCore_ts (s : State) (n : Nat) (c : Core) : (s.setCore n c).ts = s.ts := rfl
@[simp] theorem State.setCore_tsRun (s : State) (n : Nat) (c : Core) : (s.setCore n c).tsRun = s.tsRun := rfl
@[simp] theorem State.setCore_levels (s : State) (n : Nat) (c : Core) : (s.setCore n c).levels = s.levels := rfl
@[simp] theorem State.setCore_badRoutes (s : State) (n : Nat) (c : Core) : (s.setCore n c).badRoutes = s.badRoutes := rfl
@[simp] theorem State.setCore_vOut (s : State) (n : Nat) (c : Core) : (s.setCore n c).vOut = s.vOut := rfl
@[simp] theorem State.setCore_freshT (s : State) (n : Nat) (c : Core) : (s.setCore n c).freshT = s.freshT := rfl
@[simp] theorem State.setCore_freshV (s : State) (n : Nat) (c : Core) : (s.setCore n c).freshV = s.freshV := rfl
@[simp] theorem State.setCore_flushT0 (s : State) (n : Nat) (c : Core) : (s.setCore n c).flushT0 = s.flushT0 := rfl
@[simp] theorem State.setCore_waiting (s : State) (n : Nat) (c : Core) : (s.setCore n c).waiting = s.waiting := rfl
@[simp] theorem State.setCore_i3cOut (s : State) (n : Nat) (c : Core) : (s.setCore n c).i3cOut = s.i3cOut := rfl
@[simp] theorem State.setCore_i3cAddr (s : State) (n : Nat) (c : Core) : (s.setCore n c).i3cAddr = s.i3cAddr := rfl

/-! ### A physical core -/

@[simp] theorem State.setPhys_pending (s : State) (n : Nat) (c : PhysCore) : (s.setPhys n c).pending = s.pending := rfl
@[simp] theorem State.setPhys_free (s : State) (n : Nat) (c : PhysCore) : (s.setPhys n c).free = s.free := rfl
@[simp] theorem State.setPhys_regs (s : State) (n : Nat) (c : PhysCore) : (s.setPhys n c).regs = s.regs := rfl
@[simp] theorem State.setPhys_cores (s : State) (n : Nat) (c : PhysCore) : (s.setPhys n c).cores = s.cores := rfl
@[simp] theorem State.setPhys_mem (s : State) (n : Nat) (c : PhysCore) : (s.setPhys n c).mem = s.mem := rfl
@[simp] theorem State.setPhys_coh (s : State) (n : Nat) (c : PhysCore) : (s.setPhys n c).coh = s.coh := rfl
@[simp] theorem State.setPhys_clog (s : State) (n : Nat) (c : PhysCore) : (s.setPhys n c).clog = s.clog := rfl
@[simp] theorem State.setPhys_plog (s : State) (n : Nat) (c : PhysCore) : (s.setPhys n c).plog = s.plog := rfl
@[simp] theorem State.setPhys_io (s : State) (n : Nat) (c : PhysCore) : (s.setPhys n c).io = s.io := rfl
@[simp] theorem State.setPhys_pair (s : State) (n : Nat) (c : PhysCore) : (s.setPhys n c).pair = s.pair := rfl
@[simp] theorem State.setPhys_trace (s : State) (n : Nat) (c : PhysCore) : (s.setPhys n c).trace = s.trace := rfl
@[simp] theorem State.setPhys_tap (s : State) (n : Nat) (c : PhysCore) : (s.setPhys n c).tap = s.tap := rfl
@[simp] theorem State.setPhys_pins (s : State) (n : Nat) (c : PhysCore) : (s.setPhys n c).pins = s.pins := rfl
@[simp] theorem State.setPhys_rom (s : State) (n : Nat) (c : PhysCore) : (s.setPhys n c).rom = s.rom := rfl
@[simp] theorem State.setPhys_start (s : State) (n : Nat) (c : PhysCore) : (s.setPhys n c).start = s.start := rfl
@[simp] theorem State.setPhys_image (s : State) (n : Nat) (c : PhysCore) : (s.setPhys n c).image = s.image := rfl
@[simp] theorem State.setPhys_stop (s : State) (n : Nat) (c : PhysCore) : (s.setPhys n c).stop = s.stop := rfl
@[simp] theorem State.setPhys_ts (s : State) (n : Nat) (c : PhysCore) : (s.setPhys n c).ts = s.ts := rfl
@[simp] theorem State.setPhys_tsRun (s : State) (n : Nat) (c : PhysCore) : (s.setPhys n c).tsRun = s.tsRun := rfl
@[simp] theorem State.setPhys_levels (s : State) (n : Nat) (c : PhysCore) : (s.setPhys n c).levels = s.levels := rfl
@[simp] theorem State.setPhys_badRoutes (s : State) (n : Nat) (c : PhysCore) : (s.setPhys n c).badRoutes = s.badRoutes := rfl
@[simp] theorem State.setPhys_vOut (s : State) (n : Nat) (c : PhysCore) : (s.setPhys n c).vOut = s.vOut := rfl
@[simp] theorem State.setPhys_freshT (s : State) (n : Nat) (c : PhysCore) : (s.setPhys n c).freshT = s.freshT := rfl
@[simp] theorem State.setPhys_freshV (s : State) (n : Nat) (c : PhysCore) : (s.setPhys n c).freshV = s.freshV := rfl
@[simp] theorem State.setPhys_flushT0 (s : State) (n : Nat) (c : PhysCore) : (s.setPhys n c).flushT0 = s.flushT0 := rfl
@[simp] theorem State.setPhys_waiting (s : State) (n : Nat) (c : PhysCore) : (s.setPhys n c).waiting = s.waiting := rfl
@[simp] theorem State.setPhys_i3cOut (s : State) (n : Nat) (c : PhysCore) : (s.setPhys n c).i3cOut = s.i3cOut := rfl
@[simp] theorem State.setPhys_i3cAddr (s : State) (n : Nat) (c : PhysCore) : (s.setPhys n c).i3cAddr = s.i3cAddr := rfl

/-! ### The model's counter of open values -/

@[simp] theorem State.fresh_pending (s : State) : s.fresh.pending = s.pending := rfl
@[simp] theorem State.fresh_regs (s : State) : s.fresh.regs = s.regs := rfl
@[simp] theorem State.fresh_cores (s : State) : s.fresh.cores = s.cores := rfl
@[simp] theorem State.fresh_phys (s : State) : s.fresh.phys = s.phys := rfl
@[simp] theorem State.fresh_mem (s : State) : s.fresh.mem = s.mem := rfl
@[simp] theorem State.fresh_coh (s : State) : s.fresh.coh = s.coh := rfl
@[simp] theorem State.fresh_clog (s : State) : s.fresh.clog = s.clog := rfl
@[simp] theorem State.fresh_plog (s : State) : s.fresh.plog = s.plog := rfl
@[simp] theorem State.fresh_io (s : State) : s.fresh.io = s.io := rfl
@[simp] theorem State.fresh_pair (s : State) : s.fresh.pair = s.pair := rfl
@[simp] theorem State.fresh_trace (s : State) : s.fresh.trace = s.trace := rfl
@[simp] theorem State.fresh_tap (s : State) : s.fresh.tap = s.tap := rfl
@[simp] theorem State.fresh_pins (s : State) : s.fresh.pins = s.pins := rfl
@[simp] theorem State.fresh_rom (s : State) : s.fresh.rom = s.rom := rfl
@[simp] theorem State.fresh_start (s : State) : s.fresh.start = s.start := rfl
@[simp] theorem State.fresh_image (s : State) : s.fresh.image = s.image := rfl
@[simp] theorem State.fresh_stop (s : State) : s.fresh.stop = s.stop := rfl
@[simp] theorem State.fresh_ts (s : State) : s.fresh.ts = s.ts := rfl
@[simp] theorem State.fresh_tsRun (s : State) : s.fresh.tsRun = s.tsRun := rfl
@[simp] theorem State.fresh_levels (s : State) : s.fresh.levels = s.levels := rfl
@[simp] theorem State.fresh_badRoutes (s : State) : s.fresh.badRoutes = s.badRoutes := rfl
@[simp] theorem State.fresh_vOut (s : State) : s.fresh.vOut = s.vOut := rfl
@[simp] theorem State.fresh_freshT (s : State) : s.fresh.freshT = s.freshT := rfl
@[simp] theorem State.fresh_freshV (s : State) : s.fresh.freshV = s.freshV := rfl
@[simp] theorem State.fresh_flushT0 (s : State) : s.fresh.flushT0 = s.flushT0 := rfl
@[simp] theorem State.fresh_waiting (s : State) : s.fresh.waiting = s.waiting := rfl
@[simp] theorem State.fresh_i3cOut (s : State) : s.fresh.i3cOut = s.i3cOut := rfl
@[simp] theorem State.fresh_i3cAddr (s : State) : s.fresh.i3cAddr = s.i3cAddr := rfl

/-! ### A channel -/

@[simp] theorem State.setChan_pending (s : State) (c : Nat) (v : ChanState) : (s.setChan c v).pending = s.pending := rfl
@[simp] theorem State.setChan_free (s : State) (c : Nat) (v : ChanState) : (s.setChan c v).free = s.free := rfl
@[simp] theorem State.setChan_regs (s : State) (c : Nat) (v : ChanState) : (s.setChan c v).regs = s.regs := rfl
@[simp] theorem State.setChan_cores (s : State) (c : Nat) (v : ChanState) : (s.setChan c v).cores = s.cores := rfl
@[simp] theorem State.setChan_phys (s : State) (c : Nat) (v : ChanState) : (s.setChan c v).phys = s.phys := rfl
@[simp] theorem State.setChan_mem (s : State) (c : Nat) (v : ChanState) : (s.setChan c v).mem = s.mem := rfl
@[simp] theorem State.setChan_coh (s : State) (c : Nat) (v : ChanState) : (s.setChan c v).coh = s.coh := rfl
@[simp] theorem State.setChan_clog (s : State) (c : Nat) (v : ChanState) : (s.setChan c v).clog = s.clog := rfl
@[simp] theorem State.setChan_plog (s : State) (c : Nat) (v : ChanState) : (s.setChan c v).plog = s.plog := rfl
@[simp] theorem State.setChan_pair (s : State) (c : Nat) (v : ChanState) : (s.setChan c v).pair = s.pair := rfl
@[simp] theorem State.setChan_trace (s : State) (c : Nat) (v : ChanState) : (s.setChan c v).trace = s.trace := rfl
@[simp] theorem State.setChan_tap (s : State) (c : Nat) (v : ChanState) : (s.setChan c v).tap = s.tap := rfl
@[simp] theorem State.setChan_pins (s : State) (c : Nat) (v : ChanState) : (s.setChan c v).pins = s.pins := rfl
@[simp] theorem State.setChan_rom (s : State) (c : Nat) (v : ChanState) : (s.setChan c v).rom = s.rom := rfl
@[simp] theorem State.setChan_start (s : State) (c : Nat) (v : ChanState) : (s.setChan c v).start = s.start := rfl
@[simp] theorem State.setChan_image (s : State) (c : Nat) (v : ChanState) : (s.setChan c v).image = s.image := rfl
@[simp] theorem State.setChan_stop (s : State) (c : Nat) (v : ChanState) : (s.setChan c v).stop = s.stop := rfl
@[simp] theorem State.setChan_ts (s : State) (c : Nat) (v : ChanState) : (s.setChan c v).ts = s.ts := rfl
@[simp] theorem State.setChan_tsRun (s : State) (c : Nat) (v : ChanState) : (s.setChan c v).tsRun = s.tsRun := rfl
@[simp] theorem State.setChan_levels (s : State) (c : Nat) (v : ChanState) : (s.setChan c v).levels = s.levels := rfl
@[simp] theorem State.setChan_badRoutes (s : State) (c : Nat) (v : ChanState) : (s.setChan c v).badRoutes = s.badRoutes := rfl
@[simp] theorem State.setChan_vOut (s : State) (c : Nat) (v : ChanState) : (s.setChan c v).vOut = s.vOut := rfl
@[simp] theorem State.setChan_freshT (s : State) (c : Nat) (v : ChanState) : (s.setChan c v).freshT = s.freshT := rfl
@[simp] theorem State.setChan_freshV (s : State) (c : Nat) (v : ChanState) : (s.setChan c v).freshV = s.freshV := rfl
@[simp] theorem State.setChan_flushT0 (s : State) (c : Nat) (v : ChanState) : (s.setChan c v).flushT0 = s.flushT0 := rfl
@[simp] theorem State.setChan_waiting (s : State) (c : Nat) (v : ChanState) : (s.setChan c v).waiting = s.waiting := rfl
@[simp] theorem State.setChan_i3cOut (s : State) (c : Nat) (v : ChanState) : (s.setChan c v).i3cOut = s.i3cOut := rfl
@[simp] theorem State.setChan_i3cAddr (s : State) (c : Nat) (v : ChanState) : (s.setChan c v).i3cAddr = s.i3cAddr := rfl

/-! ### A compression instance -/

@[simp] theorem State.setCompInst_pending (s : State) (i : Nat) (v : InstState) : (s.setCompInst i v).pending = s.pending := rfl
@[simp] theorem State.setCompInst_free (s : State) (i : Nat) (v : InstState) : (s.setCompInst i v).free = s.free := rfl
@[simp] theorem State.setCompInst_regs (s : State) (i : Nat) (v : InstState) : (s.setCompInst i v).regs = s.regs := rfl
@[simp] theorem State.setCompInst_cores (s : State) (i : Nat) (v : InstState) : (s.setCompInst i v).cores = s.cores := rfl
@[simp] theorem State.setCompInst_phys (s : State) (i : Nat) (v : InstState) : (s.setCompInst i v).phys = s.phys := rfl
@[simp] theorem State.setCompInst_mem (s : State) (i : Nat) (v : InstState) : (s.setCompInst i v).mem = s.mem := rfl
@[simp] theorem State.setCompInst_coh (s : State) (i : Nat) (v : InstState) : (s.setCompInst i v).coh = s.coh := rfl
@[simp] theorem State.setCompInst_clog (s : State) (i : Nat) (v : InstState) : (s.setCompInst i v).clog = s.clog := rfl
@[simp] theorem State.setCompInst_plog (s : State) (i : Nat) (v : InstState) : (s.setCompInst i v).plog = s.plog := rfl
@[simp] theorem State.setCompInst_pair (s : State) (i : Nat) (v : InstState) : (s.setCompInst i v).pair = s.pair := rfl
@[simp] theorem State.setCompInst_trace (s : State) (i : Nat) (v : InstState) : (s.setCompInst i v).trace = s.trace := rfl
@[simp] theorem State.setCompInst_tap (s : State) (i : Nat) (v : InstState) : (s.setCompInst i v).tap = s.tap := rfl
@[simp] theorem State.setCompInst_pins (s : State) (i : Nat) (v : InstState) : (s.setCompInst i v).pins = s.pins := rfl
@[simp] theorem State.setCompInst_rom (s : State) (i : Nat) (v : InstState) : (s.setCompInst i v).rom = s.rom := rfl
@[simp] theorem State.setCompInst_start (s : State) (i : Nat) (v : InstState) : (s.setCompInst i v).start = s.start := rfl
@[simp] theorem State.setCompInst_image (s : State) (i : Nat) (v : InstState) : (s.setCompInst i v).image = s.image := rfl
@[simp] theorem State.setCompInst_stop (s : State) (i : Nat) (v : InstState) : (s.setCompInst i v).stop = s.stop := rfl
@[simp] theorem State.setCompInst_ts (s : State) (i : Nat) (v : InstState) : (s.setCompInst i v).ts = s.ts := rfl
@[simp] theorem State.setCompInst_tsRun (s : State) (i : Nat) (v : InstState) : (s.setCompInst i v).tsRun = s.tsRun := rfl
@[simp] theorem State.setCompInst_levels (s : State) (i : Nat) (v : InstState) : (s.setCompInst i v).levels = s.levels := rfl
@[simp] theorem State.setCompInst_badRoutes (s : State) (i : Nat) (v : InstState) : (s.setCompInst i v).badRoutes = s.badRoutes := rfl
@[simp] theorem State.setCompInst_vOut (s : State) (i : Nat) (v : InstState) : (s.setCompInst i v).vOut = s.vOut := rfl
@[simp] theorem State.setCompInst_freshT (s : State) (i : Nat) (v : InstState) : (s.setCompInst i v).freshT = s.freshT := rfl
@[simp] theorem State.setCompInst_freshV (s : State) (i : Nat) (v : InstState) : (s.setCompInst i v).freshV = s.freshV := rfl
@[simp] theorem State.setCompInst_flushT0 (s : State) (i : Nat) (v : InstState) : (s.setCompInst i v).flushT0 = s.flushT0 := rfl
@[simp] theorem State.setCompInst_waiting (s : State) (i : Nat) (v : InstState) : (s.setCompInst i v).waiting = s.waiting := rfl
@[simp] theorem State.setCompInst_i3cOut (s : State) (i : Nat) (v : InstState) : (s.setCompInst i v).i3cOut = s.i3cOut := rfl
@[simp] theorem State.setCompInst_i3cAddr (s : State) (i : Nat) (v : InstState) : (s.setCompInst i v).i3cAddr = s.i3cAddr := rfl

/-! ### A cipher instance -/

@[simp] theorem State.setCiphInst_pending (s : State) (i : Nat) (v : InstState) : (s.setCiphInst i v).pending = s.pending := rfl
@[simp] theorem State.setCiphInst_free (s : State) (i : Nat) (v : InstState) : (s.setCiphInst i v).free = s.free := rfl
@[simp] theorem State.setCiphInst_regs (s : State) (i : Nat) (v : InstState) : (s.setCiphInst i v).regs = s.regs := rfl
@[simp] theorem State.setCiphInst_cores (s : State) (i : Nat) (v : InstState) : (s.setCiphInst i v).cores = s.cores := rfl
@[simp] theorem State.setCiphInst_phys (s : State) (i : Nat) (v : InstState) : (s.setCiphInst i v).phys = s.phys := rfl
@[simp] theorem State.setCiphInst_mem (s : State) (i : Nat) (v : InstState) : (s.setCiphInst i v).mem = s.mem := rfl
@[simp] theorem State.setCiphInst_coh (s : State) (i : Nat) (v : InstState) : (s.setCiphInst i v).coh = s.coh := rfl
@[simp] theorem State.setCiphInst_clog (s : State) (i : Nat) (v : InstState) : (s.setCiphInst i v).clog = s.clog := rfl
@[simp] theorem State.setCiphInst_plog (s : State) (i : Nat) (v : InstState) : (s.setCiphInst i v).plog = s.plog := rfl
@[simp] theorem State.setCiphInst_pair (s : State) (i : Nat) (v : InstState) : (s.setCiphInst i v).pair = s.pair := rfl
@[simp] theorem State.setCiphInst_trace (s : State) (i : Nat) (v : InstState) : (s.setCiphInst i v).trace = s.trace := rfl
@[simp] theorem State.setCiphInst_tap (s : State) (i : Nat) (v : InstState) : (s.setCiphInst i v).tap = s.tap := rfl
@[simp] theorem State.setCiphInst_pins (s : State) (i : Nat) (v : InstState) : (s.setCiphInst i v).pins = s.pins := rfl
@[simp] theorem State.setCiphInst_rom (s : State) (i : Nat) (v : InstState) : (s.setCiphInst i v).rom = s.rom := rfl
@[simp] theorem State.setCiphInst_start (s : State) (i : Nat) (v : InstState) : (s.setCiphInst i v).start = s.start := rfl
@[simp] theorem State.setCiphInst_image (s : State) (i : Nat) (v : InstState) : (s.setCiphInst i v).image = s.image := rfl
@[simp] theorem State.setCiphInst_stop (s : State) (i : Nat) (v : InstState) : (s.setCiphInst i v).stop = s.stop := rfl
@[simp] theorem State.setCiphInst_ts (s : State) (i : Nat) (v : InstState) : (s.setCiphInst i v).ts = s.ts := rfl
@[simp] theorem State.setCiphInst_tsRun (s : State) (i : Nat) (v : InstState) : (s.setCiphInst i v).tsRun = s.tsRun := rfl
@[simp] theorem State.setCiphInst_levels (s : State) (i : Nat) (v : InstState) : (s.setCiphInst i v).levels = s.levels := rfl
@[simp] theorem State.setCiphInst_badRoutes (s : State) (i : Nat) (v : InstState) : (s.setCiphInst i v).badRoutes = s.badRoutes := rfl
@[simp] theorem State.setCiphInst_vOut (s : State) (i : Nat) (v : InstState) : (s.setCiphInst i v).vOut = s.vOut := rfl
@[simp] theorem State.setCiphInst_freshT (s : State) (i : Nat) (v : InstState) : (s.setCiphInst i v).freshT = s.freshT := rfl
@[simp] theorem State.setCiphInst_freshV (s : State) (i : Nat) (v : InstState) : (s.setCiphInst i v).freshV = s.freshV := rfl
@[simp] theorem State.setCiphInst_flushT0 (s : State) (i : Nat) (v : InstState) : (s.setCiphInst i v).flushT0 = s.flushT0 := rfl
@[simp] theorem State.setCiphInst_waiting (s : State) (i : Nat) (v : InstState) : (s.setCiphInst i v).waiting = s.waiting := rfl
@[simp] theorem State.setCiphInst_i3cOut (s : State) (i : Nat) (v : InstState) : (s.setCiphInst i v).i3cOut = s.i3cOut := rfl
@[simp] theorem State.setCiphInst_i3cAddr (s : State) (i : Nat) (v : InstState) : (s.setCiphInst i v).i3cAddr = s.i3cAddr := rfl

/-! ### A link -/

@[simp] theorem State.setLink_pending (s : State) (pl : Nat) (l : Link) : (s.setLink pl l).pending = s.pending := rfl
@[simp] theorem State.setLink_free (s : State) (pl : Nat) (l : Link) : (s.setLink pl l).free = s.free := rfl
@[simp] theorem State.setLink_regs (s : State) (pl : Nat) (l : Link) : (s.setLink pl l).regs = s.regs := rfl
@[simp] theorem State.setLink_cores (s : State) (pl : Nat) (l : Link) : (s.setLink pl l).cores = s.cores := rfl
@[simp] theorem State.setLink_phys (s : State) (pl : Nat) (l : Link) : (s.setLink pl l).phys = s.phys := rfl
@[simp] theorem State.setLink_mem (s : State) (pl : Nat) (l : Link) : (s.setLink pl l).mem = s.mem := rfl
@[simp] theorem State.setLink_coh (s : State) (pl : Nat) (l : Link) : (s.setLink pl l).coh = s.coh := rfl
@[simp] theorem State.setLink_clog (s : State) (pl : Nat) (l : Link) : (s.setLink pl l).clog = s.clog := rfl
@[simp] theorem State.setLink_plog (s : State) (pl : Nat) (l : Link) : (s.setLink pl l).plog = s.plog := rfl
@[simp] theorem State.setLink_pair (s : State) (pl : Nat) (l : Link) : (s.setLink pl l).pair = s.pair := rfl
@[simp] theorem State.setLink_trace (s : State) (pl : Nat) (l : Link) : (s.setLink pl l).trace = s.trace := rfl
@[simp] theorem State.setLink_tap (s : State) (pl : Nat) (l : Link) : (s.setLink pl l).tap = s.tap := rfl
@[simp] theorem State.setLink_pins (s : State) (pl : Nat) (l : Link) : (s.setLink pl l).pins = s.pins := rfl
@[simp] theorem State.setLink_rom (s : State) (pl : Nat) (l : Link) : (s.setLink pl l).rom = s.rom := rfl
@[simp] theorem State.setLink_start (s : State) (pl : Nat) (l : Link) : (s.setLink pl l).start = s.start := rfl
@[simp] theorem State.setLink_image (s : State) (pl : Nat) (l : Link) : (s.setLink pl l).image = s.image := rfl
@[simp] theorem State.setLink_stop (s : State) (pl : Nat) (l : Link) : (s.setLink pl l).stop = s.stop := rfl
@[simp] theorem State.setLink_ts (s : State) (pl : Nat) (l : Link) : (s.setLink pl l).ts = s.ts := rfl
@[simp] theorem State.setLink_tsRun (s : State) (pl : Nat) (l : Link) : (s.setLink pl l).tsRun = s.tsRun := rfl
@[simp] theorem State.setLink_levels (s : State) (pl : Nat) (l : Link) : (s.setLink pl l).levels = s.levels := rfl
@[simp] theorem State.setLink_badRoutes (s : State) (pl : Nat) (l : Link) : (s.setLink pl l).badRoutes = s.badRoutes := rfl
@[simp] theorem State.setLink_vOut (s : State) (pl : Nat) (l : Link) : (s.setLink pl l).vOut = s.vOut := rfl
@[simp] theorem State.setLink_freshT (s : State) (pl : Nat) (l : Link) : (s.setLink pl l).freshT = s.freshT := rfl
@[simp] theorem State.setLink_freshV (s : State) (pl : Nat) (l : Link) : (s.setLink pl l).freshV = s.freshV := rfl
@[simp] theorem State.setLink_flushT0 (s : State) (pl : Nat) (l : Link) : (s.setLink pl l).flushT0 = s.flushT0 := rfl
@[simp] theorem State.setLink_waiting (s : State) (pl : Nat) (l : Link) : (s.setLink pl l).waiting = s.waiting := rfl
@[simp] theorem State.setLink_i3cOut (s : State) (pl : Nat) (l : Link) : (s.setLink pl l).i3cOut = s.i3cOut := rfl
@[simp] theorem State.setLink_i3cAddr (s : State) (pl : Nat) (l : Link) : (s.setLink pl l).i3cAddr = s.i3cAddr := rfl

/-! ### A key slot -/

@[simp] theorem State.setSlot_pending (s : State) (k : Nat) (v : KeySlot) : (s.setSlot k v).pending = s.pending := rfl
@[simp] theorem State.setSlot_free (s : State) (k : Nat) (v : KeySlot) : (s.setSlot k v).free = s.free := rfl
@[simp] theorem State.setSlot_regs (s : State) (k : Nat) (v : KeySlot) : (s.setSlot k v).regs = s.regs := rfl
@[simp] theorem State.setSlot_cores (s : State) (k : Nat) (v : KeySlot) : (s.setSlot k v).cores = s.cores := rfl
@[simp] theorem State.setSlot_phys (s : State) (k : Nat) (v : KeySlot) : (s.setSlot k v).phys = s.phys := rfl
@[simp] theorem State.setSlot_mem (s : State) (k : Nat) (v : KeySlot) : (s.setSlot k v).mem = s.mem := rfl
@[simp] theorem State.setSlot_coh (s : State) (k : Nat) (v : KeySlot) : (s.setSlot k v).coh = s.coh := rfl
@[simp] theorem State.setSlot_clog (s : State) (k : Nat) (v : KeySlot) : (s.setSlot k v).clog = s.clog := rfl
@[simp] theorem State.setSlot_plog (s : State) (k : Nat) (v : KeySlot) : (s.setSlot k v).plog = s.plog := rfl
@[simp] theorem State.setSlot_pair (s : State) (k : Nat) (v : KeySlot) : (s.setSlot k v).pair = s.pair := rfl
@[simp] theorem State.setSlot_trace (s : State) (k : Nat) (v : KeySlot) : (s.setSlot k v).trace = s.trace := rfl
@[simp] theorem State.setSlot_tap (s : State) (k : Nat) (v : KeySlot) : (s.setSlot k v).tap = s.tap := rfl
@[simp] theorem State.setSlot_pins (s : State) (k : Nat) (v : KeySlot) : (s.setSlot k v).pins = s.pins := rfl
@[simp] theorem State.setSlot_rom (s : State) (k : Nat) (v : KeySlot) : (s.setSlot k v).rom = s.rom := rfl
@[simp] theorem State.setSlot_start (s : State) (k : Nat) (v : KeySlot) : (s.setSlot k v).start = s.start := rfl
@[simp] theorem State.setSlot_image (s : State) (k : Nat) (v : KeySlot) : (s.setSlot k v).image = s.image := rfl
@[simp] theorem State.setSlot_stop (s : State) (k : Nat) (v : KeySlot) : (s.setSlot k v).stop = s.stop := rfl
@[simp] theorem State.setSlot_ts (s : State) (k : Nat) (v : KeySlot) : (s.setSlot k v).ts = s.ts := rfl
@[simp] theorem State.setSlot_tsRun (s : State) (k : Nat) (v : KeySlot) : (s.setSlot k v).tsRun = s.tsRun := rfl
@[simp] theorem State.setSlot_levels (s : State) (k : Nat) (v : KeySlot) : (s.setSlot k v).levels = s.levels := rfl
@[simp] theorem State.setSlot_badRoutes (s : State) (k : Nat) (v : KeySlot) : (s.setSlot k v).badRoutes = s.badRoutes := rfl
@[simp] theorem State.setSlot_vOut (s : State) (k : Nat) (v : KeySlot) : (s.setSlot k v).vOut = s.vOut := rfl
@[simp] theorem State.setSlot_freshT (s : State) (k : Nat) (v : KeySlot) : (s.setSlot k v).freshT = s.freshT := rfl
@[simp] theorem State.setSlot_freshV (s : State) (k : Nat) (v : KeySlot) : (s.setSlot k v).freshV = s.freshV := rfl
@[simp] theorem State.setSlot_flushT0 (s : State) (k : Nat) (v : KeySlot) : (s.setSlot k v).flushT0 = s.flushT0 := rfl
@[simp] theorem State.setSlot_waiting (s : State) (k : Nat) (v : KeySlot) : (s.setSlot k v).waiting = s.waiting := rfl
@[simp] theorem State.setSlot_i3cOut (s : State) (k : Nat) (v : KeySlot) : (s.setSlot k v).i3cOut = s.i3cOut := rfl
@[simp] theorem State.setSlot_i3cAddr (s : State) (k : Nat) (v : KeySlot) : (s.setSlot k v).i3cAddr = s.i3cAddr := rfl

/-! ### A dispatcher's place -/

@[simp] theorem State.setDrr_pending (s : State) (pool : Pool) (k : Nat) : (s.setDrr pool k).pending = s.pending := rfl
@[simp] theorem State.setDrr_free (s : State) (pool : Pool) (k : Nat) : (s.setDrr pool k).free = s.free := rfl
@[simp] theorem State.setDrr_regs (s : State) (pool : Pool) (k : Nat) : (s.setDrr pool k).regs = s.regs := rfl
@[simp] theorem State.setDrr_cores (s : State) (pool : Pool) (k : Nat) : (s.setDrr pool k).cores = s.cores := rfl
@[simp] theorem State.setDrr_phys (s : State) (pool : Pool) (k : Nat) : (s.setDrr pool k).phys = s.phys := rfl
@[simp] theorem State.setDrr_mem (s : State) (pool : Pool) (k : Nat) : (s.setDrr pool k).mem = s.mem := rfl
@[simp] theorem State.setDrr_coh (s : State) (pool : Pool) (k : Nat) : (s.setDrr pool k).coh = s.coh := rfl
@[simp] theorem State.setDrr_clog (s : State) (pool : Pool) (k : Nat) : (s.setDrr pool k).clog = s.clog := rfl
@[simp] theorem State.setDrr_plog (s : State) (pool : Pool) (k : Nat) : (s.setDrr pool k).plog = s.plog := rfl
@[simp] theorem State.setDrr_pair (s : State) (pool : Pool) (k : Nat) : (s.setDrr pool k).pair = s.pair := rfl
@[simp] theorem State.setDrr_trace (s : State) (pool : Pool) (k : Nat) : (s.setDrr pool k).trace = s.trace := rfl
@[simp] theorem State.setDrr_tap (s : State) (pool : Pool) (k : Nat) : (s.setDrr pool k).tap = s.tap := rfl
@[simp] theorem State.setDrr_pins (s : State) (pool : Pool) (k : Nat) : (s.setDrr pool k).pins = s.pins := rfl
@[simp] theorem State.setDrr_rom (s : State) (pool : Pool) (k : Nat) : (s.setDrr pool k).rom = s.rom := rfl
@[simp] theorem State.setDrr_start (s : State) (pool : Pool) (k : Nat) : (s.setDrr pool k).start = s.start := rfl
@[simp] theorem State.setDrr_image (s : State) (pool : Pool) (k : Nat) : (s.setDrr pool k).image = s.image := rfl
@[simp] theorem State.setDrr_stop (s : State) (pool : Pool) (k : Nat) : (s.setDrr pool k).stop = s.stop := rfl
@[simp] theorem State.setDrr_ts (s : State) (pool : Pool) (k : Nat) : (s.setDrr pool k).ts = s.ts := rfl
@[simp] theorem State.setDrr_tsRun (s : State) (pool : Pool) (k : Nat) : (s.setDrr pool k).tsRun = s.tsRun := rfl
@[simp] theorem State.setDrr_levels (s : State) (pool : Pool) (k : Nat) : (s.setDrr pool k).levels = s.levels := rfl
@[simp] theorem State.setDrr_badRoutes (s : State) (pool : Pool) (k : Nat) : (s.setDrr pool k).badRoutes = s.badRoutes := rfl
@[simp] theorem State.setDrr_vOut (s : State) (pool : Pool) (k : Nat) : (s.setDrr pool k).vOut = s.vOut := rfl
@[simp] theorem State.setDrr_freshT (s : State) (pool : Pool) (k : Nat) : (s.setDrr pool k).freshT = s.freshT := rfl
@[simp] theorem State.setDrr_freshV (s : State) (pool : Pool) (k : Nat) : (s.setDrr pool k).freshV = s.freshV := rfl
@[simp] theorem State.setDrr_flushT0 (s : State) (pool : Pool) (k : Nat) : (s.setDrr pool k).flushT0 = s.flushT0 := rfl
@[simp] theorem State.setDrr_waiting (s : State) (pool : Pool) (k : Nat) : (s.setDrr pool k).waiting = s.waiting := rfl
@[simp] theorem State.setDrr_i3cOut (s : State) (pool : Pool) (k : Nat) : (s.setDrr pool k).i3cOut = s.i3cOut := rfl
@[simp] theorem State.setDrr_i3cAddr (s : State) (pool : Pool) (k : Nat) : (s.setDrr pool k).i3cAddr = s.i3cAddr := rfl

/-! ### A snoop-filter entry -/

@[simp] theorem State.setSf_pending (s : State) (line : Nat) (e : SfEntry) : (s.setSf line e).pending = s.pending := rfl
@[simp] theorem State.setSf_free (s : State) (line : Nat) (e : SfEntry) : (s.setSf line e).free = s.free := rfl
@[simp] theorem State.setSf_regs (s : State) (line : Nat) (e : SfEntry) : (s.setSf line e).regs = s.regs := rfl
@[simp] theorem State.setSf_cores (s : State) (line : Nat) (e : SfEntry) : (s.setSf line e).cores = s.cores := rfl
@[simp] theorem State.setSf_phys (s : State) (line : Nat) (e : SfEntry) : (s.setSf line e).phys = s.phys := rfl
@[simp] theorem State.setSf_mem (s : State) (line : Nat) (e : SfEntry) : (s.setSf line e).mem = s.mem := rfl
@[simp] theorem State.setSf_clog (s : State) (line : Nat) (e : SfEntry) : (s.setSf line e).clog = s.clog := rfl
@[simp] theorem State.setSf_plog (s : State) (line : Nat) (e : SfEntry) : (s.setSf line e).plog = s.plog := rfl
@[simp] theorem State.setSf_io (s : State) (line : Nat) (e : SfEntry) : (s.setSf line e).io = s.io := rfl
@[simp] theorem State.setSf_pair (s : State) (line : Nat) (e : SfEntry) : (s.setSf line e).pair = s.pair := rfl
@[simp] theorem State.setSf_trace (s : State) (line : Nat) (e : SfEntry) : (s.setSf line e).trace = s.trace := rfl
@[simp] theorem State.setSf_tap (s : State) (line : Nat) (e : SfEntry) : (s.setSf line e).tap = s.tap := rfl
@[simp] theorem State.setSf_pins (s : State) (line : Nat) (e : SfEntry) : (s.setSf line e).pins = s.pins := rfl
@[simp] theorem State.setSf_rom (s : State) (line : Nat) (e : SfEntry) : (s.setSf line e).rom = s.rom := rfl
@[simp] theorem State.setSf_start (s : State) (line : Nat) (e : SfEntry) : (s.setSf line e).start = s.start := rfl
@[simp] theorem State.setSf_image (s : State) (line : Nat) (e : SfEntry) : (s.setSf line e).image = s.image := rfl
@[simp] theorem State.setSf_stop (s : State) (line : Nat) (e : SfEntry) : (s.setSf line e).stop = s.stop := rfl
@[simp] theorem State.setSf_ts (s : State) (line : Nat) (e : SfEntry) : (s.setSf line e).ts = s.ts := rfl
@[simp] theorem State.setSf_tsRun (s : State) (line : Nat) (e : SfEntry) : (s.setSf line e).tsRun = s.tsRun := rfl
@[simp] theorem State.setSf_levels (s : State) (line : Nat) (e : SfEntry) : (s.setSf line e).levels = s.levels := rfl
@[simp] theorem State.setSf_badRoutes (s : State) (line : Nat) (e : SfEntry) : (s.setSf line e).badRoutes = s.badRoutes := rfl
@[simp] theorem State.setSf_vOut (s : State) (line : Nat) (e : SfEntry) : (s.setSf line e).vOut = s.vOut := rfl
@[simp] theorem State.setSf_freshT (s : State) (line : Nat) (e : SfEntry) : (s.setSf line e).freshT = s.freshT := rfl
@[simp] theorem State.setSf_freshV (s : State) (line : Nat) (e : SfEntry) : (s.setSf line e).freshV = s.freshV := rfl
@[simp] theorem State.setSf_flushT0 (s : State) (line : Nat) (e : SfEntry) : (s.setSf line e).flushT0 = s.flushT0 := rfl
@[simp] theorem State.setSf_waiting (s : State) (line : Nat) (e : SfEntry) : (s.setSf line e).waiting = s.waiting := rfl
@[simp] theorem State.setSf_i3cOut (s : State) (line : Nat) (e : SfEntry) : (s.setSf line e).i3cOut = s.i3cOut := rfl
@[simp] theorem State.setSf_i3cAddr (s : State) (line : Nat) (e : SfEntry) : (s.setSf line e).i3cAddr = s.i3cAddr := rfl

/-! ### A transaction -/

@[simp] theorem State.setTxn_pending (s : State) (line : Nat) (t : Txn) : (s.setTxn line t).pending = s.pending := rfl
@[simp] theorem State.setTxn_free (s : State) (line : Nat) (t : Txn) : (s.setTxn line t).free = s.free := rfl
@[simp] theorem State.setTxn_regs (s : State) (line : Nat) (t : Txn) : (s.setTxn line t).regs = s.regs := rfl
@[simp] theorem State.setTxn_cores (s : State) (line : Nat) (t : Txn) : (s.setTxn line t).cores = s.cores := rfl
@[simp] theorem State.setTxn_phys (s : State) (line : Nat) (t : Txn) : (s.setTxn line t).phys = s.phys := rfl
@[simp] theorem State.setTxn_mem (s : State) (line : Nat) (t : Txn) : (s.setTxn line t).mem = s.mem := rfl
@[simp] theorem State.setTxn_clog (s : State) (line : Nat) (t : Txn) : (s.setTxn line t).clog = s.clog := rfl
@[simp] theorem State.setTxn_plog (s : State) (line : Nat) (t : Txn) : (s.setTxn line t).plog = s.plog := rfl
@[simp] theorem State.setTxn_io (s : State) (line : Nat) (t : Txn) : (s.setTxn line t).io = s.io := rfl
@[simp] theorem State.setTxn_pair (s : State) (line : Nat) (t : Txn) : (s.setTxn line t).pair = s.pair := rfl
@[simp] theorem State.setTxn_trace (s : State) (line : Nat) (t : Txn) : (s.setTxn line t).trace = s.trace := rfl
@[simp] theorem State.setTxn_tap (s : State) (line : Nat) (t : Txn) : (s.setTxn line t).tap = s.tap := rfl
@[simp] theorem State.setTxn_pins (s : State) (line : Nat) (t : Txn) : (s.setTxn line t).pins = s.pins := rfl
@[simp] theorem State.setTxn_rom (s : State) (line : Nat) (t : Txn) : (s.setTxn line t).rom = s.rom := rfl
@[simp] theorem State.setTxn_start (s : State) (line : Nat) (t : Txn) : (s.setTxn line t).start = s.start := rfl
@[simp] theorem State.setTxn_image (s : State) (line : Nat) (t : Txn) : (s.setTxn line t).image = s.image := rfl
@[simp] theorem State.setTxn_stop (s : State) (line : Nat) (t : Txn) : (s.setTxn line t).stop = s.stop := rfl
@[simp] theorem State.setTxn_ts (s : State) (line : Nat) (t : Txn) : (s.setTxn line t).ts = s.ts := rfl
@[simp] theorem State.setTxn_tsRun (s : State) (line : Nat) (t : Txn) : (s.setTxn line t).tsRun = s.tsRun := rfl
@[simp] theorem State.setTxn_levels (s : State) (line : Nat) (t : Txn) : (s.setTxn line t).levels = s.levels := rfl
@[simp] theorem State.setTxn_badRoutes (s : State) (line : Nat) (t : Txn) : (s.setTxn line t).badRoutes = s.badRoutes := rfl
@[simp] theorem State.setTxn_vOut (s : State) (line : Nat) (t : Txn) : (s.setTxn line t).vOut = s.vOut := rfl
@[simp] theorem State.setTxn_freshT (s : State) (line : Nat) (t : Txn) : (s.setTxn line t).freshT = s.freshT := rfl
@[simp] theorem State.setTxn_freshV (s : State) (line : Nat) (t : Txn) : (s.setTxn line t).freshV = s.freshV := rfl
@[simp] theorem State.setTxn_flushT0 (s : State) (line : Nat) (t : Txn) : (s.setTxn line t).flushT0 = s.flushT0 := rfl
@[simp] theorem State.setTxn_waiting (s : State) (line : Nat) (t : Txn) : (s.setTxn line t).waiting = s.waiting := rfl
@[simp] theorem State.setTxn_i3cOut (s : State) (line : Nat) (t : Txn) : (s.setTxn line t).i3cOut = s.i3cOut := rfl
@[simp] theorem State.setTxn_i3cAddr (s : State) (line : Nat) (t : Txn) : (s.setTxn line t).i3cAddr = s.i3cAddr := rfl

/-! ### A page log -/

@[simp] theorem State.setPlog_pending (s : State) (p : Nat) (l : PageLog) : (s.setPlog p l).pending = s.pending := rfl
@[simp] theorem State.setPlog_free (s : State) (p : Nat) (l : PageLog) : (s.setPlog p l).free = s.free := rfl
@[simp] theorem State.setPlog_regs (s : State) (p : Nat) (l : PageLog) : (s.setPlog p l).regs = s.regs := rfl
@[simp] theorem State.setPlog_cores (s : State) (p : Nat) (l : PageLog) : (s.setPlog p l).cores = s.cores := rfl
@[simp] theorem State.setPlog_phys (s : State) (p : Nat) (l : PageLog) : (s.setPlog p l).phys = s.phys := rfl
@[simp] theorem State.setPlog_mem (s : State) (p : Nat) (l : PageLog) : (s.setPlog p l).mem = s.mem := rfl
@[simp] theorem State.setPlog_coh (s : State) (p : Nat) (l : PageLog) : (s.setPlog p l).coh = s.coh := rfl
@[simp] theorem State.setPlog_clog (s : State) (p : Nat) (l : PageLog) : (s.setPlog p l).clog = s.clog := rfl
@[simp] theorem State.setPlog_io (s : State) (p : Nat) (l : PageLog) : (s.setPlog p l).io = s.io := rfl
@[simp] theorem State.setPlog_pair (s : State) (p : Nat) (l : PageLog) : (s.setPlog p l).pair = s.pair := rfl
@[simp] theorem State.setPlog_trace (s : State) (p : Nat) (l : PageLog) : (s.setPlog p l).trace = s.trace := rfl
@[simp] theorem State.setPlog_tap (s : State) (p : Nat) (l : PageLog) : (s.setPlog p l).tap = s.tap := rfl
@[simp] theorem State.setPlog_pins (s : State) (p : Nat) (l : PageLog) : (s.setPlog p l).pins = s.pins := rfl
@[simp] theorem State.setPlog_rom (s : State) (p : Nat) (l : PageLog) : (s.setPlog p l).rom = s.rom := rfl
@[simp] theorem State.setPlog_start (s : State) (p : Nat) (l : PageLog) : (s.setPlog p l).start = s.start := rfl
@[simp] theorem State.setPlog_image (s : State) (p : Nat) (l : PageLog) : (s.setPlog p l).image = s.image := rfl
@[simp] theorem State.setPlog_stop (s : State) (p : Nat) (l : PageLog) : (s.setPlog p l).stop = s.stop := rfl
@[simp] theorem State.setPlog_ts (s : State) (p : Nat) (l : PageLog) : (s.setPlog p l).ts = s.ts := rfl
@[simp] theorem State.setPlog_tsRun (s : State) (p : Nat) (l : PageLog) : (s.setPlog p l).tsRun = s.tsRun := rfl
@[simp] theorem State.setPlog_levels (s : State) (p : Nat) (l : PageLog) : (s.setPlog p l).levels = s.levels := rfl
@[simp] theorem State.setPlog_badRoutes (s : State) (p : Nat) (l : PageLog) : (s.setPlog p l).badRoutes = s.badRoutes := rfl
@[simp] theorem State.setPlog_vOut (s : State) (p : Nat) (l : PageLog) : (s.setPlog p l).vOut = s.vOut := rfl
@[simp] theorem State.setPlog_freshT (s : State) (p : Nat) (l : PageLog) : (s.setPlog p l).freshT = s.freshT := rfl
@[simp] theorem State.setPlog_freshV (s : State) (p : Nat) (l : PageLog) : (s.setPlog p l).freshV = s.freshV := rfl
@[simp] theorem State.setPlog_flushT0 (s : State) (p : Nat) (l : PageLog) : (s.setPlog p l).flushT0 = s.flushT0 := rfl
@[simp] theorem State.setPlog_waiting (s : State) (p : Nat) (l : PageLog) : (s.setPlog p l).waiting = s.waiting := rfl
@[simp] theorem State.setPlog_i3cOut (s : State) (p : Nat) (l : PageLog) : (s.setPlog p l).i3cOut = s.i3cOut := rfl
@[simp] theorem State.setPlog_i3cAddr (s : State) (p : Nat) (l : PageLog) : (s.setPlog p l).i3cAddr = s.i3cAddr := rfl

/-! ### Reading after a write -/

theorem State.reg_setReg_same {s : State} {off : Nat} {v : Reg64} (h : SMap.sorted s.regs = true) :
    (s.setReg off v).reg off = v := SMap.get_set_same h

@[simp] theorem State.reg_setReg_other {s : State} {off j : Nat} {v : Reg64} (hj : j ≠ off) :
    (s.setReg off v).reg j = s.reg j := SMap.get_set_any hj

@[simp] theorem State.reg_setFld_other {s : State} {off j lo w x : Nat} (hj : j ≠ off) :
    (s.setFld off lo w x).reg j = s.reg j := SMap.get_set_any hj

@[simp] theorem State.reg_setFlag_other {s : State} {off j i : Nat} {b : Bool} (hj : j ≠ off) :
    (s.setFlag off i b).reg j = s.reg j := SMap.get_set_any hj

theorem State.setReg_sorted {s : State} {off : Nat} {v : Reg64} (h : SMap.sorted s.regs = true) :
    SMap.sorted (s.setReg off v).regs = true := SMap.sorted_set h

theorem State.setFld_sorted {s : State} {off lo w x : Nat} (h : SMap.sorted s.regs = true) :
    SMap.sorted (s.setFld off lo w x).regs = true := SMap.sorted_set h

theorem State.setFlag_sorted {s : State} {off i : Nat} {b : Bool} (h : SMap.sorted s.regs = true) :
    SMap.sorted (s.setFlag off i b).regs = true := SMap.sorted_set h

theorem State.core_setCore_same {s : State} {n : Nat} {c : Core} (h : SMap.sorted s.cores = true) :
    (s.setCore n c).core n = c := SMap.get_set_same h

@[simp] theorem State.core_setCore_other {s : State} {n k : Nat} {c : Core} (hk : k ≠ n) :
    (s.setCore n c).core k = s.core k := SMap.get_set_other hk

theorem State.setCore_sorted {s : State} {n : Nat} {c : Core} (h : SMap.sorted s.cores = true) :
    SMap.sorted (s.setCore n c).cores = true := SMap.sorted_set h

theorem State.physCore_setPhys_same {s : State} {p : Nat} {c : PhysCore} (h : SMap.sorted s.phys = true) :
    (s.setPhys p c).physCore p = c := SMap.get_set_same h

@[simp] theorem State.physCore_setPhys_other {s : State} {p k : Nat} {c : PhysCore} (hk : k ≠ p) :
    (s.setPhys p c).physCore k = s.physCore k := SMap.get_set_other hk

theorem State.setPhys_sorted {s : State} {p : Nat} {c : PhysCore} (h : SMap.sorted s.phys = true) :
    SMap.sorted (s.setPhys p c).phys = true := SMap.sorted_set h

theorem State.chan_setChan_same {s : State} {c : Nat} {v : ChanState} (h : SMap.sorted s.io.chans = true) :
    (s.setChan c v).chan c = v := SMap.get_set_same h

@[simp] theorem State.chan_setChan_other {s : State} {c k : Nat} {v : ChanState} (hk : k ≠ c) :
    (s.setChan c v).chan k = s.chan k := SMap.get_set_other hk

theorem State.compInst_setCompInst_same {s : State} {i : Nat} {v : InstState} (h : SMap.sorted s.io.comp = true) :
    (s.setCompInst i v).compInst i = v := SMap.get_set_same h

theorem State.ciphInst_setCiphInst_same {s : State} {i : Nat} {v : InstState} (h : SMap.sorted s.io.ciph = true) :
    (s.setCiphInst i v).ciphInst i = v := SMap.get_set_same h

theorem State.link_setLink_same {s : State} {pl : Nat} {l : Link} (h : SMap.sorted s.io.links = true) :
    (s.setLink pl l).link pl = l := SMap.get_set_same h

theorem State.slotAt_setSlot_same {s : State} {k : Nat} {v : KeySlot} (h : SMap.sorted s.io.slots = true) :
    (s.setSlot k v).slotAt k = v := SMap.get_set_same h

theorem State.plogOf_setPlog_same {s : State} {p : Nat} {l : PageLog} (h : SMap.sorted s.plog = true) :
    (s.setPlog p l).plogOf p = l := SMap.get_set_same h

/-! ### A log moves -/

@[simp] theorem State.moveLog_regs (s : State) (p : Nat) (card : Bool) : (s.moveLog p card).regs = s.regs := by
  cases card <;> rfl
@[simp] theorem State.moveLog_mem (s : State) (p : Nat) (card : Bool) : (s.moveLog p card).mem = s.mem := by
  cases card <;> rfl
@[simp] theorem State.moveLog_cores (s : State) (p : Nat) : (s.moveLog p false).cores = s.cores := rfl

/-- R138: with the card log the stores that wait lose their slots, and nothing else of a core changes. -/
@[simp] theorem State.moveLog_card_cores (s : State) (p : Nat) :
    (s.moveLog p true).cores = s.cores.map (fun e => if s.parishOf e.1 = p then (e.1, e.2.unslot) else e) := rfl
@[simp] theorem Core.unslot_prim (c : Core) : c.unslot.prim = c.prim := rfl
@[simp] theorem Core.unslot_run (c : Core) : c.unslot.run = c.run := rfl
@[simp] theorem Core.unslot_resv (c : Core) : c.unslot.resv = c.resv := rfl

/-- R133, R443: the moved page log's slots are counted from 0; its filter and its halt stay. -/
theorem State.moveLog_plog {s : State} {p : Nat} (h : SMap.sorted s.plog = true) :
    (s.moveLog p false).plogOf p = { s.plogOf p with ring := .reset } := SMap.get_set_same h

end Sys2Proof.Machine
end

