-- ==== Sys2Proof/Laws/Events.lean ====
section
/-! SUPPORT. What the counters, events, frames to the partner and the fault collector leave alone, one lemma a field. -/

namespace Sys2Proof.Machine

theorem foldl_keeps {α β γ : Type} (g : β → γ) (f : β → α → β) (h : ∀ b a, g (f b a) = g b) (l : List α) (b : β) :
    g (l.foldl f b) = g b := by
  induction l generalizing b with
  | nil => rfl
  | cons a l ih => rw [List.foldl_cons, ih, h]


/-! ### Counters (R517-R519) -/

@[simp] theorem State.pmcN_pending (s : State) (p ev k : Nat) : (s.pmcN p ev k).pending = s.pending := by
  refine foldl_keeps State.pending _ (fun b a => ?_) _ _
  split <;> rfl
@[simp] theorem State.pmcN_free (s : State) (p ev k : Nat) : (s.pmcN p ev k).free = s.free := by
  refine foldl_keeps State.free _ (fun b a => ?_) _ _
  split <;> rfl
@[simp] theorem State.pmcN_cores (s : State) (p ev k : Nat) : (s.pmcN p ev k).cores = s.cores := by
  refine foldl_keeps State.cores _ (fun b a => ?_) _ _
  split <;> rfl
@[simp] theorem State.pmcN_phys (s : State) (p ev k : Nat) : (s.pmcN p ev k).phys = s.phys := by
  refine foldl_keeps State.phys _ (fun b a => ?_) _ _
  split <;> rfl
@[simp] theorem State.pmcN_mem (s : State) (p ev k : Nat) : (s.pmcN p ev k).mem = s.mem := by
  refine foldl_keeps State.mem _ (fun b a => ?_) _ _
  split <;> rfl
@[simp] theorem State.pmcN_coh (s : State) (p ev k : Nat) : (s.pmcN p ev k).coh = s.coh := by
  refine foldl_keeps State.coh _ (fun b a => ?_) _ _
  split <;> rfl
@[simp] theorem State.pmcN_clog (s : State) (p ev k : Nat) : (s.pmcN p ev k).clog = s.clog := by
  refine foldl_keeps State.clog _ (fun b a => ?_) _ _
  split <;> rfl
@[simp] theorem State.pmcN_plog (s : State) (p ev k : Nat) : (s.pmcN p ev k).plog = s.plog := by
  refine foldl_keeps State.plog _ (fun b a => ?_) _ _
  split <;> rfl
@[simp] theorem State.pmcN_io (s : State) (p ev k : Nat) : (s.pmcN p ev k).io = s.io := by
  refine foldl_keeps State.io _ (fun b a => ?_) _ _
  split <;> rfl
@[simp] theorem State.pmcN_pair (s : State) (p ev k : Nat) : (s.pmcN p ev k).pair = s.pair := by
  refine foldl_keeps State.pair _ (fun b a => ?_) _ _
  split <;> rfl
@[simp] theorem State.pmcN_tap (s : State) (p ev k : Nat) : (s.pmcN p ev k).tap = s.tap := by
  refine foldl_keeps State.tap _ (fun b a => ?_) _ _
  split <;> rfl
@[simp] theorem State.pmcN_pins (s : State) (p ev k : Nat) : (s.pmcN p ev k).pins = s.pins := by
  refine foldl_keeps State.pins _ (fun b a => ?_) _ _
  split <;> rfl
@[simp] theorem State.pmcN_rom (s : State) (p ev k : Nat) : (s.pmcN p ev k).rom = s.rom := by
  refine foldl_keeps State.rom _ (fun b a => ?_) _ _
  split <;> rfl
@[simp] theorem State.pmcN_start (s : State) (p ev k : Nat) : (s.pmcN p ev k).start = s.start := by
  refine foldl_keeps State.start _ (fun b a => ?_) _ _
  split <;> rfl
@[simp] theorem State.pmcN_image (s : State) (p ev k : Nat) : (s.pmcN p ev k).image = s.image := by
  refine foldl_keeps State.image _ (fun b a => ?_) _ _
  split <;> rfl
@[simp] theorem State.pmcN_stop (s : State) (p ev k : Nat) : (s.pmcN p ev k).stop = s.stop := by
  refine foldl_keeps State.stop _ (fun b a => ?_) _ _
  split <;> rfl
@[simp] theorem State.pmcN_ts (s : State) (p ev k : Nat) : (s.pmcN p ev k).ts = s.ts := by
  refine foldl_keeps State.ts _ (fun b a => ?_) _ _
  split <;> rfl
@[simp] theorem State.pmcN_tsRun (s : State) (p ev k : Nat) : (s.pmcN p ev k).tsRun = s.tsRun := by
  refine foldl_keeps State.tsRun _ (fun b a => ?_) _ _
  split <;> rfl
@[simp] theorem State.pmcN_levels (s : State) (p ev k : Nat) : (s.pmcN p ev k).levels = s.levels := by
  refine foldl_keeps State.levels _ (fun b a => ?_) _ _
  split <;> rfl
@[simp] theorem State.pmcN_badRoutes (s : State) (p ev k : Nat) : (s.pmcN p ev k).badRoutes = s.badRoutes := by
  refine foldl_keeps State.badRoutes _ (fun b a => ?_) _ _
  split <;> rfl
@[simp] theorem State.pmcN_waiting (s : State) (p ev k : Nat) : (s.pmcN p ev k).waiting = s.waiting := by
  refine foldl_keeps State.waiting _ (fun b a => ?_) _ _
  split <;> rfl

@[simp] theorem State.pmc_pending (s : State) (p ev : Nat) : (s.pmc p ev).pending = s.pending := State.pmcN_pending s p ev 1
@[simp] theorem State.pmc_free (s : State) (p ev : Nat) : (s.pmc p ev).free = s.free := State.pmcN_free s p ev 1
@[simp] theorem State.pmc_cores (s : State) (p ev : Nat) : (s.pmc p ev).cores = s.cores := State.pmcN_cores s p ev 1
@[simp] theorem State.pmc_phys (s : State) (p ev : Nat) : (s.pmc p ev).phys = s.phys := State.pmcN_phys s p ev 1
@[simp] theorem State.pmc_mem (s : State) (p ev : Nat) : (s.pmc p ev).mem = s.mem := State.pmcN_mem s p ev 1
@[simp] theorem State.pmc_coh (s : State) (p ev : Nat) : (s.pmc p ev).coh = s.coh := State.pmcN_coh s p ev 1
@[simp] theorem State.pmc_clog (s : State) (p ev : Nat) : (s.pmc p ev).clog = s.clog := State.pmcN_clog s p ev 1
@[simp] theorem State.pmc_plog (s : State) (p ev : Nat) : (s.pmc p ev).plog = s.plog := State.pmcN_plog s p ev 1
@[simp] theorem State.pmc_io (s : State) (p ev : Nat) : (s.pmc p ev).io = s.io := State.pmcN_io s p ev 1
@[simp] theorem State.pmc_pair (s : State) (p ev : Nat) : (s.pmc p ev).pair = s.pair := State.pmcN_pair s p ev 1
@[simp] theorem State.pmc_tap (s : State) (p ev : Nat) : (s.pmc p ev).tap = s.tap := State.pmcN_tap s p ev 1
@[simp] theorem State.pmc_pins (s : State) (p ev : Nat) : (s.pmc p ev).pins = s.pins := State.pmcN_pins s p ev 1
@[simp] theorem State.pmc_rom (s : State) (p ev : Nat) : (s.pmc p ev).rom = s.rom := State.pmcN_rom s p ev 1
@[simp] theorem State.pmc_start (s : State) (p ev : Nat) : (s.pmc p ev).start = s.start := State.pmcN_start s p ev 1
@[simp] theorem State.pmc_image (s : State) (p ev : Nat) : (s.pmc p ev).image = s.image := State.pmcN_image s p ev 1
@[simp] theorem State.pmc_stop (s : State) (p ev : Nat) : (s.pmc p ev).stop = s.stop := State.pmcN_stop s p ev 1
@[simp] theorem State.pmc_ts (s : State) (p ev : Nat) : (s.pmc p ev).ts = s.ts := State.pmcN_ts s p ev 1
@[simp] theorem State.pmc_tsRun (s : State) (p ev : Nat) : (s.pmc p ev).tsRun = s.tsRun := State.pmcN_tsRun s p ev 1
@[simp] theorem State.pmc_levels (s : State) (p ev : Nat) : (s.pmc p ev).levels = s.levels := State.pmcN_levels s p ev 1
@[simp] theorem State.pmc_badRoutes (s : State) (p ev : Nat) : (s.pmc p ev).badRoutes = s.badRoutes := State.pmcN_badRoutes s p ev 1
@[simp] theorem State.pmc_waiting (s : State) (p ev : Nat) : (s.pmc p ev).waiting = s.waiting := State.pmcN_waiting s p ev 1

@[simp] theorem State.talN_pending (s : State) (ev inst k : Nat) : (s.talN ev inst k).pending = s.pending := by
  exact foldl_keeps State.pending (fun (s : State) (i : Nat) => s.setFld (Reg.talCnt i) 0 48 (s.fld (Reg.talCnt i) 0 48 + k)) (fun _ _ => rfl) _ _
@[simp] theorem State.talN_free (s : State) (ev inst k : Nat) : (s.talN ev inst k).free = s.free := by
  exact foldl_keeps State.free (fun (s : State) (i : Nat) => s.setFld (Reg.talCnt i) 0 48 (s.fld (Reg.talCnt i) 0 48 + k)) (fun _ _ => rfl) _ _
@[simp] theorem State.talN_cores (s : State) (ev inst k : Nat) : (s.talN ev inst k).cores = s.cores := by
  exact foldl_keeps State.cores (fun (s : State) (i : Nat) => s.setFld (Reg.talCnt i) 0 48 (s.fld (Reg.talCnt i) 0 48 + k)) (fun _ _ => rfl) _ _
@[simp] theorem State.talN_phys (s : State) (ev inst k : Nat) : (s.talN ev inst k).phys = s.phys := by
  exact foldl_keeps State.phys (fun (s : State) (i : Nat) => s.setFld (Reg.talCnt i) 0 48 (s.fld (Reg.talCnt i) 0 48 + k)) (fun _ _ => rfl) _ _
@[simp] theorem State.talN_mem (s : State) (ev inst k : Nat) : (s.talN ev inst k).mem = s.mem := by
  exact foldl_keeps State.mem (fun (s : State) (i : Nat) => s.setFld (Reg.talCnt i) 0 48 (s.fld (Reg.talCnt i) 0 48 + k)) (fun _ _ => rfl) _ _
@[simp] theorem State.talN_coh (s : State) (ev inst k : Nat) : (s.talN ev inst k).coh = s.coh := by
  exact foldl_keeps State.coh (fun (s : State) (i : Nat) => s.setFld (Reg.talCnt i) 0 48 (s.fld (Reg.talCnt i) 0 48 + k)) (fun _ _ => rfl) _ _
@[simp] theorem State.talN_clog (s : State) (ev inst k : Nat) : (s.talN ev inst k).clog = s.clog := by
  exact foldl_keeps State.clog (fun (s : State) (i : Nat) => s.setFld (Reg.talCnt i) 0 48 (s.fld (Reg.talCnt i) 0 48 + k)) (fun _ _ => rfl) _ _
@[simp] theorem State.talN_plog (s : State) (ev inst k : Nat) : (s.talN ev inst k).plog = s.plog := by
  exact foldl_keeps State.plog (fun (s : State) (i : Nat) => s.setFld (Reg.talCnt i) 0 48 (s.fld (Reg.talCnt i) 0 48 + k)) (fun _ _ => rfl) _ _
@[simp] theorem State.talN_io (s : State) (ev inst k : Nat) : (s.talN ev inst k).io = s.io := by
  exact foldl_keeps State.io (fun (s : State) (i : Nat) => s.setFld (Reg.talCnt i) 0 48 (s.fld (Reg.talCnt i) 0 48 + k)) (fun _ _ => rfl) _ _
@[simp] theorem State.talN_pair (s : State) (ev inst k : Nat) : (s.talN ev inst k).pair = s.pair := by
  exact foldl_keeps State.pair (fun (s : State) (i : Nat) => s.setFld (Reg.talCnt i) 0 48 (s.fld (Reg.talCnt i) 0 48 + k)) (fun _ _ => rfl) _ _
@[simp] theorem State.talN_tap (s : State) (ev inst k : Nat) : (s.talN ev inst k).tap = s.tap := by
  exact foldl_keeps State.tap (fun (s : State) (i : Nat) => s.setFld (Reg.talCnt i) 0 48 (s.fld (Reg.talCnt i) 0 48 + k)) (fun _ _ => rfl) _ _
@[simp] theorem State.talN_pins (s : State) (ev inst k : Nat) : (s.talN ev inst k).pins = s.pins := by
  exact foldl_keeps State.pins (fun (s : State) (i : Nat) => s.setFld (Reg.talCnt i) 0 48 (s.fld (Reg.talCnt i) 0 48 + k)) (fun _ _ => rfl) _ _
@[simp] theorem State.talN_rom (s : State) (ev inst k : Nat) : (s.talN ev inst k).rom = s.rom := by
  exact foldl_keeps State.rom (fun (s : State) (i : Nat) => s.setFld (Reg.talCnt i) 0 48 (s.fld (Reg.talCnt i) 0 48 + k)) (fun _ _ => rfl) _ _
@[simp] theorem State.talN_start (s : State) (ev inst k : Nat) : (s.talN ev inst k).start = s.start := by
  exact foldl_keeps State.start (fun (s : State) (i : Nat) => s.setFld (Reg.talCnt i) 0 48 (s.fld (Reg.talCnt i) 0 48 + k)) (fun _ _ => rfl) _ _
@[simp] theorem State.talN_image (s : State) (ev inst k : Nat) : (s.talN ev inst k).image = s.image := by
  exact foldl_keeps State.image (fun (s : State) (i : Nat) => s.setFld (Reg.talCnt i) 0 48 (s.fld (Reg.talCnt i) 0 48 + k)) (fun _ _ => rfl) _ _
@[simp] theorem State.talN_stop (s : State) (ev inst k : Nat) : (s.talN ev inst k).stop = s.stop := by
  exact foldl_keeps State.stop (fun (s : State) (i : Nat) => s.setFld (Reg.talCnt i) 0 48 (s.fld (Reg.talCnt i) 0 48 + k)) (fun _ _ => rfl) _ _
@[simp] theorem State.talN_ts (s : State) (ev inst k : Nat) : (s.talN ev inst k).ts = s.ts := by
  exact foldl_keeps State.ts (fun (s : State) (i : Nat) => s.setFld (Reg.talCnt i) 0 48 (s.fld (Reg.talCnt i) 0 48 + k)) (fun _ _ => rfl) _ _
@[simp] theorem State.talN_tsRun (s : State) (ev inst k : Nat) : (s.talN ev inst k).tsRun = s.tsRun := by
  exact foldl_keeps State.tsRun (fun (s : State) (i : Nat) => s.setFld (Reg.talCnt i) 0 48 (s.fld (Reg.talCnt i) 0 48 + k)) (fun _ _ => rfl) _ _
@[simp] theorem State.talN_levels (s : State) (ev inst k : Nat) : (s.talN ev inst k).levels = s.levels := by
  exact foldl_keeps State.levels (fun (s : State) (i : Nat) => s.setFld (Reg.talCnt i) 0 48 (s.fld (Reg.talCnt i) 0 48 + k)) (fun _ _ => rfl) _ _
@[simp] theorem State.talN_badRoutes (s : State) (ev inst k : Nat) : (s.talN ev inst k).badRoutes = s.badRoutes := by
  exact foldl_keeps State.badRoutes (fun (s : State) (i : Nat) => s.setFld (Reg.talCnt i) 0 48 (s.fld (Reg.talCnt i) 0 48 + k)) (fun _ _ => rfl) _ _
@[simp] theorem State.talN_waiting (s : State) (ev inst k : Nat) : (s.talN ev inst k).waiting = s.waiting := by
  exact foldl_keeps State.waiting (fun (s : State) (i : Nat) => s.setFld (Reg.talCnt i) 0 48 (s.fld (Reg.talCnt i) 0 48 + k)) (fun _ _ => rfl) _ _

@[simp] theorem State.tal_pending (s : State) (ev inst : Nat) : (s.tal ev inst).pending = s.pending := State.talN_pending s ev inst 1
@[simp] theorem State.tal_free (s : State) (ev inst : Nat) : (s.tal ev inst).free = s.free := State.talN_free s ev inst 1
@[simp] theorem State.tal_cores (s : State) (ev inst : Nat) : (s.tal ev inst).cores = s.cores := State.talN_cores s ev inst 1
@[simp] theorem State.tal_phys (s : State) (ev inst : Nat) : (s.tal ev inst).phys = s.phys := State.talN_phys s ev inst 1
@[simp] theorem State.tal_mem (s : State) (ev inst : Nat) : (s.tal ev inst).mem = s.mem := State.talN_mem s ev inst 1
@[simp] theorem State.tal_coh (s : State) (ev inst : Nat) : (s.tal ev inst).coh = s.coh := State.talN_coh s ev inst 1
@[simp] theorem State.tal_clog (s : State) (ev inst : Nat) : (s.tal ev inst).clog = s.clog := State.talN_clog s ev inst 1
@[simp] theorem State.tal_plog (s : State) (ev inst : Nat) : (s.tal ev inst).plog = s.plog := State.talN_plog s ev inst 1
@[simp] theorem State.tal_io (s : State) (ev inst : Nat) : (s.tal ev inst).io = s.io := State.talN_io s ev inst 1
@[simp] theorem State.tal_pair (s : State) (ev inst : Nat) : (s.tal ev inst).pair = s.pair := State.talN_pair s ev inst 1
@[simp] theorem State.tal_tap (s : State) (ev inst : Nat) : (s.tal ev inst).tap = s.tap := State.talN_tap s ev inst 1
@[simp] theorem State.tal_pins (s : State) (ev inst : Nat) : (s.tal ev inst).pins = s.pins := State.talN_pins s ev inst 1
@[simp] theorem State.tal_rom (s : State) (ev inst : Nat) : (s.tal ev inst).rom = s.rom := State.talN_rom s ev inst 1
@[simp] theorem State.tal_start (s : State) (ev inst : Nat) : (s.tal ev inst).start = s.start := State.talN_start s ev inst 1
@[simp] theorem State.tal_image (s : State) (ev inst : Nat) : (s.tal ev inst).image = s.image := State.talN_image s ev inst 1
@[simp] theorem State.tal_stop (s : State) (ev inst : Nat) : (s.tal ev inst).stop = s.stop := State.talN_stop s ev inst 1
@[simp] theorem State.tal_ts (s : State) (ev inst : Nat) : (s.tal ev inst).ts = s.ts := State.talN_ts s ev inst 1
@[simp] theorem State.tal_tsRun (s : State) (ev inst : Nat) : (s.tal ev inst).tsRun = s.tsRun := State.talN_tsRun s ev inst 1
@[simp] theorem State.tal_levels (s : State) (ev inst : Nat) : (s.tal ev inst).levels = s.levels := State.talN_levels s ev inst 1
@[simp] theorem State.tal_badRoutes (s : State) (ev inst : Nat) : (s.tal ev inst).badRoutes = s.badRoutes := State.talN_badRoutes s ev inst 1
@[simp] theorem State.tal_waiting (s : State) (ev inst : Nat) : (s.tal ev inst).waiting = s.waiting := State.talN_waiting s ev inst 1


/-! ### Trace packets and event sources (R487, R488, R520) -/

/-- R520: a packet changes the trace unit and TRC_STAT alone. -/
theorem State.emit_eq (s : State) (ty src : Nat) (ws : List (BitVec 64)) :
    ∃ r t, s.emit ty src ws = { s with regs := r, trace := t } := by
  unfold State.emit
  simp only
  split
  · split <;> exact ⟨_, _, rfl⟩
  · split <;> exact ⟨_, _, rfl⟩

@[simp] theorem State.emit_pending (s : State) (ty src : Nat) (ws : List (BitVec 64)) : (s.emit ty src ws).pending = s.pending := by
  obtain ⟨_, _, h⟩ := s.emit_eq ty src ws; rw [h]
@[simp] theorem State.emit_free (s : State) (ty src : Nat) (ws : List (BitVec 64)) : (s.emit ty src ws).free = s.free := by
  obtain ⟨_, _, h⟩ := s.emit_eq ty src ws; rw [h]
@[simp] theorem State.emit_cores (s : State) (ty src : Nat) (ws : List (BitVec 64)) : (s.emit ty src ws).cores = s.cores := by
  obtain ⟨_, _, h⟩ := s.emit_eq ty src ws; rw [h]
@[simp] theorem State.emit_phys (s : State) (ty src : Nat) (ws : List (BitVec 64)) : (s.emit ty src ws).phys = s.phys := by
  obtain ⟨_, _, h⟩ := s.emit_eq ty src ws; rw [h]
@[simp] theorem State.emit_mem (s : State) (ty src : Nat) (ws : List (BitVec 64)) : (s.emit ty src ws).mem = s.mem := by
  obtain ⟨_, _, h⟩ := s.emit_eq ty src ws; rw [h]
@[simp] theorem State.emit_coh (s : State) (ty src : Nat) (ws : List (BitVec 64)) : (s.emit ty src ws).coh = s.coh := by
  obtain ⟨_, _, h⟩ := s.emit_eq ty src ws; rw [h]
@[simp] theorem State.emit_clog (s : State) (ty src : Nat) (ws : List (BitVec 64)) : (s.emit ty src ws).clog = s.clog := by
  obtain ⟨_, _, h⟩ := s.emit_eq ty src ws; rw [h]
@[simp] theorem State.emit_plog (s : State) (ty src : Nat) (ws : List (BitVec 64)) : (s.emit ty src ws).plog = s.plog := by
  obtain ⟨_, _, h⟩ := s.emit_eq ty src ws; rw [h]
@[simp] theorem State.emit_io (s : State) (ty src : Nat) (ws : List (BitVec 64)) : (s.emit ty src ws).io = s.io := by
  obtain ⟨_, _, h⟩ := s.emit_eq ty src ws; rw [h]
@[simp] theorem State.emit_pair (s : State) (ty src : Nat) (ws : List (BitVec 64)) : (s.emit ty src ws).pair = s.pair := by
  obtain ⟨_, _, h⟩ := s.emit_eq ty src ws; rw [h]
@[simp] theorem State.emit_tap (s : State) (ty src : Nat) (ws : List (BitVec 64)) : (s.emit ty src ws).tap = s.tap := by
  obtain ⟨_, _, h⟩ := s.emit_eq ty src ws; rw [h]
@[simp] theorem State.emit_pins (s : State) (ty src : Nat) (ws : List (BitVec 64)) : (s.emit ty src ws).pins = s.pins := by
  obtain ⟨_, _, h⟩ := s.emit_eq ty src ws; rw [h]
@[simp] theorem State.emit_rom (s : State) (ty src : Nat) (ws : List (BitVec 64)) : (s.emit ty src ws).rom = s.rom := by
  obtain ⟨_, _, h⟩ := s.emit_eq ty src ws; rw [h]
@[simp] theorem State.emit_start (s : State) (ty src : Nat) (ws : List (BitVec 64)) : (s.emit ty src ws).start = s.start := by
  obtain ⟨_, _, h⟩ := s.emit_eq ty src ws; rw [h]
@[simp] theorem State.emit_image (s : State) (ty src : Nat) (ws : List (BitVec 64)) : (s.emit ty src ws).image = s.image := by
  obtain ⟨_, _, h⟩ := s.emit_eq ty src ws; rw [h]
@[simp] theorem State.emit_stop (s : State) (ty src : Nat) (ws : List (BitVec 64)) : (s.emit ty src ws).stop = s.stop := by
  obtain ⟨_, _, h⟩ := s.emit_eq ty src ws; rw [h]
@[simp] theorem State.emit_ts (s : State) (ty src : Nat) (ws : List (BitVec 64)) : (s.emit ty src ws).ts = s.ts := by
  obtain ⟨_, _, h⟩ := s.emit_eq ty src ws; rw [h]
@[simp] theorem State.emit_tsRun (s : State) (ty src : Nat) (ws : List (BitVec 64)) : (s.emit ty src ws).tsRun = s.tsRun := by
  obtain ⟨_, _, h⟩ := s.emit_eq ty src ws; rw [h]
@[simp] theorem State.emit_levels (s : State) (ty src : Nat) (ws : List (BitVec 64)) : (s.emit ty src ws).levels = s.levels := by
  obtain ⟨_, _, h⟩ := s.emit_eq ty src ws; rw [h]
@[simp] theorem State.emit_badRoutes (s : State) (ty src : Nat) (ws : List (BitVec 64)) : (s.emit ty src ws).badRoutes = s.badRoutes := by
  obtain ⟨_, _, h⟩ := s.emit_eq ty src ws; rw [h]
@[simp] theorem State.emit_waiting (s : State) (ty src : Nat) (ws : List (BitVec 64)) : (s.emit ty src ws).waiting = s.waiting := by
  obtain ⟨_, _, h⟩ := s.emit_eq ty src ws; rw [h]

@[simp] theorem State.raise_pending (s : State) (src : Nat) : (s.raise src).pending = s.pending := by
  unfold State.raise; simp only; split <;> simp
@[simp] theorem State.raise_free (s : State) (src : Nat) : (s.raise src).free = s.free := by
  unfold State.raise; simp only; split <;> simp
@[simp] theorem State.raise_cores (s : State) (src : Nat) : (s.raise src).cores = s.cores := by
  unfold State.raise; simp only; split <;> simp
@[simp] theorem State.raise_phys (s : State) (src : Nat) : (s.raise src).phys = s.phys := by
  unfold State.raise; simp only; split <;> simp
@[simp] theorem State.raise_mem (s : State) (src : Nat) : (s.raise src).mem = s.mem := by
  unfold State.raise; simp only; split <;> simp
@[simp] theorem State.raise_coh (s : State) (src : Nat) : (s.raise src).coh = s.coh := by
  unfold State.raise; simp only; split <;> simp
@[simp] theorem State.raise_clog (s : State) (src : Nat) : (s.raise src).clog = s.clog := by
  unfold State.raise; simp only; split <;> simp
@[simp] theorem State.raise_plog (s : State) (src : Nat) : (s.raise src).plog = s.plog := by
  unfold State.raise; simp only; split <;> simp
@[simp] theorem State.raise_io (s : State) (src : Nat) : (s.raise src).io = s.io := by
  unfold State.raise; simp only; split <;> simp
@[simp] theorem State.raise_pair (s : State) (src : Nat) : (s.raise src).pair = s.pair := by
  unfold State.raise; simp only; split <;> simp
@[simp] theorem State.raise_tap (s : State) (src : Nat) : (s.raise src).tap = s.tap := by
  unfold State.raise; simp only; split <;> simp
@[simp] theorem State.raise_pins (s : State) (src : Nat) : (s.raise src).pins = s.pins := by
  unfold State.raise; simp only; split <;> simp
@[simp] theorem State.raise_rom (s : State) (src : Nat) : (s.raise src).rom = s.rom := by
  unfold State.raise; simp only; split <;> simp
@[simp] theorem State.raise_start (s : State) (src : Nat) : (s.raise src).start = s.start := by
  unfold State.raise; simp only; split <;> simp
@[simp] theorem State.raise_image (s : State) (src : Nat) : (s.raise src).image = s.image := by
  unfold State.raise; simp only; split <;> simp
@[simp] theorem State.raise_stop (s : State) (src : Nat) : (s.raise src).stop = s.stop := by
  unfold State.raise; simp only; split <;> simp
@[simp] theorem State.raise_ts (s : State) (src : Nat) : (s.raise src).ts = s.ts := by
  unfold State.raise; simp only; split <;> simp
@[simp] theorem State.raise_tsRun (s : State) (src : Nat) : (s.raise src).tsRun = s.tsRun := by
  unfold State.raise; simp only; split <;> simp
@[simp] theorem State.raise_levels (s : State) (src : Nat) : (s.raise src).levels = s.levels := by
  unfold State.raise; simp only; split <;> simp
@[simp] theorem State.raise_badRoutes (s : State) (src : Nat) : (s.raise src).badRoutes = s.badRoutes := by
  unfold State.raise; simp only; split <;> simp
@[simp] theorem State.raise_waiting (s : State) (src : Nat) : (s.raise src).waiting = s.waiting := by
  unfold State.raise; simp only; split <;> simp

@[simp] theorem State.setEv_pending (s : State) (off i src : Nat) : (s.setEv off i src).pending = s.pending := by
  simp [State.setEv]
@[simp] theorem State.setEv_free (s : State) (off i src : Nat) : (s.setEv off i src).free = s.free := by
  simp [State.setEv]
@[simp] theorem State.setEv_cores (s : State) (off i src : Nat) : (s.setEv off i src).cores = s.cores := by
  simp [State.setEv]
@[simp] theorem State.setEv_phys (s : State) (off i src : Nat) : (s.setEv off i src).phys = s.phys := by
  simp [State.setEv]
@[simp] theorem State.setEv_mem (s : State) (off i src : Nat) : (s.setEv off i src).mem = s.mem := by
  simp [State.setEv]
@[simp] theorem State.setEv_coh (s : State) (off i src : Nat) : (s.setEv off i src).coh = s.coh := by
  simp [State.setEv]
@[simp] theorem State.setEv_clog (s : State) (off i src : Nat) : (s.setEv off i src).clog = s.clog := by
  simp [State.setEv]
@[simp] theorem State.setEv_plog (s : State) (off i src : Nat) : (s.setEv off i src).plog = s.plog := by
  simp [State.setEv]
@[simp] theorem State.setEv_io (s : State) (off i src : Nat) : (s.setEv off i src).io = s.io := by
  simp [State.setEv]
@[simp] theorem State.setEv_pair (s : State) (off i src : Nat) : (s.setEv off i src).pair = s.pair := by
  simp [State.setEv]
@[simp] theorem State.setEv_tap (s : State) (off i src : Nat) : (s.setEv off i src).tap = s.tap := by
  simp [State.setEv]
@[simp] theorem State.setEv_pins (s : State) (off i src : Nat) : (s.setEv off i src).pins = s.pins := by
  simp [State.setEv]
@[simp] theorem State.setEv_rom (s : State) (off i src : Nat) : (s.setEv off i src).rom = s.rom := by
  simp [State.setEv]
@[simp] theorem State.setEv_start (s : State) (off i src : Nat) : (s.setEv off i src).start = s.start := by
  simp [State.setEv]
@[simp] theorem State.setEv_image (s : State) (off i src : Nat) : (s.setEv off i src).image = s.image := by
  simp [State.setEv]
@[simp] theorem State.setEv_stop (s : State) (off i src : Nat) : (s.setEv off i src).stop = s.stop := by
  simp [State.setEv]
@[simp] theorem State.setEv_ts (s : State) (off i src : Nat) : (s.setEv off i src).ts = s.ts := by
  simp [State.setEv]
@[simp] theorem State.setEv_tsRun (s : State) (off i src : Nat) : (s.setEv off i src).tsRun = s.tsRun := by
  simp [State.setEv]
@[simp] theorem State.setEv_levels (s : State) (off i src : Nat) : (s.setEv off i src).levels = s.levels := by
  simp [State.setEv]
@[simp] theorem State.setEv_badRoutes (s : State) (off i src : Nat) : (s.setEv off i src).badRoutes = s.badRoutes := by
  simp [State.setEv]
@[simp] theorem State.setEv_waiting (s : State) (off i src : Nat) : (s.setEv off i src).waiting = s.waiting := by
  simp [State.setEv]


/-! ### Frames to the partner (R450-R453) -/

@[simp] theorem State.putFrame_pending (s : State) (f : Frame) : (s.putFrame f).pending = s.pending := by simp [State.putFrame]
@[simp] theorem State.putFrame_free (s : State) (f : Frame) : (s.putFrame f).free = s.free := by simp [State.putFrame]
@[simp] theorem State.putFrame_cores (s : State) (f : Frame) : (s.putFrame f).cores = s.cores := by simp [State.putFrame]
@[simp] theorem State.putFrame_phys (s : State) (f : Frame) : (s.putFrame f).phys = s.phys := by simp [State.putFrame]
@[simp] theorem State.putFrame_mem (s : State) (f : Frame) : (s.putFrame f).mem = s.mem := by simp [State.putFrame]
@[simp] theorem State.putFrame_coh (s : State) (f : Frame) : (s.putFrame f).coh = s.coh := by simp [State.putFrame]
@[simp] theorem State.putFrame_clog (s : State) (f : Frame) : (s.putFrame f).clog = s.clog := by simp [State.putFrame]
@[simp] theorem State.putFrame_plog (s : State) (f : Frame) : (s.putFrame f).plog = s.plog := by simp [State.putFrame]
@[simp] theorem State.putFrame_io (s : State) (f : Frame) : (s.putFrame f).io = s.io := by simp [State.putFrame]
@[simp] theorem State.putFrame_tap (s : State) (f : Frame) : (s.putFrame f).tap = s.tap := by simp [State.putFrame]
@[simp] theorem State.putFrame_pins (s : State) (f : Frame) : (s.putFrame f).pins = s.pins := by simp [State.putFrame]
@[simp] theorem State.putFrame_rom (s : State) (f : Frame) : (s.putFrame f).rom = s.rom := by simp [State.putFrame]
@[simp] theorem State.putFrame_start (s : State) (f : Frame) : (s.putFrame f).start = s.start := by simp [State.putFrame]
@[simp] theorem State.putFrame_image (s : State) (f : Frame) : (s.putFrame f).image = s.image := by simp [State.putFrame]
@[simp] theorem State.putFrame_stop (s : State) (f : Frame) : (s.putFrame f).stop = s.stop := by simp [State.putFrame]
@[simp] theorem State.putFrame_ts (s : State) (f : Frame) : (s.putFrame f).ts = s.ts := by simp [State.putFrame]
@[simp] theorem State.putFrame_tsRun (s : State) (f : Frame) : (s.putFrame f).tsRun = s.tsRun := by simp [State.putFrame]
@[simp] theorem State.putFrame_levels (s : State) (f : Frame) : (s.putFrame f).levels = s.levels := by simp [State.putFrame]
@[simp] theorem State.putFrame_badRoutes (s : State) (f : Frame) : (s.putFrame f).badRoutes = s.badRoutes := by simp [State.putFrame]
@[simp] theorem State.putFrame_waiting (s : State) (f : Frame) : (s.putFrame f).waiting = s.waiting := by simp [State.putFrame]

@[simp] theorem State.pumpFrames_pending (k : Nat) (s : State) : (State.pumpFrames k s).pending = s.pending := by
  induction k generalizing s with
  | zero => rfl
  | succ k ih => unfold State.pumpFrames; repeat' split
                 all_goals first | rfl | simp [ih]
@[simp] theorem State.pumpFrames_free (k : Nat) (s : State) : (State.pumpFrames k s).free = s.free := by
  induction k generalizing s with
  | zero => rfl
  | succ k ih => unfold State.pumpFrames; repeat' split
                 all_goals first | rfl | simp [ih]
@[simp] theorem State.pumpFrames_cores (k : Nat) (s : State) : (State.pumpFrames k s).cores = s.cores := by
  induction k generalizing s with
  | zero => rfl
  | succ k ih => unfold State.pumpFrames; repeat' split
                 all_goals first | rfl | simp [ih]
@[simp] theorem State.pumpFrames_phys (k : Nat) (s : State) : (State.pumpFrames k s).phys = s.phys := by
  induction k generalizing s with
  | zero => rfl
  | succ k ih => unfold State.pumpFrames; repeat' split
                 all_goals first | rfl | simp [ih]
@[simp] theorem State.pumpFrames_mem (k : Nat) (s : State) : (State.pumpFrames k s).mem = s.mem := by
  induction k generalizing s with
  | zero => rfl
  | succ k ih => unfold State.pumpFrames; repeat' split
                 all_goals first | rfl | simp [ih]
@[simp] theorem State.pumpFrames_coh (k : Nat) (s : State) : (State.pumpFrames k s).coh = s.coh := by
  induction k generalizing s with
  | zero => rfl
  | succ k ih => unfold State.pumpFrames; repeat' split
                 all_goals first | rfl | simp [ih]
@[simp] theorem State.pumpFrames_clog (k : Nat) (s : State) : (State.pumpFrames k s).clog = s.clog := by
  induction k generalizing s with
  | zero => rfl
  | succ k ih => unfold State.pumpFrames; repeat' split
                 all_goals first | rfl | simp [ih]
@[simp] theorem State.pumpFrames_plog (k : Nat) (s : State) : (State.pumpFrames k s).plog = s.plog := by
  induction k generalizing s with
  | zero => rfl
  | succ k ih => unfold State.pumpFrames; repeat' split
                 all_goals first | rfl | simp [ih]
@[simp] theorem State.pumpFrames_io (k : Nat) (s : State) : (State.pumpFrames k s).io = s.io := by
  induction k generalizing s with
  | zero => rfl
  | succ k ih => unfold State.pumpFrames; repeat' split
                 all_goals first | rfl | simp [ih]
@[simp] theorem State.pumpFrames_tap (k : Nat) (s : State) : (State.pumpFrames k s).tap = s.tap := by
  induction k generalizing s with
  | zero => rfl
  | succ k ih => unfold State.pumpFrames; repeat' split
                 all_goals first | rfl | simp [ih]
@[simp] theorem State.pumpFrames_pins (k : Nat) (s : State) : (State.pumpFrames k s).pins = s.pins := by
  induction k generalizing s with
  | zero => rfl
  | succ k ih => unfold State.pumpFrames; repeat' split
                 all_goals first | rfl | simp [ih]
@[simp] theorem State.pumpFrames_rom (k : Nat) (s : State) : (State.pumpFrames k s).rom = s.rom := by
  induction k generalizing s with
  | zero => rfl
  | succ k ih => unfold State.pumpFrames; repeat' split
                 all_goals first | rfl | simp [ih]
@[simp] theorem State.pumpFrames_start (k : Nat) (s : State) : (State.pumpFrames k s).start = s.start := by
  induction k generalizing s with
  | zero => rfl
  | succ k ih => unfold State.pumpFrames; repeat' split
                 all_goals first | rfl | simp [ih]
@[simp] theorem State.pumpFrames_image (k : Nat) (s : State) : (State.pumpFrames k s).image = s.image := by
  induction k generalizing s with
  | zero => rfl
  | succ k ih => unfold State.pumpFrames; repeat' split
                 all_goals first | rfl | simp [ih]
@[simp] theorem State.pumpFrames_stop (k : Nat) (s : State) : (State.pumpFrames k s).stop = s.stop := by
  induction k generalizing s with
  | zero => rfl
  | succ k ih => unfold State.pumpFrames; repeat' split
                 all_goals first | rfl | simp [ih]
@[simp] theorem State.pumpFrames_ts (k : Nat) (s : State) : (State.pumpFrames k s).ts = s.ts := by
  induction k generalizing s with
  | zero => rfl
  | succ k ih => unfold State.pumpFrames; repeat' split
                 all_goals first | rfl | simp [ih]
@[simp] theorem State.pumpFrames_tsRun (k : Nat) (s : State) : (State.pumpFrames k s).tsRun = s.tsRun := by
  induction k generalizing s with
  | zero => rfl
  | succ k ih => unfold State.pumpFrames; repeat' split
                 all_goals first | rfl | simp [ih]
@[simp] theorem State.pumpFrames_levels (k : Nat) (s : State) : (State.pumpFrames k s).levels = s.levels := by
  induction k generalizing s with
  | zero => rfl
  | succ k ih => unfold State.pumpFrames; repeat' split
                 all_goals first | rfl | simp [ih]
@[simp] theorem State.pumpFrames_badRoutes (k : Nat) (s : State) : (State.pumpFrames k s).badRoutes = s.badRoutes := by
  induction k generalizing s with
  | zero => rfl
  | succ k ih => unfold State.pumpFrames; repeat' split
                 all_goals first | rfl | simp [ih]
@[simp] theorem State.pumpFrames_waiting (k : Nat) (s : State) : (State.pumpFrames k s).waiting = s.waiting := by
  induction k generalizing s with
  | zero => rfl
  | succ k ih => unfold State.pumpFrames; repeat' split
                 all_goals first | rfl | simp [ih]

@[simp] theorem State.postFrame_pending (s : State) (b : FrameBody) (a : Bool) : (s.postFrame b a).pending = s.pending := by
  unfold State.postFrame; simp only; split <;> simp
@[simp] theorem State.postFrame_free (s : State) (b : FrameBody) (a : Bool) : (s.postFrame b a).free = s.free := by
  unfold State.postFrame; simp only; split <;> simp
@[simp] theorem State.postFrame_cores (s : State) (b : FrameBody) (a : Bool) : (s.postFrame b a).cores = s.cores := by
  unfold State.postFrame; simp only; split <;> simp
@[simp] theorem State.postFrame_phys (s : State) (b : FrameBody) (a : Bool) : (s.postFrame b a).phys = s.phys := by
  unfold State.postFrame; simp only; split <;> simp
@[simp] theorem State.postFrame_mem (s : State) (b : FrameBody) (a : Bool) : (s.postFrame b a).mem = s.mem := by
  unfold State.postFrame; simp only; split <;> simp
@[simp] theorem State.postFrame_coh (s : State) (b : FrameBody) (a : Bool) : (s.postFrame b a).coh = s.coh := by
  unfold State.postFrame; simp only; split <;> simp
@[simp] theorem State.postFrame_clog (s : State) (b : FrameBody) (a : Bool) : (s.postFrame b a).clog = s.clog := by
  unfold State.postFrame; simp only; split <;> simp
@[simp] theorem State.postFrame_plog (s : State) (b : FrameBody) (a : Bool) : (s.postFrame b a).plog = s.plog := by
  unfold State.postFrame; simp only; split <;> simp
@[simp] theorem State.postFrame_io (s : State) (b : FrameBody) (a : Bool) : (s.postFrame b a).io = s.io := by
  unfold State.postFrame; simp only; split <;> simp
@[simp] theorem State.postFrame_tap (s : State) (b : FrameBody) (a : Bool) : (s.postFrame b a).tap = s.tap := by
  unfold State.postFrame; simp only; split <;> simp
@[simp] theorem State.postFrame_pins (s : State) (b : FrameBody) (a : Bool) : (s.postFrame b a).pins = s.pins := by
  unfold State.postFrame; simp only; split <;> simp
@[simp] theorem State.postFrame_rom (s : State) (b : FrameBody) (a : Bool) : (s.postFrame b a).rom = s.rom := by
  unfold State.postFrame; simp only; split <;> simp
@[simp] theorem State.postFrame_start (s : State) (b : FrameBody) (a : Bool) : (s.postFrame b a).start = s.start := by
  unfold State.postFrame; simp only; split <;> simp
@[simp] theorem State.postFrame_image (s : State) (b : FrameBody) (a : Bool) : (s.postFrame b a).image = s.image := by
  unfold State.postFrame; simp only; split <;> simp
@[simp] theorem State.postFrame_stop (s : State) (b : FrameBody) (a : Bool) : (s.postFrame b a).stop = s.stop := by
  unfold State.postFrame; simp only; split <;> simp
@[simp] theorem State.postFrame_ts (s : State) (b : FrameBody) (a : Bool) : (s.postFrame b a).ts = s.ts := by
  unfold State.postFrame; simp only; split <;> simp
@[simp] theorem State.postFrame_tsRun (s : State) (b : FrameBody) (a : Bool) : (s.postFrame b a).tsRun = s.tsRun := by
  unfold State.postFrame; simp only; split <;> simp
@[simp] theorem State.postFrame_levels (s : State) (b : FrameBody) (a : Bool) : (s.postFrame b a).levels = s.levels := by
  unfold State.postFrame; simp only; split <;> simp
@[simp] theorem State.postFrame_badRoutes (s : State) (b : FrameBody) (a : Bool) : (s.postFrame b a).badRoutes = s.badRoutes := by
  unfold State.postFrame; simp only; split <;> simp
@[simp] theorem State.postFrame_waiting (s : State) (b : FrameBody) (a : Bool) : (s.postFrame b a).waiting = s.waiting := by
  unfold State.postFrame; simp only; split <;> simp

@[simp] theorem State.sendFrame_pending (s : State) (b : FrameBody) : (s.sendFrame b).pending = s.pending := by
  unfold State.sendFrame; split <;> simp
@[simp] theorem State.sendFrame_free (s : State) (b : FrameBody) : (s.sendFrame b).free = s.free := by
  unfold State.sendFrame; split <;> simp
@[simp] theorem State.sendFrame_cores (s : State) (b : FrameBody) : (s.sendFrame b).cores = s.cores := by
  unfold State.sendFrame; split <;> simp
@[simp] theorem State.sendFrame_phys (s : State) (b : FrameBody) : (s.sendFrame b).phys = s.phys := by
  unfold State.sendFrame; split <;> simp
@[simp] theorem State.sendFrame_mem (s : State) (b : FrameBody) : (s.sendFrame b).mem = s.mem := by
  unfold State.sendFrame; split <;> simp
@[simp] theorem State.sendFrame_coh (s : State) (b : FrameBody) : (s.sendFrame b).coh = s.coh := by
  unfold State.sendFrame; split <;> simp
@[simp] theorem State.sendFrame_clog (s : State) (b : FrameBody) : (s.sendFrame b).clog = s.clog := by
  unfold State.sendFrame; split <;> simp
@[simp] theorem State.sendFrame_plog (s : State) (b : FrameBody) : (s.sendFrame b).plog = s.plog := by
  unfold State.sendFrame; split <;> simp
@[simp] theorem State.sendFrame_io (s : State) (b : FrameBody) : (s.sendFrame b).io = s.io := by
  unfold State.sendFrame; split <;> simp
@[simp] theorem State.sendFrame_tap (s : State) (b : FrameBody) : (s.sendFrame b).tap = s.tap := by
  unfold State.sendFrame; split <;> simp
@[simp] theorem State.sendFrame_pins (s : State) (b : FrameBody) : (s.sendFrame b).pins = s.pins := by
  unfold State.sendFrame; split <;> simp
@[simp] theorem State.sendFrame_rom (s : State) (b : FrameBody) : (s.sendFrame b).rom = s.rom := by
  unfold State.sendFrame; split <;> simp
@[simp] theorem State.sendFrame_start (s : State) (b : FrameBody) : (s.sendFrame b).start = s.start := by
  unfold State.sendFrame; split <;> simp
@[simp] theorem State.sendFrame_image (s : State) (b : FrameBody) : (s.sendFrame b).image = s.image := by
  unfold State.sendFrame; split <;> simp
@[simp] theorem State.sendFrame_stop (s : State) (b : FrameBody) : (s.sendFrame b).stop = s.stop := by
  unfold State.sendFrame; split <;> simp
@[simp] theorem State.sendFrame_ts (s : State) (b : FrameBody) : (s.sendFrame b).ts = s.ts := by
  unfold State.sendFrame; split <;> simp
@[simp] theorem State.sendFrame_tsRun (s : State) (b : FrameBody) : (s.sendFrame b).tsRun = s.tsRun := by
  unfold State.sendFrame; split <;> simp
@[simp] theorem State.sendFrame_levels (s : State) (b : FrameBody) : (s.sendFrame b).levels = s.levels := by
  unfold State.sendFrame; split <;> simp
@[simp] theorem State.sendFrame_badRoutes (s : State) (b : FrameBody) : (s.sendFrame b).badRoutes = s.badRoutes := by
  unfold State.sendFrame; split <;> simp
@[simp] theorem State.sendFrame_waiting (s : State) (b : FrameBody) : (s.sendFrame b).waiting = s.waiting := by
  unfold State.sendFrame; split <;> simp


/-! ### The fault collector (R472-R481) -/

@[simp] theorem State.setCapture_pending (s : State) (c : Nat) (f : FaultArg) : (s.setCapture c f).pending = s.pending := rfl
@[simp] theorem State.setCapture_free (s : State) (c : Nat) (f : FaultArg) : (s.setCapture c f).free = s.free := rfl
@[simp] theorem State.setCapture_cores (s : State) (c : Nat) (f : FaultArg) : (s.setCapture c f).cores = s.cores := rfl
@[simp] theorem State.setCapture_phys (s : State) (c : Nat) (f : FaultArg) : (s.setCapture c f).phys = s.phys := rfl
@[simp] theorem State.setCapture_mem (s : State) (c : Nat) (f : FaultArg) : (s.setCapture c f).mem = s.mem := rfl
@[simp] theorem State.setCapture_coh (s : State) (c : Nat) (f : FaultArg) : (s.setCapture c f).coh = s.coh := rfl
@[simp] theorem State.setCapture_clog (s : State) (c : Nat) (f : FaultArg) : (s.setCapture c f).clog = s.clog := rfl
@[simp] theorem State.setCapture_plog (s : State) (c : Nat) (f : FaultArg) : (s.setCapture c f).plog = s.plog := rfl
@[simp] theorem State.setCapture_io (s : State) (c : Nat) (f : FaultArg) : (s.setCapture c f).io = s.io := rfl
@[simp] theorem State.setCapture_pair (s : State) (c : Nat) (f : FaultArg) : (s.setCapture c f).pair = s.pair := rfl
@[simp] theorem State.setCapture_tap (s : State) (c : Nat) (f : FaultArg) : (s.setCapture c f).tap = s.tap := rfl
@[simp] theorem State.setCapture_pins (s : State) (c : Nat) (f : FaultArg) : (s.setCapture c f).pins = s.pins := rfl
@[simp] theorem State.setCapture_rom (s : State) (c : Nat) (f : FaultArg) : (s.setCapture c f).rom = s.rom := rfl
@[simp] theorem State.setCapture_start (s : State) (c : Nat) (f : FaultArg) : (s.setCapture c f).start = s.start := rfl
@[simp] theorem State.setCapture_image (s : State) (c : Nat) (f : FaultArg) : (s.setCapture c f).image = s.image := rfl
@[simp] theorem State.setCapture_stop (s : State) (c : Nat) (f : FaultArg) : (s.setCapture c f).stop = s.stop := rfl
@[simp] theorem State.setCapture_ts (s : State) (c : Nat) (f : FaultArg) : (s.setCapture c f).ts = s.ts := rfl
@[simp] theorem State.setCapture_tsRun (s : State) (c : Nat) (f : FaultArg) : (s.setCapture c f).tsRun = s.tsRun := rfl
@[simp] theorem State.setCapture_levels (s : State) (c : Nat) (f : FaultArg) : (s.setCapture c f).levels = s.levels := rfl
@[simp] theorem State.setCapture_badRoutes (s : State) (c : Nat) (f : FaultArg) : (s.setCapture c f).badRoutes = s.badRoutes := rfl
@[simp] theorem State.setCapture_waiting (s : State) (c : Nat) (f : FaultArg) : (s.setCapture c f).waiting = s.waiting := rfl

@[simp] theorem State.capture_pending (s : State) (c : Nat) (f : FaultArg) : (s.capture c f).pending = s.pending := by
  unfold State.capture; repeat' split
  all_goals simp
@[simp] theorem State.capture_free (s : State) (c : Nat) (f : FaultArg) : (s.capture c f).free = s.free := by
  unfold State.capture; repeat' split
  all_goals simp
@[simp] theorem State.capture_cores (s : State) (c : Nat) (f : FaultArg) : (s.capture c f).cores = s.cores := by
  unfold State.capture; repeat' split
  all_goals simp
@[simp] theorem State.capture_phys (s : State) (c : Nat) (f : FaultArg) : (s.capture c f).phys = s.phys := by
  unfold State.capture; repeat' split
  all_goals simp
@[simp] theorem State.capture_mem (s : State) (c : Nat) (f : FaultArg) : (s.capture c f).mem = s.mem := by
  unfold State.capture; repeat' split
  all_goals simp
@[simp] theorem State.capture_coh (s : State) (c : Nat) (f : FaultArg) : (s.capture c f).coh = s.coh := by
  unfold State.capture; repeat' split
  all_goals simp
@[simp] theorem State.capture_clog (s : State) (c : Nat) (f : FaultArg) : (s.capture c f).clog = s.clog := by
  unfold State.capture; repeat' split
  all_goals simp
@[simp] theorem State.capture_plog (s : State) (c : Nat) (f : FaultArg) : (s.capture c f).plog = s.plog := by
  unfold State.capture; repeat' split
  all_goals simp
@[simp] theorem State.capture_io (s : State) (c : Nat) (f : FaultArg) : (s.capture c f).io = s.io := by
  unfold State.capture; repeat' split
  all_goals simp
@[simp] theorem State.capture_pair (s : State) (c : Nat) (f : FaultArg) : (s.capture c f).pair = s.pair := by
  unfold State.capture; repeat' split
  all_goals simp
@[simp] theorem State.capture_tap (s : State) (c : Nat) (f : FaultArg) : (s.capture c f).tap = s.tap := by
  unfold State.capture; repeat' split
  all_goals simp
@[simp] theorem State.capture_pins (s : State) (c : Nat) (f : FaultArg) : (s.capture c f).pins = s.pins := by
  unfold State.capture; repeat' split
  all_goals simp
@[simp] theorem State.capture_rom (s : State) (c : Nat) (f : FaultArg) : (s.capture c f).rom = s.rom := by
  unfold State.capture; repeat' split
  all_goals simp
@[simp] theorem State.capture_start (s : State) (c : Nat) (f : FaultArg) : (s.capture c f).start = s.start := by
  unfold State.capture; repeat' split
  all_goals simp
@[simp] theorem State.capture_image (s : State) (c : Nat) (f : FaultArg) : (s.capture c f).image = s.image := by
  unfold State.capture; repeat' split
  all_goals simp
@[simp] theorem State.capture_stop (s : State) (c : Nat) (f : FaultArg) : (s.capture c f).stop = s.stop := by
  unfold State.capture; repeat' split
  all_goals simp
@[simp] theorem State.capture_ts (s : State) (c : Nat) (f : FaultArg) : (s.capture c f).ts = s.ts := by
  unfold State.capture; repeat' split
  all_goals simp
@[simp] theorem State.capture_tsRun (s : State) (c : Nat) (f : FaultArg) : (s.capture c f).tsRun = s.tsRun := by
  unfold State.capture; repeat' split
  all_goals simp
@[simp] theorem State.capture_levels (s : State) (c : Nat) (f : FaultArg) : (s.capture c f).levels = s.levels := by
  unfold State.capture; repeat' split
  all_goals simp
@[simp] theorem State.capture_badRoutes (s : State) (c : Nat) (f : FaultArg) : (s.capture c f).badRoutes = s.badRoutes := by
  unfold State.capture; repeat' split
  all_goals simp
@[simp] theorem State.capture_waiting (s : State) (c : Nat) (f : FaultArg) : (s.capture c f).waiting = s.waiting := by
  unfold State.capture; repeat' split
  all_goals simp

@[simp] theorem State.countClass_pending (s : State) (c : Nat) : (s.countClass c).pending = s.pending := rfl
@[simp] theorem State.countClass_free (s : State) (c : Nat) : (s.countClass c).free = s.free := rfl
@[simp] theorem State.countClass_cores (s : State) (c : Nat) : (s.countClass c).cores = s.cores := rfl
@[simp] theorem State.countClass_phys (s : State) (c : Nat) : (s.countClass c).phys = s.phys := rfl
@[simp] theorem State.countClass_mem (s : State) (c : Nat) : (s.countClass c).mem = s.mem := rfl
@[simp] theorem State.countClass_coh (s : State) (c : Nat) : (s.countClass c).coh = s.coh := rfl
@[simp] theorem State.countClass_clog (s : State) (c : Nat) : (s.countClass c).clog = s.clog := rfl
@[simp] theorem State.countClass_plog (s : State) (c : Nat) : (s.countClass c).plog = s.plog := rfl
@[simp] theorem State.countClass_io (s : State) (c : Nat) : (s.countClass c).io = s.io := rfl
@[simp] theorem State.countClass_pair (s : State) (c : Nat) : (s.countClass c).pair = s.pair := rfl
@[simp] theorem State.countClass_tap (s : State) (c : Nat) : (s.countClass c).tap = s.tap := rfl
@[simp] theorem State.countClass_pins (s : State) (c : Nat) : (s.countClass c).pins = s.pins := rfl
@[simp] theorem State.countClass_rom (s : State) (c : Nat) : (s.countClass c).rom = s.rom := rfl
@[simp] theorem State.countClass_start (s : State) (c : Nat) : (s.countClass c).start = s.start := rfl
@[simp] theorem State.countClass_image (s : State) (c : Nat) : (s.countClass c).image = s.image := rfl
@[simp] theorem State.countClass_stop (s : State) (c : Nat) : (s.countClass c).stop = s.stop := rfl
@[simp] theorem State.countClass_ts (s : State) (c : Nat) : (s.countClass c).ts = s.ts := rfl
@[simp] theorem State.countClass_tsRun (s : State) (c : Nat) : (s.countClass c).tsRun = s.tsRun := rfl
@[simp] theorem State.countClass_levels (s : State) (c : Nat) : (s.countClass c).levels = s.levels := rfl
@[simp] theorem State.countClass_badRoutes (s : State) (c : Nat) : (s.countClass c).badRoutes = s.badRoutes := rfl
@[simp] theorem State.countClass_waiting (s : State) (c : Nat) : (s.countClass c).waiting = s.waiting := rfl

@[simp] theorem State.stopUnits_pending (s : State) (why : Stop) : (s.stopUnits why).pending = s.pending := by
  unfold State.stopUnits; split <;> rfl
@[simp] theorem State.stopUnits_free (s : State) (why : Stop) : (s.stopUnits why).free = s.free := by
  unfold State.stopUnits; split <;> rfl
@[simp] theorem State.stopUnits_phys (s : State) (why : Stop) : (s.stopUnits why).phys = s.phys := by
  unfold State.stopUnits; split <;> rfl
@[simp] theorem State.stopUnits_mem (s : State) (why : Stop) : (s.stopUnits why).mem = s.mem := by
  unfold State.stopUnits; split <;> rfl
@[simp] theorem State.stopUnits_coh (s : State) (why : Stop) : (s.stopUnits why).coh = s.coh := by
  unfold State.stopUnits; split <;> rfl
@[simp] theorem State.stopUnits_clog (s : State) (why : Stop) : (s.stopUnits why).clog = s.clog := by
  unfold State.stopUnits; split <;> rfl
@[simp] theorem State.stopUnits_plog (s : State) (why : Stop) : (s.stopUnits why).plog = s.plog := by
  unfold State.stopUnits; split <;> rfl
@[simp] theorem State.stopUnits_io (s : State) (why : Stop) : (s.stopUnits why).io = s.io := by
  unfold State.stopUnits; split <;> rfl
@[simp] theorem State.stopUnits_pair (s : State) (why : Stop) : (s.stopUnits why).pair = s.pair := by
  unfold State.stopUnits; split <;> rfl
@[simp] theorem State.stopUnits_tap (s : State) (why : Stop) : (s.stopUnits why).tap = s.tap := by
  unfold State.stopUnits; split <;> rfl
@[simp] theorem State.stopUnits_pins (s : State) (why : Stop) : (s.stopUnits why).pins = s.pins := by
  unfold State.stopUnits; split <;> rfl
@[simp] theorem State.stopUnits_rom (s : State) (why : Stop) : (s.stopUnits why).rom = s.rom := by
  unfold State.stopUnits; split <;> rfl
@[simp] theorem State.stopUnits_start (s : State) (why : Stop) : (s.stopUnits why).start = s.start := by
  unfold State.stopUnits; split <;> rfl
@[simp] theorem State.stopUnits_image (s : State) (why : Stop) : (s.stopUnits why).image = s.image := by
  unfold State.stopUnits; split <;> rfl
@[simp] theorem State.stopUnits_ts (s : State) (why : Stop) : (s.stopUnits why).ts = s.ts := by
  unfold State.stopUnits; split <;> rfl
@[simp] theorem State.stopUnits_tsRun (s : State) (why : Stop) : (s.stopUnits why).tsRun = s.tsRun := by
  unfold State.stopUnits; split <;> rfl
@[simp] theorem State.stopUnits_levels (s : State) (why : Stop) : (s.stopUnits why).levels = s.levels := by
  unfold State.stopUnits; split <;> rfl
@[simp] theorem State.stopUnits_badRoutes (s : State) (why : Stop) : (s.stopUnits why).badRoutes = s.badRoutes := by
  unfold State.stopUnits; split <;> rfl
@[simp] theorem State.stopUnits_waiting (s : State) (why : Stop) : (s.stopUnits why).waiting = s.waiting := by
  unfold State.stopUnits; split <;> rfl

@[simp] theorem State.dropActOut_pending (s : State) : s.dropActOut.pending = s.pending := rfl
@[simp] theorem State.dropActOut_free (s : State) : s.dropActOut.free = s.free := rfl
@[simp] theorem State.dropActOut_cores (s : State) : s.dropActOut.cores = s.cores := rfl
@[simp] theorem State.dropActOut_phys (s : State) : s.dropActOut.phys = s.phys := rfl
@[simp] theorem State.dropActOut_mem (s : State) : s.dropActOut.mem = s.mem := rfl
@[simp] theorem State.dropActOut_coh (s : State) : s.dropActOut.coh = s.coh := rfl
@[simp] theorem State.dropActOut_clog (s : State) : s.dropActOut.clog = s.clog := rfl
@[simp] theorem State.dropActOut_plog (s : State) : s.dropActOut.plog = s.plog := rfl
@[simp] theorem State.dropActOut_io (s : State) : s.dropActOut.io = s.io := rfl
@[simp] theorem State.dropActOut_pair (s : State) : s.dropActOut.pair = s.pair := rfl
@[simp] theorem State.dropActOut_tap (s : State) : s.dropActOut.tap = s.tap := rfl
@[simp] theorem State.dropActOut_rom (s : State) : s.dropActOut.rom = s.rom := rfl
@[simp] theorem State.dropActOut_start (s : State) : s.dropActOut.start = s.start := rfl
@[simp] theorem State.dropActOut_image (s : State) : s.dropActOut.image = s.image := rfl
@[simp] theorem State.dropActOut_stop (s : State) : s.dropActOut.stop = s.stop := rfl
@[simp] theorem State.dropActOut_ts (s : State) : s.dropActOut.ts = s.ts := rfl
@[simp] theorem State.dropActOut_tsRun (s : State) : s.dropActOut.tsRun = s.tsRun := rfl
@[simp] theorem State.dropActOut_levels (s : State) : s.dropActOut.levels = s.levels := rfl
@[simp] theorem State.dropActOut_badRoutes (s : State) : s.dropActOut.badRoutes = s.badRoutes := rfl
@[simp] theorem State.dropActOut_waiting (s : State) : s.dropActOut.waiting = s.waiting := rfl

@[simp] theorem State.graveReact_pending (s : State) : s.graveReact.pending = s.pending := by
  unfold State.graveReact; repeat' (first | split | simp)
@[simp] theorem State.graveReact_free (s : State) : s.graveReact.free = s.free := by
  unfold State.graveReact; repeat' (first | split | simp)
@[simp] theorem State.graveReact_phys (s : State) : s.graveReact.phys = s.phys := by
  unfold State.graveReact; repeat' (first | split | simp)
@[simp] theorem State.graveReact_mem (s : State) : s.graveReact.mem = s.mem := by
  unfold State.graveReact; repeat' (first | split | simp)
@[simp] theorem State.graveReact_coh (s : State) : s.graveReact.coh = s.coh := by
  unfold State.graveReact; repeat' (first | split | simp)
@[simp] theorem State.graveReact_clog (s : State) : s.graveReact.clog = s.clog := by
  unfold State.graveReact; repeat' (first | split | simp)
@[simp] theorem State.graveReact_plog (s : State) : s.graveReact.plog = s.plog := by
  unfold State.graveReact; repeat' (first | split | simp)
@[simp] theorem State.graveReact_io (s : State) : s.graveReact.io = s.io := by
  unfold State.graveReact; repeat' (first | split | simp)
@[simp] theorem State.graveReact_tap (s : State) : s.graveReact.tap = s.tap := by
  unfold State.graveReact; repeat' (first | split | simp)
@[simp] theorem State.graveReact_rom (s : State) : s.graveReact.rom = s.rom := by
  unfold State.graveReact; repeat' (first | split | simp)
@[simp] theorem State.graveReact_start (s : State) : s.graveReact.start = s.start := by
  unfold State.graveReact; repeat' (first | split | simp)
@[simp] theorem State.graveReact_image (s : State) : s.graveReact.image = s.image := by
  unfold State.graveReact; repeat' (first | split | simp)
@[simp] theorem State.graveReact_ts (s : State) : s.graveReact.ts = s.ts := by
  unfold State.graveReact; repeat' (first | split | simp)
@[simp] theorem State.graveReact_tsRun (s : State) : s.graveReact.tsRun = s.tsRun := by
  unfold State.graveReact; repeat' (first | split | simp)
@[simp] theorem State.graveReact_levels (s : State) : s.graveReact.levels = s.levels := by
  unfold State.graveReact; repeat' (first | split | simp)
@[simp] theorem State.graveReact_badRoutes (s : State) : s.graveReact.badRoutes = s.badRoutes := by
  unfold State.graveReact; repeat' (first | split | simp)
@[simp] theorem State.graveReact_waiting (s : State) : s.graveReact.waiting = s.waiting := by
  unfold State.graveReact; repeat' (first | split | simp)

@[simp] theorem State.fault_pending (s : State) (a : FaultArg) : (s.fault a).pending = s.pending := by
  unfold State.fault; simp only; repeat' (first | split | simp)
@[simp] theorem State.fault_free (s : State) (a : FaultArg) : (s.fault a).free = s.free := by
  unfold State.fault; simp only; repeat' (first | split | simp)
@[simp] theorem State.fault_phys (s : State) (a : FaultArg) : (s.fault a).phys = s.phys := by
  unfold State.fault; simp only; repeat' (first | split | simp)
@[simp] theorem State.fault_mem (s : State) (a : FaultArg) : (s.fault a).mem = s.mem := by
  unfold State.fault; simp only; repeat' (first | split | simp)
@[simp] theorem State.fault_coh (s : State) (a : FaultArg) : (s.fault a).coh = s.coh := by
  unfold State.fault; simp only; repeat' (first | split | simp)
@[simp] theorem State.fault_clog (s : State) (a : FaultArg) : (s.fault a).clog = s.clog := by
  unfold State.fault; simp only; repeat' (first | split | simp)
@[simp] theorem State.fault_plog (s : State) (a : FaultArg) : (s.fault a).plog = s.plog := by
  unfold State.fault; simp only; repeat' (first | split | simp)
@[simp] theorem State.fault_io (s : State) (a : FaultArg) : (s.fault a).io = s.io := by
  unfold State.fault; simp only; repeat' (first | split | simp)
@[simp] theorem State.fault_tap (s : State) (a : FaultArg) : (s.fault a).tap = s.tap := by
  unfold State.fault; simp only; repeat' (first | split | simp)
@[simp] theorem State.fault_rom (s : State) (a : FaultArg) : (s.fault a).rom = s.rom := by
  unfold State.fault; simp only; repeat' (first | split | simp)
@[simp] theorem State.fault_start (s : State) (a : FaultArg) : (s.fault a).start = s.start := by
  unfold State.fault; simp only; repeat' (first | split | simp)
@[simp] theorem State.fault_image (s : State) (a : FaultArg) : (s.fault a).image = s.image := by
  unfold State.fault; simp only; repeat' (first | split | simp)
@[simp] theorem State.fault_ts (s : State) (a : FaultArg) : (s.fault a).ts = s.ts := by
  unfold State.fault; simp only; repeat' (first | split | simp)
@[simp] theorem State.fault_tsRun (s : State) (a : FaultArg) : (s.fault a).tsRun = s.tsRun := by
  unfold State.fault; simp only; repeat' (first | split | simp)
@[simp] theorem State.fault_levels (s : State) (a : FaultArg) : (s.fault a).levels = s.levels := by
  unfold State.fault; simp only; repeat' (first | split | simp)
@[simp] theorem State.fault_badRoutes (s : State) (a : FaultArg) : (s.fault a).badRoutes = s.badRoutes := by
  unfold State.fault; simp only; repeat' (first | split | simp)
@[simp] theorem State.fault_waiting (s : State) (a : FaultArg) : (s.fault a).waiting = s.waiting := by
  unfold State.fault; simp only; repeat' (first | split | simp)

@[simp] theorem State.coreFault_pending (s : State) (n src acc : Nat) (pa : Option Nat) : (s.coreFault n src acc pa).pending = s.pending := State.fault_pending s _
@[simp] theorem State.coreFault_free (s : State) (n src acc : Nat) (pa : Option Nat) : (s.coreFault n src acc pa).free = s.free := State.fault_free s _
@[simp] theorem State.coreFault_phys (s : State) (n src acc : Nat) (pa : Option Nat) : (s.coreFault n src acc pa).phys = s.phys := State.fault_phys s _
@[simp] theorem State.coreFault_mem (s : State) (n src acc : Nat) (pa : Option Nat) : (s.coreFault n src acc pa).mem = s.mem := State.fault_mem s _
@[simp] theorem State.coreFault_coh (s : State) (n src acc : Nat) (pa : Option Nat) : (s.coreFault n src acc pa).coh = s.coh := State.fault_coh s _
@[simp] theorem State.coreFault_clog (s : State) (n src acc : Nat) (pa : Option Nat) : (s.coreFault n src acc pa).clog = s.clog := State.fault_clog s _
@[simp] theorem State.coreFault_plog (s : State) (n src acc : Nat) (pa : Option Nat) : (s.coreFault n src acc pa).plog = s.plog := State.fault_plog s _
@[simp] theorem State.coreFault_io (s : State) (n src acc : Nat) (pa : Option Nat) : (s.coreFault n src acc pa).io = s.io := State.fault_io s _
@[simp] theorem State.coreFault_tap (s : State) (n src acc : Nat) (pa : Option Nat) : (s.coreFault n src acc pa).tap = s.tap := State.fault_tap s _
@[simp] theorem State.coreFault_rom (s : State) (n src acc : Nat) (pa : Option Nat) : (s.coreFault n src acc pa).rom = s.rom := State.fault_rom s _
@[simp] theorem State.coreFault_start (s : State) (n src acc : Nat) (pa : Option Nat) : (s.coreFault n src acc pa).start = s.start := State.fault_start s _
@[simp] theorem State.coreFault_image (s : State) (n src acc : Nat) (pa : Option Nat) : (s.coreFault n src acc pa).image = s.image := State.fault_image s _
@[simp] theorem State.coreFault_ts (s : State) (n src acc : Nat) (pa : Option Nat) : (s.coreFault n src acc pa).ts = s.ts := State.fault_ts s _
@[simp] theorem State.coreFault_tsRun (s : State) (n src acc : Nat) (pa : Option Nat) : (s.coreFault n src acc pa).tsRun = s.tsRun := State.fault_tsRun s _
@[simp] theorem State.coreFault_levels (s : State) (n src acc : Nat) (pa : Option Nat) : (s.coreFault n src acc pa).levels = s.levels := State.fault_levels s _
@[simp] theorem State.coreFault_badRoutes (s : State) (n src acc : Nat) (pa : Option Nat) : (s.coreFault n src acc pa).badRoutes = s.badRoutes := State.fault_badRoutes s _
@[simp] theorem State.coreFault_waiting (s : State) (n src acc : Nat) (pa : Option Nat) : (s.coreFault n src acc pa).waiting = s.waiting := State.fault_waiting s _

end Sys2Proof.Machine
end

