-- ==== Sys2Proof/Laws/Memory.lean ====
section
/-! SUPPORT. The memories: reading a line after writing it, and that the operations of home keep the canonical form. -/

namespace Sys2Proof.Machine

theorem Memory.wf_reset : Memory.wf State.reset.mem = true := by decide

/-- The parts of the canonical form. -/
structure MemForm (m : Mem) : Prop where
  dram : SMap.wf (fun _ => Word.raw0) m.dram = true
  cmn : SMap.wf (fun _ => Word.raw0) m.cmn = true
  ucopy : SMap.wf copyDefault m.ucopy = true
  dramErr : SMap.wf (fun _ => []) m.dramErr = true
  sramErr : SMap.wf (fun _ => 0) m.sramErr = true
  gran : SMap.sorted m.gran = true
  granPlru : SMap.wf (fun _ => 0) m.granPlru = true
  cmnValid : SMap.sorted m.cmnValid = true
  remapD : SMap.sorted m.remapD = true
  remapG : SMap.sorted m.remapG = true
  remapC : SMap.sorted m.remapC = true
  glnNext : SMap.sorted m.glnNext = true
  cmnHeld : SMap.sorted m.cmnHeld = true
  gstreams : SMap.sorted m.gstreams = true

theorem Memory.wf_iff (m : Mem) : Memory.wf m = true ↔ MemForm m := by
  simp only [Memory.wf, Bool.and_eq_true]
  constructor
  · rintro ⟨⟨⟨⟨⟨⟨⟨⟨⟨⟨⟨⟨⟨h1, h2⟩, h3⟩, h4⟩, h5⟩, h6⟩, h7⟩, h8⟩, h9⟩, h10⟩, h11⟩, h12⟩, h13⟩, h14⟩
    exact ⟨h1, h2, h3, h4, h5, h6, h7, h8, h9, h10, h11, h12, h13, h14⟩
  · rintro ⟨h1, h2, h3, h4, h5, h6, h7, h8, h9, h10, h11, h12, h13, h14⟩
    exact ⟨⟨⟨⟨⟨⟨⟨⟨⟨⟨⟨⟨⟨h1, h2⟩, h3⟩, h4⟩, h5⟩, h6⟩, h7⟩, h8⟩, h9⟩, h10⟩, h11⟩, h12⟩, h13⟩, h14⟩

/-- What keeps the form at each step keeps it through a list of steps. -/
theorem MemForm.foldl {α β : Type} {mem : β → Mem} {f : β → α → β} (hf : ∀ s a, MemForm (mem s) → MemForm (mem (f s a)))
    (l : List α) {s : β} (h : MemForm (mem s)) : MemForm (mem (l.foldl f s)) := by
  induction l generalizing s with
  | nil => exact h
  | cons a l ih => exact ih (hf s a h)

/-! ### DRAM lines -/

theorem foldl_wf_set (ws : List Word) (line : Nat) (l : List Nat) (d : SMap Word)
    (h : SMap.wf (fun _ => Word.raw0) d = true) :
    SMap.wf (fun _ => Word.raw0)
      (l.foldl (fun d i => SMap.set Word.raw0 d (8 * line + i) (ws.getD i Word.raw0)) d) = true := by
  induction l generalizing d with
  | nil => exact h
  | cons i l ih => exact ih _ (SMap.wf_set (d := fun _ => Word.raw0) (k := 8 * line + i) h)

/-- A line stored in DRAM, with whatever errors, keeps the form. -/
theorem MemForm.setBurst {m : Mem} (h : MemForm m) (line : Nat) (ws : List Word) (e : BurstErr) :
    MemForm (m.setBurst line ws e) :=
  { h with
    dram := foldl_wf_set _ _ _ _ h.dram
    dramErr := SMap.wf_set (d := fun _ => []) h.dramErr }

theorem foldl_get_set (ws : List Word) (line w : Nat) (l : List Nat) (d : SMap Word) (h : SMap.sorted d = true) :
    SMap.get Word.raw0 (l.foldl (fun d i => SMap.set Word.raw0 d (8 * line + i) (ws.getD i Word.raw0)) d) w =
      if w - 8 * line ∈ l ∧ 8 * line ≤ w then ws.getD (w - 8 * line) Word.raw0 else SMap.get Word.raw0 d w := by
  induction l generalizing d with
  | nil => simp
  | cons i l ih =>
    rw [List.foldl_cons, ih _ (SMap.sorted_set h), SMap.get_set h]
    by_cases hw : w = 8 * line + i
    · subst hw
      simp
    · rw [if_neg hw]
      have : (w - 8 * line ∈ i :: l ∧ 8 * line ≤ w) ↔ (w - 8 * line ∈ l ∧ 8 * line ≤ w) := by
        rw [List.mem_cons]
        constructor
        · rintro ⟨h1 | h1, h2⟩
          · omega
          · exact ⟨h1, h2⟩
        · rintro ⟨h1, h2⟩
          exact ⟨Or.inr h1, h2⟩
      simp only [this]

/-- What DRAM reads after a line is written: the line's words at its place, what it held everywhere else. -/
theorem Mem.word_setDram {m : Mem} {line w : Nat} {ws : List Word} (h : Memory.wf m = true) :
    (m.setDram line ws).word w = if w / 8 = m.place line then ws.getD (w % 8) Word.raw0 else m.word w := by
  have hs : SMap.sorted m.dram = true := by
    have := ((Memory.wf_iff m).mp h).dram
    simp only [SMap.wf, Bool.and_eq_true] at this
    exact this.1
  unfold Mem.word Mem.setDram Mem.setBurst
  rw [foldl_get_set _ _ _ _ _ hs]
  by_cases hw : w / 8 = m.place line
  · have h8 : w - 8 * m.place line = w % 8 := by omega
    rw [if_pos hw, if_pos ⟨by rw [h8, List.mem_range]; omega, by omega⟩, h8]
  · rw [if_neg hw, if_neg]
    rintro ⟨h1, h2⟩
    rw [List.mem_range] at h1
    omega

/-! ### Cells -/

theorem MemForm.setCell {m : Mem} (h : MemForm m) (cell : Nat) (e : SramErr) : MemForm (m.setCell cell e) :=
  { h with sramErr := SMap.wf_set (d := fun _ => (0 : SramErr)) h.sramErr }

theorem MemForm.flipCell {m : Mem} (h : MemForm m) (cell : Nat) (e : SramErr) : MemForm (m.flipCell cell e) :=
  { h with sramErr := SMap.wf_set (d := fun _ => (0 : SramErr)) h.sramErr }

theorem MemForm.flipBurst {m : Mem} (h : MemForm m) (line : Nat) (e : BurstErr) : MemForm (m.flipBurst line e) := by
  unfold Mem.flipBurst
  split
  · exact h
  · exact { h with dramErr := SMap.wf_set (d := fun _ => ([] : BurstErr)) h.dramErr }

/-- A word written in a Commons keeps the form. -/
theorem MemForm.setCmn {m : Mem} (h : MemForm m) (k : Nat) (w : Word) : MemForm (m.setCmn k w) :=
  MemForm.setCell (m := { m with cmn := SMap.set Word.raw0 m.cmn (m.cmnCell k) w, cmnValid := m.cmnValid.ins k () })
    { h with cmn := SMap.wf_set (d := fun _ => Word.raw0) h.cmn, cmnValid := SMap.sorted_ins h.cmnValid } _ _

theorem MemForm.granClean {m : Mem} (h : MemForm m) (line : Nat) (mask : BitVec 8) : MemForm (m.granClean line mask) := by
  unfold Mem.granClean
  split
  · exact h
  · refine MemForm.foldl (mem := id) ?_ _ h
    intro m i hm
    simp only [id] at hm ⊢
    split
    · exact hm.setCell _ _
    · exact hm

/-- A line put in the Granary, or taken out of it, with any list of dirty lines. -/
theorem MemForm.granIns {m : Mem} (h : MemForm m) (v : Nat) (g : GranLine) (l : List Nat) :
    MemForm { m with gran := m.gran.ins v g, granDirty := l } :=
  { h with gran := SMap.sorted_ins h.gran }

theorem MemForm.granDel {m : Mem} (h : MemForm m) (v : Nat) : MemForm { m with gran := m.gran.del v } :=
  { h with gran := SMap.sorted_del h.gran }

theorem MemForm.granPut {m : Mem} (h : MemForm m) (v : Nat) (g : GranLine) :
    MemForm { m with gran := m.gran.ins v g } := { h with gran := SMap.sorted_ins h.gran }

theorem MemForm.spareD {m : Mem} (h : MemForm m) (k x : Nat) : MemForm { m with remapD := m.remapD.ins k x } :=
  { h with remapD := SMap.sorted_ins h.remapD }

theorem MemForm.spareG {m : Mem} (h : MemForm m) (k x : Nat) : MemForm { m with remapG := m.remapG.ins k x } :=
  { h with remapG := SMap.sorted_ins h.remapG }

theorem MemForm.spareC {m : Mem} (h : MemForm m) (k x : Nat) : MemForm { m with remapC := m.remapC.ins k x } :=
  { h with remapC := SMap.sorted_ins h.remapC }

theorem MemForm.scrubs {m : Mem} (h : MemForm m) (l : List Nat) : MemForm { m with scrubbed := l } := { h with }

theorem MemForm.mends {m : Mem} (h : MemForm m) (l : List (Nat × MendErr)) : MemForm { m with mends := l } := { h with }

/-! ### What leaves memory alone -/

@[simp] theorem State.memFault_mem (s : State) (src line : Nat) (w : Who) (e : BurstErr) :
    (s.memFault src line w e).mem = s.mem := State.fault_mem s _

@[simp] theorem State.sramFault_mem (s : State) (src pa : Nat) (w : Who) (e : SramErr) :
    (s.sramFault src pa w e).mem = s.mem := State.fault_mem s _

@[simp] theorem State.memEccBit_mem (s : State) (c i : Nat) : (s.memEccBit c i).mem = s.mem := State.setEv_mem s _ _ _

@[simp] theorem State.mirrorOut_mem (s : State) (line : Nat) (mask : BitVec 8) (ws : List Word) :
    (s.mirrorOut line mask ws).mem = s.mem := by
  unfold State.mirrorOut; split <;> simp

@[simp] theorem State.mirrorWords_mem (s : State) (line : Nat) (mask : BitVec 8) (ws : List Word) :
    (s.mirrorWords line mask ws).mem = s.mem := by
  unfold State.mirrorWords; split <;> simp

@[simp] theorem State.loseHome_mem (s : State) (line m : Nat) : (s.loseHome line m).mem = s.mem := rfl

@[simp] theorem State.headOn_mem (off k : Nat) (s : State) (w : List Nat) : (State.headOn off k s w).1.mem = s.mem := by
  induction k generalizing s w with
  | zero => rfl
  | succ k ih =>
    unfold State.headOn
    simp only
    split
    · simp [ih]
    · rfl

@[simp] theorem State.pageDone_mem (s : State) (p slot : Nat) : (s.pageDone p slot).mem = s.mem := by
  simp [State.pageDone]

/-- R441: a page is claimed without a write. -/
@[simp] theorem State.claimPage_mem (s : State) (p page kind m : Nat) : (s.claimPage p page kind m).mem = s.mem := by
  unfold State.claimPage; simp only; repeat' split
  all_goals simp

@[simp] theorem State.claimPages_mem (s : State) (line m : Nat) : (s.claimPages line m).mem = s.mem := by
  have key : ∀ (l : List Run) (t : State), (l.foldl (fun (s : State) r =>
      s.claimPage r.parish (r.parishAddr (64 * line) / 4096) (m / 0x100) m) t).mem = t.mem := by
    intro l
    induction l with
    | nil => intro t; rfl
    | cons r l ih => intro t; rw [List.foldl_cons, ih, State.claimPage_mem]
  unfold State.claimPages
  repeat' split
  · rfl
  · rfl
  · exact key _ _

@[simp] theorem State.burstLost_mem (s : State) (line bit : Nat) : (s.burstLost line bit).mem = s.mem := by
  simp [State.burstLost]

/-! ### The slices' bookkeeping (R475) -/

@[simp] theorem State.bookRead_mem (s : State) (f : FaultArg) (e : SramErr) : (s.bookRead f e).1.mem = s.mem := by
  unfold State.bookRead; split <;> simp

@[simp] theorem State.bookFlip_mem (s : State) (line : Nat) (e : SramErr) : (s.bookFlip line e).mem = s.mem := rfl
@[simp] theorem State.bookFlip_regs (s : State) (line : Nat) (e : SramErr) : (s.bookFlip line e).regs = s.regs := rfl

@[simp] theorem State.bookMeet_mem (s : State) (line m acc : Nat) : (s.bookMeet line m acc).1.mem = s.mem := by
  unfold State.bookMeet
  split
  · rfl
  · simp only
    split <;> simp

@[simp] theorem State.bookLook_mem (s : State) (line m acc : Nat) : (s.bookLook line m acc).mem = s.mem :=
  State.bookMeet_mem s line m acc

/-- Where no bit of a line's bookkeeping has flipped, its read changes nothing. -/
theorem State.bookMeet_none {s : State} {line m acc : Nat} (h : s.coh.bookErr.find line = none) :
    s.bookMeet line m acc = (s, true) := by simp [State.bookMeet, h]

theorem State.bookLook_none {s : State} {line m acc : Nat} (h : s.coh.bookErr.find line = none) :
    s.bookLook line m acc = s := by simp [State.bookLook, State.bookMeet_none h]

/-! ### The operations of home -/

theorem State.form_dramWrite {s : State} (h : MemForm s.mem) (line : Nat) (ws : List Word) :
    MemForm (s.dramWrite line ws).mem := by
  unfold State.dramWrite
  rw [State.tal_mem]
  exact h.setBurst _ _ _

theorem State.form_remapLine {s : State} (h : MemForm s.mem) (line : Nat) (w : Who) :
    MemForm (s.remapLine line w).mem := by
  unfold State.remapLine
  simp only
  split
  · exact h
  · split
    · simp only [State.memFault_mem, State.setFld_mem]
      refine State.form_dramWrite ?_ _ _
      exact h.spareD _ _
    · simpa using h

theorem State.form_remapGran {s : State} (h : MemForm s.mem) (line i : Nat) (w : Who) :
    MemForm (s.remapGran line i w).mem := by
  unfold State.remapGran
  simp only
  split
  · exact h
  · split
    · simp only [State.sramFault_mem, State.setFld_mem]
      exact (h.spareG _ _).setCell _ _
    · simpa using h

theorem State.form_granLost {s : State} (h : MemForm s.mem) (line i : Nat) (w : Who) (e : SramErr) :
    MemForm (s.granLost line i w e).mem := by
  unfold State.granLost
  simp only
  refine State.form_remapGran ?_ _ _ _
  simp only [State.sramFault_mem, State.claimPages_mem, State.mirrorWords_mem, State.loseHome_mem]
  have h1 : ∀ t : State, MemForm t.mem → MemForm (t.dramWrite line poisLine).mem := fun t ht =>
    State.form_dramWrite ht _ _
  split
  · refine MemForm.granClean (MemForm.granIns (h1 _ ?_) _ _ _) _ _
    simpa using h
  · refine h1 _ ?_
    simpa using h

theorem State.form_granDrop {s : State} (h : MemForm s.mem) (line i : Nat) (w : Who) (e : SramErr) :
    MemForm (s.granDrop line i w e).mem := by
  unfold State.granDrop
  simp only
  have key : ∀ t : State, MemForm t.mem →
      MemForm { t.mem.granClean line 0xFF#8 with gran := t.mem.gran.del line } := fun t ht =>
    { ht.granClean line 0xFF#8 with gran := SMap.sorted_del ht.gran }
  refine key _ (State.form_remapGran ?_ _ _ _)
  simpa using h

theorem State.form_granRead {s : State} (h : MemForm s.mem) (line i : Nat) (w : Who) :
    MemForm (s.granRead line i w).mem := by
  unfold State.granRead
  split
  · exact h
  · rename_i g hg
    simp only
    split
    · simp only [State.unscrub]
      refine MemForm.scrubs ?_ _
      split
      · exact h
      · exact (h.granPut _ _).setCell _ _
    · split
      · refine State.form_remapGran ?_ _ _ _
        simp only [State.sramFault_mem, State.countSat_mem]
        exact (h.granPut _ _).setCell _ _
      · simp only [State.sramFault_mem, State.countSat_mem]
        exact (h.granPut _ _).setCell _ _
    · split
      · exact State.form_granLost h _ _ _ _
      · exact State.form_granDrop h _ _ _ _

theorem State.form_granCheck {s : State} (h : MemForm s.mem) (line : Nat) (mask : BitVec 8) (w : Who) :
    MemForm (s.granCheck line mask w).mem := by
  unfold State.granCheck
  split
  · exact h
  · refine MemForm.foldl (mem := State.mem) ?_ _ h
    intro t i ht
    split
    · exact State.form_granRead ht _ _ _
    · exact ht

theorem State.form_granWriteBack {s : State} (h : MemForm s.mem) (line : Nat) :
    MemForm (s.granWriteBack line).mem := by
  unfold State.granWriteBack
  simp only
  have key : ∀ t : State, MemForm t.mem → MemForm (match t.mem.gran.find line with
      | none => { t with mem := { t.mem with granDirty := t.mem.granDirty.filter (· ≠ line) } }
      | some g =>
        let t := if g.dirty then t.dramWrite line g.data else t
        { t with mem := { t.mem with gran := t.mem.gran.ins line { g with dirty := false },
                                     granDirty := t.mem.granDirty.filter (· ≠ line) } } : State).mem := by
    intro t ht
    split
    · exact { ht with gran := ht.gran }
    · simp only
      refine MemForm.granIns ?_ _ _ _
      split
      · exact State.form_dramWrite ht _ _
      · exact ht
  refine key _ ?_
  split
  · exact State.form_granCheck h _ _ _
  · exact h

theorem State.form_granEvict {s : State} (h : MemForm s.mem) (line : Nat) : MemForm (s.granEvict line).mem := by
  unfold State.granEvict
  have ht := State.form_granWriteBack h line
  exact { ht.granClean line 0xFF#8 with gran := SMap.sorted_del ht.gran }

theorem State.form_granRoom {s : State} (h : MemForm s.mem) (line : Nat) : MemForm (s.granRoom line).1.mem := by
  unfold State.granRoom
  simp only
  split
  · exact h
  · split
    · exact h
    · exact State.form_granEvict h _

theorem State.form_granTouch {s : State} (h : MemForm s.mem) (line : Nat) : MemForm (s.granTouch line).mem := by
  unfold State.granTouch
  split
  · exact h
  · exact { h with granPlru := SMap.wf_set (d := fun _ => 0) h.granPlru }

theorem State.form_granTrim {s : State} (h : MemForm s.mem) (line : Nat) : MemForm (s.granTrim line).mem := by
  unfold State.granTrim
  simp only
  split
  · exact h
  · split
    · exact h
    · exact State.form_granWriteBack h _

theorem State.form_granEnter {s : State} (h : MemForm s.mem) (line : Nat) (mask : BitVec 8) (ws : List Word) (d : Bool) :
    MemForm (s.granEnter line mask ws d).mem := by
  have hr := State.form_granRoom h line
  unfold State.granEnter
  split
  · exact (h.granIns _ _ _).granClean _ _
  · split
    · rename_i r heq
      rw [heq] at hr
      split
      · exact State.form_dramWrite hr _ _
      · exact hr
    · rename_i r w heq
      rw [heq] at hr
      exact (MemForm.granIns hr _ _ _).granClean _ _

/-- A line that enters the Granary keeps the form. -/
theorem State.form_granPut {s : State} (h : MemForm s.mem) (line : Nat) (mask : BitVec 8) (ws : List Word) (d : Bool) :
    MemForm (s.granPut line mask ws d).mem :=
  State.form_granTrim (State.form_granTouch (State.form_granEnter h _ _ _ _) _) _

theorem State.form_poisonLine {s : State} (h : MemForm s.mem) (line src : Nat) (w : Who) (e : BurstErr) :
    MemForm (s.poisonLine line src w e).mem := by
  have h1 : MemForm (s.dramWrite line poisLine).mem := State.form_dramWrite h _ _
  unfold State.poisonLine
  simp only
  refine State.form_remapLine ?_ _ _
  rw [State.memFault_mem, State.claimPages_mem, State.mirrorWords_mem]
  split
  · exact State.form_granPut h1 _ _ _ _
  · exact h1

theorem State.form_unscrub {s : State} (h : MemForm s.mem) (k : Nat) : MemForm (s.unscrub k).mem := h.scrubs _

theorem State.form_burstClean {s : State} (h : MemForm s.mem) (line : Nat) (e : BurstErr) :
    MemForm (s.burstClean line e).mem := by
  have key : ∀ t : State, MemForm t.mem → MemForm (if t.mem.scrubbed = [] then t else t.unscrub line).mem := by
    intro t ht
    split
    · exact ht
    · exact State.form_unscrub ht _
  refine key _ ?_
  split
  · exact h
  · exact h.setBurst _ _ _

theorem State.form_burstCorrect {s : State} (h : MemForm s.mem) (line : Nat) (w : Who) (e f : BurstErr) :
    MemForm (s.burstCorrect line w e f).mem := by
  have key : ∀ t : State, MemForm t.mem →
      MemForm (if t.mem.scrubbed.contains line then t.remapLine line w else t).mem := by
    intro t ht
    split
    · exact State.form_remapLine ht _ _
    · exact ht
  refine key _ ?_
  simp only [State.memFault_mem, State.countSat_mem]
  exact h.setBurst _ _ _

theorem State.form_burstDecode {s : State} (h : MemForm s.mem) (line : Nat) (w : Who) :
    MemForm (s.burstDecode line w).1.mem := by
  have h1 : MemForm (s.tal 5 (s.channelOf (64 * line))).mem := by simpa using h
  unfold State.burstDecode
  simp only
  split
  · exact State.form_burstClean h1 _ _
  · exact State.form_burstCorrect h1 _ _ _ _
  · simpa using h1
  · simpa using h1

/-- A burst read keeps the form, whatever error it meets. -/
theorem State.form_burstRead {s : State} (h : MemForm s.mem) (line : Nat) (w : Who) :
    MemForm (s.burstRead line w).1.mem := by
  have h1 := State.form_burstDecode h line w
  unfold State.burstRead
  split
  · rename_i heq
    rw [heq] at h1
    exact h1
  · rename_i heq
    rw [heq] at h1
    split
    · simp only [State.openMend, State.sendFrame_mem]
      exact h1.mends _
    · exact State.form_poisonLine h1 _ _ _ _

theorem State.form_burstModify {s : State} (h : MemForm s.mem) (line : Nat) (w : Who) :
    MemForm (s.burstModify line w).mem := by
  have h1 := State.form_burstDecode h line w
  unfold State.burstModify
  split
  · rename_i heq
    rw [heq] at h1
    exact h1
  · rename_i heq
    rw [heq] at h1
    exact State.form_poisonLine h1 _ _ _ _

/-- Whole words applied to a line at home keep the form. -/
theorem State.form_applied {s : State} (h : MemForm s.mem) (line : Nat) (mask : BitVec 8) (ws : List Word) (m : Nat) :
    MemForm (s.applied line mask ws m).mem := by
  unfold State.applied
  simp only [State.mirrorWords_mem, State.loseHome_mem]
  refine State.form_granPut ?_ _ _ _ _
  split
  · exact h
  · exact State.form_burstModify h _ _

theorem State.form_remapCmn {s : State} (h : MemForm s.mem) (k : Nat) (w : Who) : MemForm (s.remapCmn k w).mem := by
  unfold State.remapCmn
  simp only
  split
  · exact h
  · split
    · simp only [State.sramFault_mem, State.setFld_mem]
      exact (h.spareC _ _).setCmn _ _
    · simpa using h

/-- A read of a Commons word keeps the form, whatever error it meets. -/
theorem State.form_cmnRead {s : State} (h : MemForm s.mem) (k : Nat) (w : Who) : MemForm (s.cmnRead k w).1.mem := by
  have hput : ∀ (x : Word) (e : SramErr), MemForm ((s.mem.setCmn k x).setCell (s.mem.cmnCell k) e) :=
    fun x e => (h.setCmn _ _).setCell _ _
  have key : ∀ t : State, MemForm t.mem → MemForm (if t.mem.scrubbed = [] then t else t.unscrub k).mem := by
    intro t ht
    split
    · exact ht
    · exact State.form_unscrub ht _
  have hard : ∀ t : State, MemForm t.mem → MemForm (if t.mem.scrubbed.contains k then t.remapCmn k w else t).mem := by
    intro t ht
    split
    · exact State.form_remapCmn ht _ _
    · exact ht
  unfold State.cmnRead
  simp only
  split
  · exact h
  · split
    · refine key _ ?_
      split
      · exact h
      · exact hput _ _
    · refine hard _ ?_
      simp only [State.sramFault_mem, State.countSat_mem]
      exact hput _ _
    · refine State.form_remapCmn ?_ _ _
      simp only [State.sramFault_mem, State.claimPages_mem, State.loseHome_mem, State.setEv_mem, State.countSat_mem]
      exact hput _ _

/-- The canonical form, kept by the operations of home that reads and writes of memory are made of. -/
theorem Memory.wf_operations {s : State} (h : Memory.wf s.mem = true) :
    (∀ line ws, Memory.wf (s.dramWrite line ws).mem = true) ∧
    (∀ line mask ws d, Memory.wf (s.granPut line mask ws d).mem = true) ∧
    (∀ line w, Memory.wf (s.burstRead line w).1.mem = true) ∧
    (∀ line mask w, Memory.wf (s.granCheck line mask w).mem = true) ∧
    (∀ line mask ws m, Memory.wf (s.applied line mask ws m).mem = true) ∧
    (∀ k w, Memory.wf (s.cmnRead k w).1.mem = true) := by
  rw [Memory.wf_iff] at h
  simp only [Memory.wf_iff]
  exact ⟨State.form_dramWrite h, State.form_granPut h, State.form_burstRead h, State.form_granCheck h,
    State.form_applied h, State.form_cmnRead h⟩

end Sys2Proof.Machine
end

