-- ==== Sys2Proof/Laws/Ops.lean ====
section
/-! SUPPORT. What the frame of every instruction, its retirement, an exception and a boundary event can do: one
equation for each way they go, to cite in place of an unfolding. -/

namespace Sys2Proof.Machine

/-! ### Waiting (log 64) -/

/-- What has not had to wait takes place. -/
theorem State.settled_none {s t : State} (h : t.waiting = none) : s.settled t = t := by simp [State.settled, h]

/-- What has had to wait leaves only what the wait itself does. -/
theorem State.settled_some {s t : State} {w : Wait} (h : t.waiting = some w) : s.settled t = s.resolve w := by
  simp [State.settled, h]

theorem State.settled_hold {s t : State} (h : t.waiting = some .hold) : s.settled t = s := by
  rw [State.settled_some h]; rfl

/-- A command without a hindrance has its effect. -/
theorem State.whole_none {s : State} {f : State → State} (h : (f s).waiting = none) : s.whole f = f s :=
  State.settled_none h

/-- A command that must wait for a hold leaves the state as it was. -/
theorem State.whole_hold {s : State} {f : State → State} (h : (f s).waiting = some .hold) : s.whole f = s :=
  State.settled_hold h

@[simp] theorem State.forced_waiting (s : State) (f : State → State) : (s.forced f).waiting = none := rfl

/-! ### The frame of an instruction -/

section frame

variable {s : State} {n : Nat} {fp ill : State → Bool} {g : Guard} {body : M Unit} {skip : State → State}

/-- Where no stored bit has flipped, the fetch only looks at its word. -/
theorem State.fetchMeet_none (hs : s.mem.sramErr = []) (hd : s.mem.dramErr = []) : s.fetchMeet n = s := by
  simp [State.fetchMeet, hs, hd]

/-- A core that does not execute is left as it is. -/
theorem State.instr_stopped (h : s.runnable n = false) : s.instr n fp ill g body skip = s := by
  simp [State.instr, h]

/-- A boundary event is taken in place of the instruction (R179). -/
theorem State.instr_event {e : BEvent} (h : s.runnable n = true)
    (hb : s.boundary n (fp s && (s.fetchFault n).isNone && !ill s) = some e) :
    s.instr n fp ill g body skip = s.settled (s.takeEvent n e) := by
  simp [State.instr, State.whole, h, hb]

/-- The fetch faults (R47, R57). -/
theorem State.instr_fetchFault {e : Exc} (h : s.runnable n = true) (hm : s.fetchMeet n = s) (h0 : s.waiting = none)
    (hf : s.fetchFault n = some (e, none))
    (hb : s.boundary n false = none) : s.instr n fp ill g body skip = s.settled (State.faultAt s s n e) := by
  simp [State.instr, State.whole, h, hb, hm, h0, hf]

/-- The fetch meets a poisoned word (R311). -/
theorem State.instr_fetchPoison {e : Exc} {pa : Nat} (h : s.runnable n = true) (hm : s.fetchMeet n = s) (h0 : s.waiting = none)
    (hf : s.fetchFault n = some (e, some pa))
    (hb : s.boundary n false = none) :
    s.instr n fp ill g body skip = s.settled (State.faultAt s (s.coreFault n (e.detail / 256) 0 (some pa)) n e) := by
  simp [State.instr, State.whole, h, hb, hm, h0, hf]

/-- The encoding is illegal, whatever the guard says (R48). -/
theorem State.instr_ill (h : s.runnable n = true) (hm : s.fetchMeet n = s) (h0 : s.waiting = none)
    (hf : s.fetchFault n = none) (hb : s.boundary n false = none)
    (hi : ill s = true) : s.instr n fp ill g body skip = s.settled (State.faultAt s s n { vec := vIll }) := by
  simp [State.instr, State.whole, h, hb, hm, h0, hf, hi]

/-- The guard does not execute: the instruction only retires (R52). -/
theorem State.instr_off (h : s.runnable n = true) (hm : s.fetchMeet n = s) (h0 : s.waiting = none)
    (hf : s.fetchFault n = none) (hb : s.boundary n (fp s) = none)
    (hi : ill s = false) (hg : (s.cur n).guardOk g = false) :
    s.instr n fp ill g body skip = s.settled ((skip s).retire n) := by
  simp [State.instr, State.whole, h, hb, hm, h0, hf, hi, hg]

/-- The instruction executes and answers. -/
theorem State.instr_ok {t : State} (h : s.runnable n = true) (hm : s.fetchMeet n = s) (h0 : s.waiting = none)
    (hf : s.fetchFault n = none)
    (hb : s.boundary n (fp s) = none) (hi : ill s = false) (hg : (s.cur n).guardOk g = true)
    (hk : body s = .ok () t) : s.instr n fp ill g body skip = s.settled t := by
  simp [State.instr, State.whole, h, hb, hm, h0, hf, hi, hg, hk]

/-- The instruction executes and has its effect without a wait. -/
theorem State.instr_done {t : State} (h : s.runnable n = true) (hm : s.fetchMeet n = s) (h0 : s.waiting = none)
    (hf : s.fetchFault n = none)
    (hb : s.boundary n (fp s) = none) (hi : ill s = false) (hg : (s.cur n).guardOk g = true)
    (hk : body s = .ok () t) (hw : t.waiting = none) : s.instr n fp ill g body skip = t := by
  rw [State.instr_ok h hm h0 hf hb hi hg hk, State.settled_none hw]

/-- The instruction executes and raises an exception. -/
theorem State.instr_error {t : State} {e : Exc} (h : s.runnable n = true) (hm : s.fetchMeet n = s) (h0 : s.waiting = none)
    (hf : s.fetchFault n = none)
    (hb : s.boundary n (fp s) = none) (hi : ill s = false) (hg : (s.cur n).guardOk g = true)
    (hk : body s = .error e t) (hw : t.waiting = none) :
    s.instr n fp ill g body skip = s.settled (State.faultAt s t n e) := by
  simp [State.instr, State.whole, h, hb, hm, h0, hf, hi, hg, hk, hw]

/-- An instruction that has to wait leaves its state as it was, but for what the wait itself does. -/
theorem State.instr_waits {t : State} {e : Exc} {w : Wait} (h : s.runnable n = true) (hm : s.fetchMeet n = s) (h0 : s.waiting = none)
    (hf : s.fetchFault n = none)
    (hb : s.boundary n (fp s) = none) (hi : ill s = false) (hg : (s.cur n).guardOk g = true)
    (hk : body s = .ok () t ∨ body s = .error e t) (hw : t.waiting = some w) :
    s.instr n fp ill g body skip = s.resolve w := by
  rcases hk with hk | hk <;> simp [State.instr, State.whole, State.settled, h, hb, hm, h0, hf, hi, hg, hk, hw]

end frame

/-! ### The instruction monad -/

theorem M.bind_ok {α β : Type} {m : M α} {f : α → M β} {s t : State} {a : α} (h : m s = .ok a t) :
    (m >>= f) s = f a t := by
  change EStateM.bind m f s = _
  simp [EStateM.bind, h]

theorem M.bind_error {α β : Type} {m : M α} {f : α → M β} {s t : State} {e : Exc} (h : m s = .error e t) :
    (m >>= f) s = .error e t := by
  change EStateM.bind m f s = _
  simp [EStateM.bind, h]

/-- What a bind that answers went through. -/
theorem M.bind_eq_ok {α β : Type} {m : M α} {f : α → M β} {s u : State} {b : β} (h : (m >>= f) s = .ok b u) :
    ∃ a t, m s = .ok a t ∧ f a t = .ok b u := by
  change EStateM.bind m f s = _ at h
  unfold EStateM.bind at h
  split at h
  · exact ⟨_, _, ‹_›, h⟩
  · cases h

/-- A bind that raises: the first part does, or the second after the first answers. -/
theorem M.bind_eq_error {α β : Type} {m : M α} {f : α → M β} {s u : State} {e : Exc} (h : (m >>= f) s = .error e u) :
    m s = .error e u ∨ ∃ a t, m s = .ok a t ∧ f a t = .error e u := by
  change EStateM.bind m f s = _ at h
  unfold EStateM.bind at h
  split at h
  · exact .inr ⟨_, _, ‹_›, h⟩
  · injection h with h1 h2
    subst h1; subst h2
    exact .inl ‹_›

@[simp] theorem M.pure_run {α : Type} (a : α) (s : State) : (pure a : M α) s = .ok a s := rfl

@[simp] theorem M.raiseExc_run {α : Type} (e : Exc) (s : State) : (raiseExc e : M α) s = .error e s := rfl

@[simp] theorem M.act_run (f : State → State) (s : State) : act f s = .ok () (f s) := rfl

@[simp] theorem M.actGet_run {α : Type} (f : State → State × α) (s : State) : actGet f s = .ok (f s).2 (f s).1 := rfl

/-! ### Retirement -/

theorem Bank.loopNext_frame (b : Bank) : ∃ pc lc, b.loopNext.1 = { b with pc := pc, lc := lc } := by
  unfold Bank.loopNext
  split
  · split <;> exact ⟨_, _, rfl⟩
  · exact ⟨_, b.lc, rfl⟩

/-- R70: what the next PC can be. -/
theorem Bank.loopNext_pc (b : Bank) :
    b.loopNext.1.pc = b.pc + 4 ∨ b.loopNext.1.pc = b.ls ∧ b.pc = b.le ∧ 1 < b.lc.toNat := by
  unfold Bank.loopNext
  split
  case isTrue h =>
    split
    · exact .inr ⟨rfl, h.2, ‹_›⟩
    · exact .inl (by simp [h.2])
  · exact .inl rfl

@[simp] theorem State.startTransplant_mem (s : State) (n bit : Nat) : (s.startTransplant n bit).mem = s.mem := by
  simp [State.startTransplant, State.rollBack]

@[simp] theorem State.fetchLine_mem (s : State) (n : Nat) : (s.fetchLine n).mem = s.mem := by
  unfold State.fetchLine
  simp only
  split
  · split
    · split <;> split <;> simp
    · rfl
  · rfl

@[simp] theorem State.retired_mem (s : State) (n : Nat) : (s.retired n).mem = s.mem := by
  unfold State.retired; simp only; split <;> split <;> simp

@[simp] theorem State.setCur_mem (s : State) (n : Nat) (b : Bank) : (s.setCur n b).mem = s.mem := rfl

@[simp] theorem State.settleDiv_mem (s : State) (n : Nat) : (s.settleDiv n).mem = s.mem := rfl

@[simp] theorem State.flushBranch_mem (s : State) (n : Nat) : (s.flushBranch n).mem = s.mem := by
  unfold State.flushBranch; simp only; split <;> simp

@[simp] theorem State.branchBit_mem (s : State) (n : Nat) (t : Bool) : (s.branchBit n t).mem = s.mem := by
  unfold State.branchBit
  simp only
  split
  · split <;> simp
  · rfl

@[simp] theorem State.target_mem (s : State) (n reason vec addr : Nat) : (s.target n reason vec addr).mem = s.mem := by
  unfold State.target; split <;> simp

@[simp] theorem State.retire_mem (s : State) (n : Nat) : (s.retire n).mem = s.mem := by
  unfold State.retire; simp only; split <;> simp

@[simp] theorem State.retireTo_mem (s : State) (n : Nat) (k : Word) (a : Nat) : (s.retireTo n k a).mem = s.mem := by
  simp [State.retireTo]

/-! ### Exceptions -/

/-- R176: an exception while the core stands in the double-fault bank stops it. -/
theorem State.takeExc_checkstop {s : State} {n : Nat} {sync : Bool} {e : Exc} (h : ((s.settleDiv n).core n).df = true) :
    s.takeExc n sync e =
      ((s.settleDiv n).setCore n { (s.settleDiv n).core n with routine := none, attempts := 0 }).checkstop n := by
  simp [State.takeExc, h]

@[simp] theorem State.excX_mem (s : State) (e : Exc) : (s.excX e).1.mem = s.mem := by
  unfold State.excX
  split
  · rfl
  · split <;> rfl
  · rfl

@[simp] theorem State.enterShadow_mem (s : State) (n a : Nat) (e : Exc) (x y : Word) :
    (s.enterShadow n a e x y).mem = s.mem := rfl

/-- Entry to the double-fault bank stores nothing where DFLT has a handler (R176). -/
theorem State.enterDouble_mem {s : State} {n a : Nat} {x y : Word} (h : s.handler n vDflt = some a) :
    (s.enterDouble n x y).mem = s.mem := by
  simp [State.enterDouble, h]

/-- An FPX pending at an instruction that faults is taken in its place (R116). -/
theorem State.faultAt_fpx {s t : State} {n : Nat} {e : Exc} (h : (s.core n).fpx = true) (hm : (s.core n).em = false) :
    State.faultAt s t n e = s.takeEvent n .fpx := by
  simp [State.faultAt, h, hm]

theorem State.faultAt_plain {s t : State} {n : Nat} {e : Exc} (h : (s.core n).fpx = false ∨ (s.core n).em = true) :
    State.faultAt s t n e = t.takeExc n true e := by
  rcases h with h | h <;> simp [State.faultAt, h]

end Sys2Proof.Machine
end

