-- ==== Sys2Proof/Machine/Package.lean ====
section
/-! DEFINITION. The lands of the package: their names, their fields and what each carries (R541-R544). No command reads
or changes them. -/

namespace Sys2Proof.Machine

/-- R543: a differential pair of a high-speed field: the lanes and reference clocks of a port, Welien and Hunuod. -/
inductive HsPair where
  | cpTx (port lane : Nat)
  | cpRx (port lane : Nat)
  | cpCk (port link : Nat)
  | wlTx (lane : Nat)
  | wlRx (lane : Nat)
  | hnTx (lane : Nat)
deriving DecidableEq, Repr

/-- R543: a signal of a memory channel; `h` is its subchannel, 0 for A and 1 for B. -/
inductive MemSig where
  | dq (h i : Nat)
  | cb (h i : Nat)
  | dqs (h i : Nat) (compl : Bool)
  | dca (h i : Nat)
  | dpar (h : Nat)
  | dcsN (h i : Nat)
  | dck (h : Nat) (compl : Bool)
  | drstN
  | alertN
  | hscl
  | hsda
deriving DecidableEq, Repr

/-- R543: a signal of the control order. -/
inductive CtlSig where
  | refclkP | refclkN | resetN | pwrgoodIn | powerfailN | faultN | thermtripN | pairActOut | pairActIn | pairRole
  | bootsel (i : Nat)
  | testmode | tck | tms | tdi | tdo | trstN | xspiClk | xspiCsN | xspiDqs
  | xspiDq (i : Nat)
  | xspiRstN | i3cScl | i3cSda
deriving DecidableEq, Repr

/-- R543, R544: what a land carries. -/
inductive Land where
  | gnd | vin | vaux | rsvd
  | hs (pair : HsPair) (neg : Bool)
  | mem (channel : Nat) (sig : MemSig)
  | perst (port link : Nat)
  | dout (i : Nat)
  | din (i : Nat)
  | ctl (sig : CtlSig)
deriving DecidableEq, Repr

/-- R543: the pair order of quadrant `n`. -/
def pairOrder (n : Nat) : List HsPair :=
  (List.range 8).map (.cpTx n) ++ (List.range 8).map (.cpRx n) ++ (List.range 4).map (.cpCk n) ++
  (List.range 4).map (fun i => .wlTx (4 * n + i)) ++ (List.range 4).map (fun i => .wlRx (4 * n + i)) ++ [.hnTx n]

/-- R543: the signals of one subchannel. -/
def subOrder (h : Nat) : List MemSig :=
  (List.range 32).map (.dq h) ++ (List.range 8).map (.cb h) ++
  (List.range 10).flatMap (fun i => [.dqs h i false, .dqs h i true]) ++ (List.range 7).map (.dca h) ++
  [.dpar h, .dcsN h 0, .dcsN h 1, .dck h false, .dck h true]

/-- R543: the channel order. -/
def channelOrder : List MemSig := subOrder 0 ++ subOrder 1 ++ [.drstN, .alertN, .hscl, .hsda]

/-- R543: the control order. -/
def controlOrder : List CtlSig :=
  [.refclkP, .refclkN, .resetN, .pwrgoodIn, .powerfailN, .faultN, .thermtripN, .pairActOut, .pairActIn, .pairRole,
   .bootsel 0, .bootsel 1, .testmode, .tck, .tms, .tdi, .tdo, .trstN, .xspiClk, .xspiCsN, .xspiDqs] ++
  (List.range 8).map .xspiDq ++ [.xspiRstN, .i3cScl, .i3cSda]

/-- GND to the end of a field of `len` lands. -/
def gndTo (len : Nat) (l : List Land) : List Land := l ++ List.replicate (len - l.length) .gnd

/-- R543: one GND after every fourth signal land. -/
def everyFourth : List Land → List Land
  | a :: b :: c :: d :: rest => a :: b :: c :: d :: .gnd :: everyFourth rest
  | l => l

/-- R543: the three fields of a quadrant. -/
inductive LandField where
  | highSpeed
  | memory
  | centre
deriving DecidableEq, Repr

/-- R543: the sequence of a field of quadrant `n`. -/
def LandField.lands (n : Nat) : LandField → List Land
  | .highSpeed => gndTo 204 ((pairOrder n).flatMap (fun p => [.gnd, .hs p false, .hs p true]))
  | .memory => gndTo 644 (everyFourth ((List.range 3).flatMap (fun i => channelOrder.map (.mem (3 * n + i)))))
  | .centre => gndTo 308 (List.replicate 30 .vin ++ List.replicate 2 .vaux ++ (List.range 4).map (.perst n) ++
      (List.range 8).map (fun i => .dout (8 * n + i)) ++ (List.range 8).map (fun i => .din (8 * n + i)) ++
      (if n = 0 then controlOrder.map .ctl else []) ++ List.replicate 6 .rsvd)

/-- R543: a field's first local row, first local column and width. -/
def LandField.origin : LandField → Nat × Nat × Nat
  | .highSpeed => (0, 0, 34)
  | .memory => (6, 0, 23)
  | .centre => (6, 23, 11)

/-- R543, R544: the local row and column of place `k` of a field. -/
def LandField.place (f : LandField) (k : Nat) : Nat × Nat :=
  let (r, c, w) := f.origin
  (r + k / w, c + k % w)

/-- R542: the row index and the column of local row `a` and column `b` of quadrant `n`. -/
def gridOf (n a b : Nat) : Nat × Nat := (if n < 2 then a else 67 - a, if n % 2 = 0 then 1 + b else 68 - b)

/-- R541: the letters of a row. -/
def rowLetters (r : Nat) : List Char :=
  let last := ['A', 'B', 'C', 'D', 'E', 'F', 'G', 'H', 'J', 'K', 'L', 'M', 'N', 'P', 'T', 'U', 'V', 'W', 'Y'].getD (r % 19) 'A'
  if r < 19 then [last] else [['A', 'B', 'C'].getD (r / 19 - 1) 'C', last]

/-- R541, R544: the row letters and the column of place `k` of a field of quadrant `n`. -/
def LandField.landName (f : LandField) (n k : Nat) : List Char × Nat :=
  let (a, b) := f.place k
  let (r, c) := gridOf n a b
  (rowLetters r, c)

/-- R543: what a signal's land is: the first place of its field that carries it. -/
def findLand (n : Nat) (f : LandField) (x : Land) : Option (List Char × Nat) :=
  ((f.lands n).findIdx? (· == x)).map (f.landName n)

/-- R544: the lands of the package. -/
def allLands : List Land :=
  (List.range 4).flatMap (fun n => LandField.lands n .highSpeed ++ LandField.lands n .memory ++ LandField.lands n .centre)

end Sys2Proof.Machine
end

