-- ==== Sys2Proof/Machine/Welien.lean ====
section
/-! DEFINITION. The Welien frame as 38 words of 64 bits (R450-R452): the words of a frame that is sent, and the commands that
the words of a received frame stand for. -/

namespace Sys2Proof.Machine

/-! ### Frames sent -/

/-- R450: TYPE. -/
def FrameBody.type : FrameBody → Nat
  | .idle => 0
  | .mirror _ => 1
  | .ledger _ => 2
  | .bulk _ _ => 3
  | .zrun _ => 4
  | .hello _ => 5
  | .hb _ _ _ _ => 5
  | .dio _ => 5
  | _ => 6

/-- R450: N, the records in the body minus 1. -/
def FrameBody.records : FrameBody → Nat
  | .mirror rs => rs.length - 1
  | .ledger rs => rs.length - 1
  | .bulk _ ls => ls.length - 1
  | _ => 0

/-- R450: LADDR. -/
def FrameBody.laddr : FrameBody → Nat
  | .bulk l _ => l.toNat
  | _ => 0

/-- The tags of eight words as one word, that of word `i` in byte `i`. -/
def tagWord (ws : List Word) : BitVec 64 :=
  (List.range 8).foldl (fun v i => v ||| ((ws.getD i Word.raw0).tag.setWidth 64 <<< (8 * i))) 0#64

/-- The payloads of eight words, then their tags. -/
def lineWords (ws : List Word) : List (BitVec 64) := (List.range 8).map (fun i => (ws.getD i Word.raw0).val) ++ [tagWord ws]

/-- R451: a MIRROR record; words that are not carried are 0. -/
def MirrorRec.layout (r : MirrorRec) : List (BitVec 64) :=
  let ws := (List.range 8).map (fun i => if r.wmask.getLsbD i then r.words.getD i Word.raw0 else Word.raw0)
  BitVec.ofNat 64 (r.mend.toNat * 2 ^ 62 + r.wmask.toNat * 2 ^ 54 + r.line.toNat) :: (lineWords ws ++ [r.time, 0#64])

/-- R451: a LEDGER record. -/
def LedgerRec.layout (r : LedgerRec) : List (BitVec 64) :=
  BitVec.ofNat 64 (r.chan.val * 2 ^ 56 + r.slot.val * 2 ^ 46) ::
    ((List.range 8).map (fun i => r.entry.getD i 0#64) ++ (List.range 8).map (fun i => r.crec.getD i 0#64) ++ [0#64])

/-- R452: MTYPE of a control message. -/
def FrameBody.mtype : FrameBody → Nat
  | .hello _ => 0x01
  | .hb _ _ _ _ => 0x02
  | .dio _ => 0x03
  | .mendq _ => 0x10
  | .tat _ _ => 0x11
  | .move _ => 0x12
  | .handover => 0x13
  | .leave => 0x14
  | .rcvdone => 0x15
  | _ => 0

/-- R452: the contents of a control message, in the order of the table. -/
def FrameBody.contents : FrameBody → List (BitVec 64)
  | .hello i => [i.dig, i.krid, i.step.setWidth 64, i.die, BitVec.ofNat 64 i.strap.toNat, i.phase.setWidth 64,
                 BitVec.ofNat 64 i.s4done.toNat, (i.role.getD 0#2).setWidth 64]
  | .hb t e r p => [t, e, r.setWidth 64, p.setWidth 64]
  | .dio v => [v.setWidth 64]
  | .mendq l => [l.setWidth 64 <<< 6]
  | .tat t v => [t.setWidth 64, v]
  | .move a => [a.setWidth 64]
  | _ => []

/-- R452: the four words of a control message: MTYPE, and its contents in places that the spec does not give (log 85). -/
def FrameBody.message (b : FrameBody) : List (BitVec 64) :=
  (List.range 4).map (fun i =>
    let v := Config.messageWord b.mtype b.contents i
    if i = 0 then putBits v 56 8 b.mtype else v)

/-- R451: the body of a frame, of 36 words; what is not used is 0. -/
def FrameBody.layout (b : FrameBody) : List (BitVec 64) :=
  let ws := match b with
    | .idle => []
    | .mirror rs => rs.flatMap MirrorRec.layout
    | .ledger rs => rs.flatMap LedgerRec.layout
    | .bulk _ ls => ls.flatMap lineWords
    | .zrun rs => rs.map (fun r => BitVec.ofNat 64 (r.1.toNat * 2 ^ 18 + r.2))
    | b => b.message
  (ws ++ List.replicate 36 0#64).take 36

/-- R450: the first word of a frame. -/
def Frame.head (f : Frame) : BitVec 64 :=
  BitVec.ofNat 64 (f.body.type * 2 ^ 60 + f.body.records * 2 ^ 58 + f.fseq.toNat * 2 ^ 46 + f.body.laddr)

/-- R450: the 38 words of a frame, little-endian; CRC is over all but the last. -/
def Frame.words (f : Frame) : List (BitVec 64) :=
  let ws := f.head :: f.body.layout
  ws ++ [crc32c (ws.flatMap wordBytes) ++ BitVec.ofNat 32 (f.ackseq.toNat * 2 ^ 20 + f.nak.toNat * 2 ^ 19)]

/-! ### Frames received -/

/-- The words of a received frame's body. -/
def bodyWord (ws : List (BitVec 64)) (i : Nat) : BitVec 64 := ws.getD (i + 1) 0#64

/-- Eight tagged words from nine words of a body at `i`: payloads, then tags. -/
def readLine (ws : List (BitVec 64)) (i : Nat) : List Word :=
  (List.range 8).map (fun k => { tag := (bodyWord ws (i + 8)).extractLsb' (8 * k) 8, val := bodyWord ws (i + k) })

/-- R450: the header and trailer of a received frame. -/
def readHdr (ws : List (BitVec 64)) : FrameHdr :=
  let t := ws.getD 37 0#64
  { fseq := BitVec.ofNat 12 (bits (ws.getD 0 0#64) 46 12), ackseq := BitVec.ofNat 12 (bits t 20 12), nak := bit t 19 }

/-- R451: the MIRROR record at word `i` of a body. -/
def readMirror (ws : List (BitVec 64)) (i : Nat) : MirrorRec :=
  let h := bodyWord ws i
  { mend := bits h 62 2 == 1, line := BitVec.ofNat 46 (bits h 0 46), wmask := BitVec.ofNat 8 (bits h 54 8),
    words := readLine ws (i + 1), time := bodyWord ws (i + 10) }

/-- R451: the LEDGER record at word `i` of a body. -/
def readLedgerRec (ws : List (BitVec 64)) (i : Nat) : LedgerRec :=
  let h := bodyWord ws i
  { chan := Fin.ofNat 256 (bits h 56 8), slot := Fin.ofNat 1024 (bits h 46 10),
    entry := (List.range 8).map (fun k => bodyWord ws (i + 1 + k)),
    crec := (List.range 8).map (fun k => bodyWord ws (i + 9 + k)) }

/-- R452: the command of a control message of type `ty` with these contents; none where no message has the type. -/
def messageCommand (h : FrameHdr) (ty : Nat) (c : List (BitVec 64)) : Option Instr :=
  let v (i : Nat) := c.getD i 0#64
  match ty with
  | 0x01 => some (.hello h { dig := v 0, krid := v 1, step := (v 2).setWidth 16, die := v 3, strap := bit (v 4) 0,
                             phase := (v 5).setWidth 2, s4done := bit (v 6) 0,
                             role := if v 7 = 0#64 then none else some ((v 7).setWidth 2) })
  | 0x02 => some (.hb h (v 0) (v 1) ((v 2).setWidth 2) ((v 3).setWidth 2))
  | 0x03 => some (.dio h ((v 0).setWidth 32))
  | 0x10 => some (.mendq h (BitVec.ofNat 46 (bits (v 0) 6 46)))
  | 0x11 => some (.tatMessage h ((v 0).setWidth 8) (v 1))
  | 0x12 => some (.moveMessage h ((v 0).setWidth 32))
  | 0x13 => some (.handover h)
  | 0x14 => some (.leave h)
  | 0x15 => some (.rcvdone h)
  | _ => none

/-- R451, R452: the commands of the messages of a control frame, in order; each but the last says that more follow. -/
def messageCommands (h : FrameHdr) (ws : List (BitVec 64)) : List Instr :=
  let ms := ((List.range 9).map (fun i => (List.range 4).map (fun k => bodyWord ws (4 * i + k)))).filter
    (fun m => bits (m.getD 0 0#64) 56 8 != 0)
  ms.zipIdx.filterMap (fun e =>
    let ty := bits (e.1.getD 0 0#64) 56 8
    messageCommand { h with more := decide (e.2 + 1 < ms.length) } ty (Config.messageContents ty e.1))

/-- R450-R453: the commands that a received frame of 38 words stands for: none for a reserved TYPE. -/
def frameCommands (ws : List (BitVec 64)) : List Instr :=
  let w0 := ws.getD 0 0#64
  let h := readHdr ws
  let n := bits w0 58 2 + 1
  if ws.length ≠ 38 ∨ (crc32c ((ws.take 37).flatMap wordBytes)).toNat ≠ bits (ws.getD 37 0#64) 32 32 then
    [.frameCrcDrop true]
  else
    match bits w0 60 4 with
    | 0 => [.idleFrame h]
    | 1 => [.mirror h ((List.range n).map (fun i => readMirror ws (12 * i)))]
    | 2 => [.ledger h ((List.range n).map (fun i => readLedgerRec ws (18 * i)))]
    | 3 => [.bulk h (BitVec.ofNat 46 (bits w0 0 46)) ((List.range n).map (fun i => readLine ws (9 * i)))]
    | 4 => [.zrun h (((List.range 36).map (bodyWord ws)).filterMap (fun v =>
        if bits v 0 18 = 0 then none else some (BitVec.ofNat 46 (bits v 18 46), bits v 0 18)))]
    | 5 => messageCommands h ws
    | 6 => messageCommands h ws
    | _ => []

end Sys2Proof.Machine
end

