-- ==== Sys2Proof/WellFormed.lean ====
section
/-! DEFINITION. Which commands have operands that the rules of their rows allow. -/

namespace Sys2Proof

/-- R293: an error names each of the 86 symbols of a burst's code word at most once, with a value other than 0. -/
def burstOk (e : BurstErr) : Bool :=
  e.all (fun x => decide (x.1 < 86) && x.2 != 0#8) && decide ((e.map (·.1)).Nodup)

/-- R451: a MIRROR record carries up to eight words. -/
def MirrorRec.ok (r : MirrorRec) : Bool := decide (r.words.length ≤ 8)

/-- R451: a LEDGER record carries eight words of the entry and eight of the channel record. -/
def LedgerRec.ok (r : LedgerRec) : Bool := r.entry.length == 8 && r.crec.length == 8

/-- R265: a WRH of a DMA master carries the bytes of a line. -/
def WrhSrc.ok : WrhSrc → Bool
  | .core _ => true
  | .dma _ _ _ bytes => bytes.length == 64

/-- R498: a copy of the image is at most 32 MiB. -/
def copyOk (c : Option (List Byte)) : Bool :=
  match c with
  | some bs => decide (bs.length ≤ 0x2000000)
  | none => true

/-- A PCIe request of at most 4,096 bytes. -/
def tlpOk (n : Nat) : Bool := decide (1 ≤ n ∧ n ≤ 4096)

/-- The command's operands are ones that its row's rule allows. -/
def Instr.wf : Instr → Bool
  | .rds _ _ e => burstOk e
  | .rdo _ _ e => burstOk e
  | .rdh _ _ _ e => burstOk e
  | .atm _ _ t _ _ => burstOk t.err
  | .pfg _ e => burstOk e
  | .gleanerLine _ e => burstOk e
  | .wrh src => src.ok
  | .mendResponse _ ok ws => !ok || ws.length == 8
  | .windowRead _ _ _ n => tlpOk n
  | .windowWrite _ _ _ bs _ => tlpOk bs.length
  | .completionRecord _ _ _ bs _ => tlpOk bs.length
  | .thermalSample ts => ts.length == 64
  | .voltageSample mv => mv.length == 24
  | .processSample cs => cs.length == 16
  | .mirror _ rs => decide (1 ≤ rs.length ∧ rs.length ≤ 3) && rs.all MirrorRec.ok
  | .ledger _ rs => decide (1 ≤ rs.length ∧ rs.length ≤ 2) && rs.all LedgerRec.ok
  | .bulk _ _ ls => decide (1 ≤ ls.length ∧ ls.length ≤ 4) && ls.all (fun l => l.length == 8)
  | .zrun _ rs => decide (rs.length ≤ 36) && rs.all (fun r => decide (r.2 < 2 ^ 18))
  | .startupS2 a b => copyOk a && copyOk b
  | .startupS3 e => e.capacity.length == 12
  | _ => true

end Sys2Proof
end

