-- ==== Sys2Proof/Tests/Slice0.lean ====
section
/-! SUPPORT. Tests: which operands are refused, small steps with the manual's results, and for every statement states
and operands that meet its hypotheses. -/

section

-- One theorem after the other: each waits for the kernel, and a thread waits with it.
set_option Elab.async false

namespace Sys2Proof.Tests

open Sys2Proof Sys2Proof.Machine

/-! ### Well-formedness: a term that each check refuses -/

theorem test_wf_burst_repeats : burstOk [(1, 2#8), (1, 3#8)] = false := by decide
theorem test_wf_burst_symbol : burstOk [(86, 1#8)] = false := by decide
theorem test_wf_burst_zero : burstOk [(3, 0#8)] = false := by decide
theorem test_wf_rds : (Instr.rds 0 0 [(86, 1#8)]).wf = false := by decide
theorem test_wf_rdo : (Instr.rdo 0 0 [(0, 0#8)]).wf = false := by decide
theorem test_wf_rdh : (Instr.rdh 0 0 0 [(86, 1#8)]).wf = false := by decide
theorem test_wf_atm : (Instr.atm 0 .ldr ⟨0, [(86, 1#8)]⟩ Word.raw0 Word.raw0).wf = false := by decide
theorem test_wf_pfg : (Instr.pfg 0 [(1, 1#8), (1, 1#8)]).wf = false := by decide
theorem test_wf_gleaner : (Instr.gleanerLine 0 [(90, 1#8)]).wf = false := by decide
theorem test_wf_wrh : (Instr.wrh (.dma 0 0 0 [])).wf = false := by decide
theorem test_wf_mend : (Instr.mendResponse 0 true []).wf = false := by decide
theorem test_wf_window_read : (Instr.windowRead 0 0 0 0).wf = false ∧ (Instr.windowRead 0 0 0 4097).wf = false := by decide
theorem test_wf_window_write : (Instr.windowWrite 0 0 0 [] false).wf = false := by decide
theorem test_wf_record : (Instr.completionRecord 0 0 0 [] ⟨false, 0⟩).wf = false := by decide
theorem test_wf_thermal : (Instr.thermalSample [0]).wf = false := by decide
theorem test_wf_voltage : (Instr.voltageSample []).wf = false := by decide
theorem test_wf_process : (Instr.processSample []).wf = false := by decide
theorem test_wf_mirror_empty : (Instr.mirror ⟨0, 0, false, false⟩ []).wf = false := by decide
theorem test_wf_mirror_words : (Instr.mirror ⟨0, 0, false, false⟩
    [⟨false, 0, 0, List.replicate 9 Word.raw0, 0⟩]).wf = false := by decide
theorem test_wf_ledger_empty : (Instr.ledger ⟨0, 0, false, false⟩ []).wf = false := by decide
theorem test_wf_ledger_words : (Instr.ledger ⟨0, 0, false, false⟩ [⟨0, 0, [], []⟩]).wf = false := by decide
theorem test_wf_bulk : (Instr.bulk ⟨0, 0, false, false⟩ 0 []).wf = false ∧ (Instr.bulk ⟨0, 0, false, false⟩ 0 [[]]).wf = false := by
  decide
theorem test_wf_zrun : (Instr.zrun ⟨0, 0, false, false⟩ [(0, 2 ^ 18)]).wf = false := by decide
theorem test_wf_zrun_long : (Instr.zrun ⟨0, 0, false, false⟩ (List.replicate 37 (0, 1))).wf = false := by decide
theorem test_wf_s3 : (Instr.startupS3 ⟨[], [], [], false, true⟩).wf = false := by decide
theorem test_wf_copy : copyOk none = true ∧ (Instr.startupS2 none (some [])).wf = true := by decide

/-! ### A small machine in SERVICE -/

/-- A table entry of generation 1 that allows everything. -/
def entryAt (w : Nat) (base len : BitVec 64) : List (Nat × Word) :=
  [(w, Word.raw base), (w + 1, Word.raw len), (w + 2, Word.raw 0x10001000000FF#64)]

/-- Core 0: code at 0x10000 (entry 1), data at 0x20000 (entry 2) in B0, B1, B6 and B7, VB the code capability, EM 0. -/
def bank0 : Bank :=
  { Bank.entry with pcCap := capWord 1 0xFF 1 1, pc := 0x10000, b0 := capWord 0 0xFF 1 2, b1 := capWord 0 0xFF 1 2,
                    b6 := capWord 0 0xFF 1 2, b7 := capWord 0 0xFF 1 2, st := 0 }

def core0 : Core :=
  { Core.reset with prim := bank0, vb := capWord 1 0xFF 1 1, run := .running, ac := 0x20100, al := 0x20200 }

/-- Parish 0 owns core 0 and the first GiB, WB; its table of 16 entries lies at 0x1000. -/
def regs0 : SMap Reg64 :=
  [(0x10000, 0x71#64), (0x4000000, 1#64), (0x4000008, 1#64), (0x4010000, 0x4000000000000000#64),
   (0x4020000, 0x1000#64), (0x4020008, 16#64), (0x4030000, 0x80#64)]

def dram0 : SMap Word := entryAt 516 0x10000 0x4000 ++ entryAt 520 0x20000 0x1000

def svc : State :=
  { State.reset with regs := regs0, cores := [(0, core0)], mem := { Mem.reset with dram := dram0 } }

/-- `svc` with another primary bank. -/
def withBank (b : Bank) : State := { svc with cores := [(0, { core0 with prim := b })] }

def always : Guard := { sense := false, pred := 0 }

def pf (mode : BitVec 2) (off : BitVec 16) : PForm := { guard := always, bank := 0, mode := mode, off := off }

def xr (bank : BitVec 3) (sel : BitVec 8) : XRForm := { guard := always, bank := bank, rsv := 0, sel := sel }

def xn : XNForm := { guard := always, rsv := 0 }

/-- An effect answers, and what it answers with passes `p`. -/
def okThen {α : Type} (m : M α) (s : State) (p : α → State → Bool) : Bool :=
  match m s with
  | .ok a t => p a t
  | .error _ _ => false

theorem okThen_answers {α : Type} (m : M α) (s : State) (p : α → State → Bool) (h : okThen m s p = true) :
    ∃ a t, m s = .ok a t ∧ p a t = true := by
  unfold okThen at h
  split at h
  · exact ⟨_, _, by assumption, h⟩
  · exact absurd h (by decide)

/-- Command `c` answers a next state that passes `p`. -/
def ran (c : Instr) (s : State) (p : State → Bool) : Bool :=
  match exec c s with
  | .next t => p t
  | .fault _ => false
  | .refused _ => false

/-- The instruction `c` of core 0 retires and goes on to the next one: it neither waits nor traps. -/
def retires (c : Instr) (s : State) : Bool := ran c s (fun t => (t.cur 0).pc == (s.cur 0).pc + 4)

/-- The instruction `c` of core 0 enters the handler of vector `v`. -/
def traps (c : Instr) (s : State) (v : BitVec 48) : Bool := ran c s (fun t => (t.cur 0).pc == 0x10000 + 0x100 * v)

theorem svc_maps : svc.mapsOk = true := by decide +kernel

/-! ### Witnesses: states and operands that meet the hypotheses, clause by clause -/

/-- Every entry holds. -/
def allOf (l : List Bool) : Bool := l.all id

/-- `svc` with A, X and Y. -/
def axy (a x y : Word) : State := withBank { bank0 with a := a, x := x, y := y }

def withA0 (a : Word) : State := axy a (Word.fix 0) (Word.fix 0)

/-- The running bank of core 0, and core 0, of a state. -/
def b0 (s : State) : Bank := s.cur 0

/-- An operand passes, and it and A pass `p`. -/
def opThen (o : PForm) (s : State) (p : Word → Word → Bool) : Bool :=
  okThen (operand 0 o) (s.settleDiv 0) (fun op t => p (b0 t).a op)

/-- The same through the barrier, without a heal that fails. -/
def barThen (o : PForm) (s : State) (p : Word → Word → Bool) : Bool :=
  issues s 0 false (illP o .wi) o.guard && fresh (s.settleDiv 0) 0 && (b0 (s.settleDiv 0)).a.isFix &&
    okThen (operandBar 0 o) (s.settleDiv 0) (fun oh t =>
      p (b0 t).a oh.1 && oh.1.isFix && (b0 t).a.isFix && okThen (healM 0 oh.2) t (fun _ _ => true))

def fixMax : BitVec 64 := 0x7FFFFFFFFFFFFFFF#64

def fixMin : BitVec 64 := 0x8000000000000000#64

/-- Operands at the ends of FIX, RAW words, and shift counts of -1, 0 and 64. -/
def wModular : List Bool :=
  [issues (withA0 (Word.fix fixMax)) 0 false (illP (pf 3 1) .wi) always,
   opThen (pf 3 1) (withA0 (Word.fix fixMax)) (fun a op => a.isFixRaw && op.isFixRaw),
   issues (withA0 (Word.raw fixMin)) 0 false (illXN xn) always,
   (b0 ((withA0 (Word.raw fixMin)).settleDiv 0)).a.isFixRaw,
   opThen (pf 3 64) (withA0 (Word.raw 1)) (fun a op => a.tag == Tag.raw && op.isFix && decide (0 ≤ op.int)),
   opThen (pf 3 62) (withA0 (Word.fix 1)) (fun a op => a.isFix && fitsFix (a.int * 2 ^ op.val.toNat)),
   opThen (pf 3 63) (withA0 (Word.fix 1)) (fun a op => a.isFix && !fitsFix (a.int * 2 ^ op.val.toNat)),
   opThen (pf 3 0xFFFF) (withA0 (Word.fix 1)) (fun a op => a.isFixRaw && op.isFix && decide (op.int < 0))]

theorem witness_modular : allOf wModular = true := by decide +kernel

def wGeneric : List Bool :=
  [barThen (pf 3 0) (withA0 (Word.fix fixMax)) (fun a op => fitsFix (a.int + op.int) && fitsFix (a.int - op.int) &&
     fitsFix (a.int * op.int)),
   issues (withA0 (Word.fix fixMax)) 0 false (illXN xn) always && fresh ((withA0 (Word.fix fixMax)).settleDiv 0) 0,
   fitsFix (-(b0 ((withA0 (Word.fix fixMax)).settleDiv 0)).a.int)]

theorem witness_generic : allOf wGeneric = true := by decide +kernel

/-- A division under way in core 0. -/
def dividing : State := svc.setCore 0 { core0 with divider := some { a := Word.fix 3, y := some (Word.fix 1) } }

def wDivision : List Bool :=
  [barThen (pf 3 0) (withA0 (Word.fix 7)) (fun _ op => op.val == 0),
   barThen (pf 3 0xFFFF) (withA0 (Word.fix fixMin)) (fun a op => op.val != 0 && !fitsFix (a.int.tdiv op.int)),
   barThen (pf 3 0xFFFE) (withA0 (Word.fix 7)) (fun a op => op.val != 0 && fitsFix (a.int.tdiv op.int)),
   opThen (pf 3 0xFFFF) (withA0 (Word.raw fixMin)) (fun a op => a.isFixRaw && op.isFixRaw && op.val != 0),
   opThen (pf 3 0) (withA0 (Word.raw 1)) (fun a op => a.isFixRaw && op.isFixRaw && op.val == 0),
   dividing.mapsOk && (dividing.core 0).divider.isSome]

theorem witness_division : allOf wDivision = true := by decide +kernel

def fone : BitVec 64 := 0x3FF0000000000000#64

/-- FLT 1.0 twice at 0x20000, A FLT 1.0. -/
def fltState : State :=
  let s := withA0 (Word.flt fone)
  { s with mem := { s.mem with dram := dram0 ++ [(0x4000, Word.flt fone), (0x4001, Word.flt fone)] } }

def wFloat : List Bool :=
  [issues fltState 0 true (illXN xn) always && (b0 (fltState.settleDiv 0)).a.isFlt && fltState.mapsOk,
   issues (withA0 (Word.fix fixMin)) 0 true (illXR (xr 0 0) 2 false) always && (b0 (withA0 (Word.fix fixMin))).a.isFix,
   [1, 2, 3].all (fun k => issues fltState 0 true (illXR (xr 0 k) 2 false) always),
   issues fltState 0 true (illP (pf 0 0) .w) always &&
     okThen (siteP 0 (pf 0 0) 16 1 1 .noDev) (fltState.settleDiv 0) (fun t s1 =>
       okThen (readsAt 0 0 0 0 t) s1 (fun b s2 => b.isFlt &&
         okThen (readM 0 (s2.translate 0 (t.addr + 8)).1 (s2.translate 0 (t.addr + 8)).2) s2 (fun c s3 =>
           c.isFlt && (b0 s3).a.isFlt)))]

theorem witness_float : allOf wFloat = true := by decide +kernel

def wTraps : List Bool :=
  [barThen (pf 3 1) (withA0 (Word.fix fixMax)) (fun a op => !fitsFix (a.int + op.int)),
   barThen (pf 3 1) (withA0 (Word.fix fixMin)) (fun a op => !fitsFix (a.int - op.int)),
   barThen (pf 3 2) (withA0 (Word.fix fixMax)) (fun a op => !fitsFix (a.int * op.int)),
   !fitsFix (-(b0 ((withA0 (Word.fix fixMin)).settleDiv 0)).a.int),
   opThen (pf 3 1) (withA0 Word.nil) (fun a _ => !a.isFixRaw),
   okThen (operand 0 (pf 0 0)) (fltState.settleDiv 0) (fun op _ => !op.isFixRaw && !op.isFix) &&
     issues fltState 0 false (illP (pf 0 0) .wi) always]

theorem witness_traps : allOf wTraps = true := by decide +kernel

/-! ### Control transfers and registers -/

/-- The code capability's entry. -/
def codeEntry : CapEntry := svc.capEntry 0 1

def wTransfers : List Bool :=
  [issues svc 0 false (illBranch (pf 0 4)) always,
   okThen (checkTarget 0 ((b0 svc).pc.toNat + 4 * ((pf 0 4).off.toInt + (b0 svc).index 0))) (svc.settleDiv 0)
     (fun t s => t == 0x10010 && s == svc.settleDiv 0),
   okThen (checkTarget 0 (b0 (axy Word.raw0 (Word.fix 0xFFF) (Word.fix 0x10000))).y.int) svc (fun t _ => t == 0x10000),
   issues (axy Word.raw0 (Word.fix 0) (Word.fix 0x10000)) 0 false (illXN xn) always,
   svc.runnable 0 && (svc.boundary 0 false).isNone && (svc.fetchFault 0).isNone,
   svc.capCurrent 0 (b0 svc).pcCap && decide ((b0 svc).pc.toNat + 4 * (0xFFFF#16).toInt < codeEntry.lo),
   decide ((b0 svc).pc.toNat + 4 * (0x1000#16).toInt + 4 > codeEntry.lo + codeEntry.len),
   decide ((Word.fix 0x14000).val.toNat % 4 = 0 ∧ (codeEntry.lo + codeEntry.len : Int) < (Word.fix 0x14000).int + 4)]

theorem witness_transfers : allOf wTransfers = true := by decide +kernel

def looping (pc le lc : Nat) : Bank :=
  { bank0 with a := Word.fix 2, lc := BitVec.ofNat 64 lc, ls := 0x10004, le := BitVec.ofNat 48 le, pc := BitVec.ofNat 48 pc }

def wLoops : List Bool :=
  [[0, 1].all (fun k => issues (withA0 (Word.fixNat k)) 0 false (illLoop (pf 0 1)) always &&
     (b0 (withA0 (Word.fixNat k))).lc == 0),
   decide (codeEntry.lo ≤ (b0 svc).pc.toNat + 4 * 0xFFF ∧ (b0 svc).pc.toNat + 4 * 0xFFF + 4 ≤ codeEntry.lo + codeEntry.len),
   decide (codeEntry.lo + codeEntry.len < (b0 svc).pc.toNat + 4 * 0x1000 + 4),
   issues (withBank (looping 0x10000 0x10008 1)) 0 false (illLoop (pf 0 1)) always,
   (looping 0x10008 0x10008 2).lc != 0 && decide (1 < (looping 0x10008 0x10008 2).lc.toNat) &&
     (looping 0x10008 0x10008 2).pc == (looping 0x10008 0x10008 2).le,
   decide ((looping 0x10008 0x10008 1).lc.toNat = 1), (looping 0x10000 0x10008 1).pc != (looping 0x10000 0x10008 1).le,
   svc.mapsOk && (svc.core 0).attempts == 0 && !(b0 svc).guardOk { sense := true, pred := 0 },
   !svc.traced 0]

theorem witness_loops : allOf wLoops = true := by decide +kernel

def wMoves : List Bool :=
  [[0, 1, 2, 5, 7, 8, 9, 10, 11, 0x10, 0x17].all (fun k => issues svc 0 (k == 1) (illXR (xr 0 k) 8 false || !crdListed k.toNat) always),
   [0, 1, 2, 5, 7, 10, 11, 0x10, 0x17].all (fun k => issues (withA0 (Word.fix 8)) 0 (k == 1) (illXR (xr 0 k) 8 true || !cwrListed k.toNat) always),
   (b0 (withA0 (Word.fix 8))).a.isFix && decide (0 ≤ (b0 (withA0 (Word.fix 8))).a.int ∧ (b0 (withA0 (Word.fix fixMin))).a.int < 0),
   !svc.authority 0 ((b0 svc).breg 0) coreControl,
   svc.capCurrent 0 (capWord 1 0xFF 1 1) && capKind (capWord 1 0xFF 1 1) == 1 && (capWord 1 0xFF 1 1).isCap]

theorem witness_moves : allOf wMoves = true := by decide +kernel

/-! ### Loads and stores -/

/-- `svc` with words at 0x20000 on, and registers set besides. -/
def withData (s : State) (ws : List Word) (regs : List (Nat × BitVec 64)) : State :=
  let m := ws.zipIdx.foldl (fun m (e : Word × Nat) => SMap.set Word.raw0 m (0x4000 + e.2) e.1) s.mem.dram
  regs.foldl (fun s r => s.setReg r.1 r.2) { s with mem := { s.mem with dram := m } }

/-- Words of every kind a load meets, the last a CAP word. -/
def data0 : List Word := [Word.fix fixMin, Word.raw 0x1122334455667788#64, Word.nil, capWord 0 0xFF 1 2]

def loads : State := withData svc data0 []

/-- A load of word `off` is checked, read, and `p` of its word holds. -/
def loadThen (s : State) (off : BitVec 16) (p : Word → Bool) : Bool :=
  issues s 0 false (illP (pf 0 off) .wi) always && issues s 0 false (illP (pf 0 off) .w) always &&
    [DevRule.word, .noDev].all (fun d => okThen (siteP 0 (pf 0 off) 8 1 1 d) (s.settleDiv 0) (fun t s1 =>
      t.region == .wb && okThen (readsAt 0 0 off.toNat 0 t) s1 (fun w s2 =>
        !w.poisoned && !s2.ltrap w && (!w.isCap || hasPerm t.perms pCapld) && p w &&
          okThen (barrier 0 t.addr t.perms w) s2 (fun vh s3 => okThen (healM 0 vh.2) (withA s3 0 vh.1) (fun _ _ => true)))))

/-- The parish maps a GiB of the control region at 0x40000000, and entry 3 covers it with DEV. -/
def devSvc : State :=
  let s := withBank { bank0 with b2 := capWord 0 0xFF 1 3, a := Word.fix 5 }
  { s with regs := (s.regs.set 0 0x4010008 0xC000100001400000#64).set 0 0x4020008 16#64
           mem := { s.mem with dram := dram0 ++ entryAt 524 0x40000000 0x10000000 } }

def pdev (off : BitVec 16) : PForm := { guard := always, bank := 2, mode := 0, off := off }

def wLoads : List Bool :=
  [loadThen loads 0 Word.isFix, loadThen loads 1 (fun w => !w.isFix), loadThen loads 3 Word.isCap,
   issues svc 0 false (illP (pf 3 0xFFFF) .wi) always,
   issues devSvc 0 false (illP (pdev 0) .wi) always &&
     okThen (siteP 0 (pdev 0) 8 1 1 .word) (devSvc.settleDiv 0) (fun t s1 => t.region == .dev &&
       decide (t.pa < windowBase ∧ t.pa - controlBase < 2 ^ 28) && bits (s1.tatOf Tag.raw) 3 1 == 0)]

theorem witness_loads : allOf wLoads = true := by decide +kernel

def pcld (d off : Nat) : PForm := pf 0 (BitVec.ofNat 16 (d * 8192 + off))

def wBytes : List Bool :=
  [okThen (siteByte 0 (pf 0 1) 1 1) (loads.settleDiv 0) (fun t s1 =>
     okThen (readsAt 0 0 0 ((8 * 1 + 0) / 8) t) s1 (fun w _ => !w.poisoned)),
   loadThen loads 3 (fun w => w.tag == 0x20#8),
   opThen (pf 3 1) (withA0 (Word.raw 5)) (fun _ op => op.isFixRaw && op.val == 1 && !settRefused 1),
   opThen (pf 3 4) (withA0 (Word.raw 5)) (fun _ op => op.isFixRaw && op.val == 4 && !settRefused 4),
   issues (withA0 Word.nil) 0 false (illXR (xr 0 4) 8 false) always,
   issues loads 0 false (illP (pcld 3 3) .w) always &&
   okThen (checkM 0 0 (fun base => eaWord base 3 0) 8 1 1 true .noDev) (loads.settleDiv 0) (fun t s1 =>
     okThen (readsAt 0 0 3 0 t) s1 (fun w _ => w.isCap && hasPerm t.perms pCapld)),
   okThen (checkM 0 0 (fun base => eaWord base 8 0) 8 1 1 true .noDev) (loads.settleDiv 0) (fun t s1 =>
     okThen (readsAt 0 0 8 0 t) s1 (fun w _ => w == Word.raw0))]

theorem witness_bytes : allOf wBytes = true := by decide +kernel

/-- Two zones: the first young, the second old; the hedge and the barrier on; a card log of 16 entries. -/
def zones : List (Nat × BitVec 64) :=
  [(Reg.gcCtl 0, 3#64), (Reg.gcZone 0, 0x24#64), (Reg.gcClog 0, 0x0004000000026000#64)]

/-- CONS is of pointer class. -/
def consTat : Nat × BitVec 64 := (Reg.tat 8, 2#64)

def storing (a : Word) : State := withData (axy a (Word.fix fixMax) (Word.raw 1)) data0 (zones ++ [consTat])

def wStores : List Bool :=
  [[Word.fix 1, ⟨Tag.cons, 0x20000#64⟩, capWord 0 0xFF 1 2].all (fun a =>
     issues (storing a) 0 false (illP (pf 0 0x1F) .w) always &&
       okThen (siteP 0 (pf 0 0x1F) 8 2 2 .word) ((storing a).settleDiv 0) (fun t s1 => t.region != .dev &&
         (!a.isCap || hasPerm t.perms pCapst) && okThen (hedge 0 2 t.addr a) s1 (fun _ _ => true))),
   [false, true].all (fun on => okThen (siteByte 0 (pf 0 1) 2 2) (((storing (Word.raw 0xAB)).setFlag (Reg.cctl 0) 0 on).settleDiv 0)
     (fun t s1 => s1.cached 0 t.region == on && !(b0 s1).a.isCap && okThen (readM 0 t.region t.pa) s1 (fun w _ => !w.poisoned))),
   okThen (siteP 0 (pdev 0) 8 2 2 .word) (devSvc.settleDiv 0) (fun t s1 => t.region == .dev &&
       decide (t.pa < windowBase ∧ t.pa - controlBase < 2 ^ 28) && (b0 s1).a.isFix)]

theorem witness_stores : allOf wStores = true := by decide +kernel

/-! ### Cells, atomics, fences -/

def cellAt (v : BitVec 64) : Word := ⟨Tag.cons, v⟩

/-- A names the cell at 0x20008: RAW and NIL. -/
def celling : State := withData (withA0 (cellAt 0x20008#64)) data0 [(Reg.gcCtl 0, 4#64), consTat]

/-- The word at 0x20000 names that cell. -/
def replacing : State := withData (withA0 (Word.fix 9)) [cellAt 0x20008#64, Word.raw 1, Word.raw 2] [consTat]

def wCells : List Bool :=
  [issues celling 0 false (illXR (xr 0 0) 0 true) always,
   (withData (withA0 Word.nil) data0 [(Reg.gcCtl 0, 4#64)]).flag (Reg.gcCtl 0) 2,
   [0, 8].all (fun k => okThen (checkM 0 0 (fun _ => ((b0 celling).a.addr + k : Int)) 8 1 1 true .noDev) celling (fun t u =>
     u == celling && okThen (readM 0 t.region t.pa) u (fun w u2 => !w.poisoned && !u2.ltrap w && !w.isCap &&
       okThen (barrier 0 t.addr t.perms w) u2 (fun vh u3 => okThen (healM 0 vh.2) (withA u3 0 vh.1) (fun _ _ => true))))),
   [0, 8].all (fun k => issues replacing 0 false (illP (pf 0 0) .w) always &&
     okThen (operandBar 0 (pf 0 0)) (replacing.settleDiv 0) (fun ch u1 => ch.1.tag == Tag.cons &&
     okThen (checkM 0 0 (fun _ => (ch.1.addr + k : Int)) 8 2 2 true .noDev) u1 (fun t u2 => u2 == u1 &&
       okThen (hedge 0 2 t.addr (b0 u1).a) u1 (fun card u2 =>
         okThen (healM 0 ch.2) ((u2.ownStoreResv 0 (t.pa / 64)).coreStore 0 t.region (t.pa / 8) (.word (b0 u1).a) card)
           (fun _ _ => true))))),
   (let s := withData (withA0 (Word.fix 0x20)) [] [consTat]
    issues s 0 false (illXR (xr 0 8) 8 false) always && s.isPointer ⟨8, 0⟩ && decide (1 ≤ (b0 s).a.int ∧ (b0 s).a.int ≤ 0xFFFFFFFF ∧
      (s.core 0).ac.toNat + 8 * (b0 s).a.val.toNat ≤ (s.core 0).al.toNat)),
   okThen (operandBar 0 (pf 0 0)) (replacing.settleDiv 0) (fun ch u1 =>
     decide ((u1.core 0).ac.toNat + 16 ≤ (u1.core 0).al.toNat) &&
     okThen (checkM 0 6 (fun _ => ((u1.core 0).ac.toNat : Int)) 16 2 2 true .noDev) u1 (fun t v => v == u1 &&
     okThen (hedge 0 2 t.addr (b0 u1).a) u1 (fun k0 u2 => okThen (hedge 0 2 (t.addr + 8) ch.1) u2 (fun k1 u3 =>
       okThen (storeWordAt 0 t 0 (b0 u1).a k0) u3 (fun _ u4 => okThen (storeWordAt 0 t 1 ch.1 k1) u4 (fun _ u5 =>
         okThen (healM 0 ch.2) u5 (fun _ _ => true)))))))]

theorem witness_cells : allOf wCells = true := by decide +kernel

/-- A reservation of core 0 on the line at 0x20000. -/
def reserved : State :=
  (withData (withA0 (Word.fix 4)) data0 []).setCore 0 { core0 with
    prim := { bank0 with a := Word.fix 4, x := Word.fix fixMin }, resv := some { line := 0x20000 / 64, home := false, hold := true } }

def wAtomics : List Bool :=
  [okThen (siteP 0 (pf 0 0) 8 1 4 .noDev) (loads.settleDiv 0) (fun t u1 =>
     !(u1.reserve 0 t).2.poisoned && !(u1.reserve 0 t).1.ltrap (u1.reserve 0 t).2 &&
     okThen (barrier 0 t.addr t.perms (u1.reserve 0 t).2) (u1.reserve 0 t).1 (fun vh u3 =>
       okThen (healM 0 vh.2) (withA u3 0 vh.1) (fun _ _ => true))),
   okThen (siteP 0 (pf 0 0) 8 2 4 .noDev) (loads.settleDiv 0) (fun t u1 => !u1.reserved 0 t),
   issues reserved 0 false (illP (pf 0 0) .w) always &&
   okThen (siteP 0 (pf 0 0) 8 2 4 .noDev) (reserved.settleDiv 0) (fun t u1 => u1.reserved 0 t && !(b0 u1).a.isCap &&
     okThen (hedge 0 4 t.addr (b0 u1).a) (u1.drainStores 0) (fun _ u2 => u2.reserved 0 t)),
   okThen (atomicOld 0 (pf 0 0)) reserved (fun ow u1 => (b0 u1).a.isFix && ow.2.isFix && ow.2.val == (b0 u1).x.val &&
     okThen (hedge 0 3 ow.1.addr (b0 u1).a) u1 (fun card u2 =>
       okThen (barrier 0 ow.1.addr ow.1.perms ow.2) (((u2.ownStoreResv 0 (ow.1.pa / 64)).coreAtomic 0 ow.1.region (ow.1.pa / 8) 3
         (fun _ _ => some (b0 u1).a)).1.cardWrite 0 card) (fun _ _ => true))),
   okThen (atomicOld 0 (pf 0 1)) reserved (fun ow u1 => ow.2.val != (b0 u1).x.val &&
     okThen (barrier 0 ow.1.addr ow.1.perms ow.2) u1 (fun _ _ => true))]

theorem witness_atomics : allOf wAtomics = true := by decide +kernel

/-- An interrupt routed to core 0 of parish 0, vector 4, pending from source 5; EM 1. -/
def waking : State :=
  { svc with regs := (svc.regs.set 0 (Reg.evRoute 5) 0x10004#64).set 0 (Reg.evPend 0) 0x20#64
             cores := [(0, { core0 with prim := { bank0 with st := 1 }, run := .idle })] }

def wIdle : List Bool :=
  [issues svc 0 false (illXN xn) always, !(svc.setCore 0 { svc.core 0 with resv := none }).wakes 0,
   (let s := waking.setCore 0 { waking.core 0 with run := .running }
    issues s 0 false (illXN xn) always && (s.setCore 0 { s.core 0 with resv := none }).wakes 0),
   (waking.core 0).run == .idle && waking.stop == .running && waking.wakes 0]

theorem witness_idle : allOf wIdle = true := by decide +kernel

/-! ### Capabilities and exceptions -/

/-- An entry with its own info word. -/
def entryIs (ix : Nat) (base len info : BitVec 64) : List (Nat × Word) :=
  [(512 + 4 * ix, Word.raw base), (513 + 4 * ix, Word.raw len), (514 + 4 * ix, Word.raw info)]

/-- Entry 3 seals with type 0x100, 4 is sealed code, 5 a return entry, 6 free, 7 may be revoked and is sealed data. -/
def capDram : List (Nat × Word) :=
  dram0 ++ entryIs 3 0x100 8 0x10001000000FF#64 ++ entryIs 4 0x11000 0x100 0x90001010000FF#64 ++
    entryIs 5 0x10004 (capWord 1 0xFF 1 1).val 0x110001FFFF0000#64 ++ entryIs 6 0 0 0x100000000#64 ++
    entryIs 7 0x20000 0x100 0x30001010000FF#64

def capBank : Bank :=
  { bank0 with b2 := capWord 0 0xFF 1 3, b3 := capWord 2 0xFF 1 4, b4 := capWord 2 0 1 5, b5 := capWord 2 0xFF 1 7 }

def caps (a : Word) : State :=
  { svc with regs := (svc.regs.set 0 (Reg.captFree 0) 0x10000006#64)
             cores := [(0, { core0 with prim := { capBank with a := a } })], mem := { Mem.reset with dram := capDram } }

/-- A request for R and W, RVKOK, units of 8 bytes, offset 0x1FF, length 1: the last word of entry 2. -/
def request : Word := Word.fix 0x03200001FF000001#64

def wCaps : List Bool :=
  [issues (caps request) 0 false (illXR (xr 0 6) 3 true) always,
   (let s := caps request
    let es := s.capEntry 0 2
    s.capCurrent 0 ((b0 s).breg 0) && capKind ((b0 s).breg 0) != 2 &&
      decide (bits request.val 54 2 = 0 ∧ bits request.val 0 24 ≠ 0 ∧
        es.lo + bits request.val 24 24 * 8 + bits request.val 0 24 * 8 ≤ es.lo + es.len ∧ (s.capAlloc 0).2 = some 6)),
   (let s := caps request
    let sw := (b0 s).breg 2
    let se := s.capEntry 0 3
    s.capCurrent 0 sw && capKind sw == 0 && hasPerm (effPerm sw se) pSeal && decide (1 ≤ se.lo ∧ se.lo ≤ 0xFFFE) &&
      s.capCurrent 0 ((b0 s).breg 0) && decide (capKind ((b0 s).breg 0) ≤ 1) && (s.capAlloc 0).2 == some 6 &&
      s.capCurrent 0 ((b0 s).breg 5) && capKind ((b0 s).breg 5) == 2 && (s.capEntry 0 7).otype == se.lo &&
      !(s.capEntry 0 7).isReturn),
   (caps request).capCurrent 0 (capBank.breg 5) && ((caps request).capEntry 0 7).rvkok]

theorem witness_capabilities : allOf wCaps = true := by decide +kernel

def wCalls : List Bool :=
  [issues (caps request) 0 false (illXR (xr 3 0) 0 true) always,
   (let s := caps request
    let c := (b0 s).breg 3
    let e := s.capEntry 0 4
    s.capCurrent 0 c && capKind c == 2 && e.skind == 1 && !e.isReturn && hasPerm (capPerm c &&& e.perm) pX &&
      decide (4 ≤ e.len) && (s.capAlloc 0).2 == some 6),
   (let s := caps request
    let r := s.capEntry 0 5
    let k := Word.cap r.length
    let ek := s.capEntry 0 (capIndex k)
    issues s 0 false (illXN xn) always && s.capCurrent 0 (b0 s).b4 && capKind (b0 s).b4 == 2 && r.isReturn && r.otype == 0xFFFF &&
      s.capCurrent 0 k && capKind k == 1 && hasPerm (effPerm k ek) pX && decide (ek.lo ≤ r.lo ∧ r.lo + 4 ≤ ek.lo + ek.len)),
   !(b0 (caps request)).b3.isCap || capKind ((b0 (caps request)).breg 0) != 2,
   (let s := (caps request).setReg (Reg.captFree 0) 0#64
    issues s 0 false (illXR (xr 3 0) 0 true) always && (s.capAlloc 0).2.isNone && s.capCurrent 0 ((b0 s).breg 3)),
   capKind (b0 svc).b4 != 2 && issues svc 0 false (illXN xn) always]

theorem witness_calls : allOf wCalls = true := by decide +kernel

/-- `svc` with SB, DF and another VB. -/
def handling (sb df : Bool) (vb : Word) : State :=
  svc.setCore 0 { core0 with sb := sb, df := df, vb := vb, shad := bank0, dbl := bank0 }

def wEntry : List Bool :=
  [[(0x12, some 0x11200), (vDflt, some 0x10100), (0x3F, some 0x13F00)].all (fun e =>
     (svc.pmc (svc.physOf 0) 7).handler 0 e.1 == e.2),
   svc.mapsOk && !(svc.core 0).df && (svc.core 0).divider.isNone && !(svc.core 0).sb && !(svc.core 0).em,
   (svc.excX { vec := vIll }).1 == svc && (svc.excX { vec := vIll, ea := some (2 ^ 63 - 1) }).1 == svc,
   (let s := handling true false (core0.vb)
    s.mapsOk && !(s.core 0).df && (s.core 0).sb && ((s.pmc (s.physOf 0) 7).handler 0 vDflt).isSome),
   (let s := handling true true (core0.vb)
    s.mapsOk && (s.core 0).df && s.stop == .running && !s.escalated 0x03),
   (let s := handling false false Word.raw0
    s.mapsOk && ((s.pmc (s.physOf 0) 7).handler 0 vIll).isNone && ((s.pmc (s.physOf 0) 7).handler 0 vDflt).isNone),
   (let s := { handling false false core0.vb with mem := { Mem.reset with dram := entryAt 516 0x10000 0x1000 ++ entryAt 520 0x20000 0x1000 } }
    s.mapsOk && ((s.pmc (s.physOf 0) 7).handler 0 0x10).isNone && ((s.pmc (s.physOf 0) 7).handler 0 vDflt).isSome)]

theorem witness_exception_entry : allOf wEntry = true := by decide +kernel

/-- `svc` with the record of its primary bank at 0x20000. -/
def recorded : State := withData svc (core0.record) []

def wReturning : List Bool :=
  [(let s := handling true false (core0.vb)
    issues s 0 false (illXN xn || !((s.core 0).sb || (s.core 0).df)) always &&
      issues s 0 false (illXN xn || !(s.core 0).sb || (s.core 0).df) always &&
      okThen (checkM 0 7 (fun base => base) 144 18 2 true .noDev) (s.settleDiv 0) (fun _ u => u == s.settleDiv 0) &&
      (s.settleDiv 0).capCurrent 0 ((s.settleDiv 0).nullStale 0 ((s.core 0).bank .prim)).1.pcCap),
   [svc, handling true true core0.vb].all (fun s => s.runnable 0 && (s.boundary 0 false).isNone && (s.fetchFault 0).isNone),
   issues recorded 0 false (illXN xn) always && okThen (rteRecord 0) (recorded.settleDiv 0) (fun _ _ => true),
   (let s := (waking.setCore 0 { core0 with run := .running }).setCur 0 bank0
    s.runnable 0 && (s.boundary 0 false).isSome),
   (let s := svc.setCore 0 { core0 with atLimit := true }
    (s.core 0).atLimit && (s.core 0).run == .running && s.stop == .running)]

theorem witness_returning : allOf wReturning = true := by decide +kernel

/-! ### Long instructions and cache operations -/

/-- X names word 0 of B0, Y word 4 of B1. -/
def movingReg : State :=
  { withData (axy (Word.fix 1) (Word.fix 0) (Word.fix 4)) data0 [] with
    regs := (svc.regs.set 0 0x4010000 0x8000000000000000#64) }

def wLong : List Bool :=
  [svc.mapsOk && (b0 (withA0 (Word.fix 0))).prog == 0 && issues (withA0 (Word.fix 0)) 0 false (illXR (xr 0 1) 3 true) always &&
     issues (withA0 (Word.fix 0)) 0 false (illXR (xr 0 0xFF) 8 true) always,
   (let s := movingReg
    let u := s.settleDiv 0
    issues s 0 false (illXR (xr 0 1) 3 true) always && s.mapsOk && (b0 u).prog == 0 &&
    okThen (runSite 0 0 1 0 1 1) u (fun ts u1 => u1 == u && okThen (runSite 0 1 1 4 2 2) u (fun td u2 => u2 == u &&
      (let v := u.setCur 0 ((b0 u).setProg 1)
       okThen (readM 0 (v.translate 0 ts.addr).1 (v.translate 0 ts.addr).2) v (fun w v2 => !w.isCap && !w.poisoned &&
         (v.translate 0 td.addr).1 == .uc && okThen (hedge 0 2 td.addr w) v2 (fun card v3 =>
           (let z := (v3.ownStoreResv 0 ((v.translate 0 td.addr).2 / 64)).coreStore 0 .uc ((v.translate 0 td.addr).2 / 8) (.word w) card
            z.mapsOk && (b0 z).prog == 1))))))),
   (let s := withData (axy (Word.fixNat 2) (Word.fix 0) (Word.fix 1)) data0 []
    let u := s.settleDiv 0
    let v := u.setCur 0 ((b0 u).setProg 2)
    s.mapsOk && okThen (runSite 0 0 2 0 1 1) u (fun ts _ => okThen (runSite 0 1 2 1 1 1) u (fun td _ =>
      okThen (readM 0 (v.translate 0 ts.addr).1 (v.translate 0 ts.addr).2) v (fun ws v2 =>
        okThen (readM 0 (v.translate 0 td.addr).1 (v.translate 0 td.addr).2) v2 (fun wd v3 =>
          !ws.poisoned && !wd.poisoned && cmpKey ws != cmpKey wd && v3.mapsOk)) &&
      okThen (readM 0 (v.translate 0 ts.addr).1 (v.translate 0 ts.addr).2) v (fun w v2 => tagRead w == 1 && v2.mapsOk)))),
   issues (withA0 Word.nil) 0 false (illXM { guard := always, bank := 0, mode := 0, off := 0 }) always]

theorem witness_long : allOf wLong = true := by decide +kernel

def xm (mode : BitVec 2) (off : BitVec 10) : XMForm := { guard := always, bank := 0, mode := mode, off := off }

def cachingState (a y : Word) : State := (withData (axy a (Word.fix 0) y) data0 []).setFlag (Reg.cctl 0) 0 true

def wCacheOps : List Bool :=
  [issues (cachingState Word.raw0 (Word.fix 3)) 0 false (illXM (xm 0 8) || false) always &&
     okThen (lineSite 0 (xm 0 8) .noDev) ((cachingState Word.raw0 (Word.fix 3)).settleDiv 0) (fun t u =>
       t.region == .wb && u == (cachingState Word.raw0 (Word.fix 3)).settleDiv 0),
   okThen (lineSite 0 (xm 0 8) .noDev) (movingReg.settleDiv 0) (fun t _ => t.region == .uc),
   [1, 0x1000].all (fun k => okThen (checkM 0 0 (fun base => (base : Int) + 8 * 0) k 1 1 false .noDev)
     ((cachingState (Word.fixNat k) (Word.fix 0)).settleDiv 0) (fun _ _ => true)),
   okThen (lineSite 0 (xm 0 8) .wbOnly) ((cachingState Word.raw0 (Word.fix 3)).settleDiv 0) (fun _ _ => true),
   (svc.physCore 0).l2.find 5 == none]

theorem witness_cache_operations : allOf wCacheOps = true := by decide +kernel

/-! ### Caches, retry, transplant -/

def reeve : Accessor := { parish := 0, devctl := true, obs := false }

def guest : Accessor := { parish := 1, devctl := false, obs := false }

/-- Line 0x800 (at 0x20000) of `data0`, as an L2 holds it. -/
def line0 (st : L2St) : L2Line := { st := st, data := data0 ++ List.replicate 4 Word.raw0, way := 0 }

/-- Caches on, the L2 of physical core 0 holding line 0x800. -/
def holding (st : L2St) : State :=
  (cachingState (Word.fix 9) (Word.fix 3)).setPhys 0 { PhysCore.reset with l2 := [(0x800, line0 st)] }

/-- Physical core 40 is fallow. -/
def paused : State :=
  (svc.setCore 0 { core0 with run := .paused }).setReg Reg.fallowStat (BitVec.ofNat 64 (2 ^ 40))

def wCacheControl : List Bool :=
  [(holding .m).mapsOk && reeve.devctl && !(holding .m).flag Reg.fallowStat 0 && !(holding .m).flag Reg.failedMap 0,
   (let s := (holding .m).setFlag (Reg.cctl 0) 1 true
    s.flag (Reg.cctl 0) 1 && s.logicalOf 0 == some 0)]

theorem witness_cache_control : allOf wCacheControl = true := by decide +kernel

def retried (k : Nat) : State := svc.setCore 0 { core0 with attempts := k, retryTimes := [0] }

def wRetry : List Bool :=
  [[0, 2].all (fun k => (retried k).mapsOk && (retried k).active 0 && decide (((retried k).core 0).attempts < 3) &&
     ((retried k).core 0).devLoad.isNone), ((retried 3).core 0).attempts == 3 && (retried 3).active 0,
   (let s := (retried 0).setReg (Reg.rtyCfg 0) 1#64
    s.active 0 && decide (s.fld (Reg.rtyCfg (s.physOf 0)) 0 16 ≠ 0 ∧
      s.fld (Reg.rtyCfg (s.physOf 0)) 0 16 ≤ (s.recentRetries 0).length)),
   svc.runnable 0 && !svc.escalated 0x08]

theorem witness_retry : allOf wRetry = true := by decide +kernel

/-- A stream of two equal separations of one line, its first line ahead not present. -/
def streaming : State :=
  (holding .e).setFlag (Reg.cctl 0) 2 true |>.setPhys 0 { PhysCore.reset with streams :=
    [{ ins := 0x10000, last := 0x20000, stride := 64, hits := 2, dist := 4, lo := 0x20000, hi := 0x21000, ahead := [] }] }

def wTransplant : List Bool :=
  [(paused.core 0).run == .paused && (paused.core 0).target.isNone,
   (((paused.drainAll 0).evacuate 0 []).setFlag (Reg.cctl (paused.physOf 0)) 1 false).targets (paused.physOf 0) == [40],
   (let s := paused.setCore 0 { core0 with run := .paused, target := some 40 }
    s.mapsOk && (s.core 0).run == .paused && (s.core 0).target == some 40 && !s.escalated 0x02 && !s.flag Reg.rcStat 0),
   (let s := streaming
    s.phase == phService && s.coreValid 0 && s.cachesOn 0 && s.flag (Reg.cctl 0) 2 && (s.core 0).run == .running &&
    (match (s.physCore 0).streams.find? (fun t => t.ins == 0x10000 && decide (2 ≤ t.hits)) with
     | some t =>
       (let lines := t.ahead?.filterMap (fun a => s.aheadLine (s.parishOf 0) true t a)
        match lines.find? (fun l => ((s.physCore 0).l2.find l).isNone && ((s.physCore 0).fills.find l).isNone) with
        | some l => (s.l2Room 0 l).2.isSome && !s.lineBusy l && s.sfCap l && s.waiting.isNone &&
            ran (.corePrefetch 0 0x10000) s (fun v => ((v.physCore 0).l2.find l).isSome)
        | none => false)
     | none => false))]

theorem witness_transplant : allOf wTransplant = true := by decide +kernel

/-! ### The fabric -/

def on0 : State := cachingState (Word.fix 9) (Word.fix 3)

/-- One DIMM of 16 GiB on channel 0. -/
def withDimm (s : State) : State := { s with image := [{ ty := 0x0E, index := 0, words := [16#64] }] }

def wRequests : List Bool :=
  [on0.requester 0 == some 0 && on0.wbLine 0 0x800 && !on0.asked (masterId 0 0) 0x800 && !on0.wbkOut 0 0x800 &&
     (on0.physCore 0).l2.find 0x800 == none,
   (holding .s).requester 0 == some 0 && ((holding .s).physCore 0).l2.find 0x800 == some (line0 .s) &&
     !(holding .s).mirroredPa (64 * 0x800),
   on0.fabricOn && isDram (64 * 0x800) && !isCommons (64 * 0x800) && !on0.asked 0x300 0x800,
   on0.logicalOf 0 == some 0 && on0.active 0 && isDram (8 * (0x20000 / 8)) && !on0.asked (masterId 0 0) (0x20000 / 64),
   decide (64 * 0x800 < (withDimm on0).dramEnd)]

theorem witness_requests : allOf wRequests = true := by decide +kernel

def rds0 : Req := { kind := .rds, master := BitVec.ofNat 12 0, line := 0x800 }

/-- The line of `rds0` is in an open transaction. -/
def busy : State :=
  { on0 with coh := { Coh.reset with txns := [(0x800, { req := rds0, way := none, await := [], wbp := [], got := [], victim := none, answered := true })] } }

def wAdmission : List Bool :=
  [on0.coh.sf == [] && on0.coh.txns == [] && on0.coh.retryQ == [] && !on0.homeHeld rds0 && !on0.flag Reg.trcCtl 13,
   (let u := on0.setTxn 0x800 { req := rds0, way := none, await := [], wbp := [], got := [], victim := none, answered := false }
    (match u.homeLine 0x800 { master := 0, acc := 1, parish := u.ownerOf (64 * 0x800) } with
     | (v, some _) => v.coh == u.coh
     | _ => false)),
   !busy.admissible rds0 && rds0.kind != .pfg && decide ((busy.retryAt (sliceOf (64 * rds0.line))).length < 96),
   !busy.admissible { rds0 with kind := .pfg }]

theorem witness_admission : allOf wAdmission = true := by decide +kernel

def msg0 (k : MsgKind) : Msg := { kind := k, p := 0, line := 0x800, txn := 0x800 }

def inFlight (s : State) (k : MsgKind) : State := { s with coh := { s.coh with msgs := [msg0 k] } }

def wSnoops : List Bool :=
  [[MsgKind.snpS, .snpI, .binv].all (fun k => [L2St.s, .e, .m].all (fun st =>
     (let s := inFlight (holding st) k
      s.mapsOk && s.fabricOn && !s.heldOff 0 0x800 && s.coh.msgs == [msg0 k] &&
        takeMsg (fun m => m.kind == k && m.p == 0 && m.line == 0x800) s.coh.msgs == some (msg0 k, []) &&
        (s.physCore 0).l2.find 0x800 == some (line0 st)))),
   takeMsg (fun m => m.kind == .snpS && m.p == 0 && m.line == 0x800) (holding .m).coh.msgs == none,
   ((inFlight on0 .snpI).physCore 0).l2.find 0x800 == none]

theorem witness_snoops : allOf wSnoops = true := by decide +kernel

def wResponses : List Bool :=
  [(let s := inFlight on0 (.data .e (line0 .e).data)
    s.mapsOk && s.fabricOn && takeMsg (fun m => m.kind.isData && m.p == 0 && m.line == 0x800) s.coh.msgs ==
      some (msg0 (.data .e (line0 .e).data), []) && decide ((s.physCore 0).dirty.length < 1024)),
   (let s := inFlight (holding .s) .gnt
    takeMsg (fun m => m.kind == MsgKind.gnt && m.p == 0 && m.line == 0x800) s.coh.msgs == some (msg0 .gnt, []) &&
      (s.physCore 0).l2.find 0x800 == some (line0 .s)),
   (let s := inFlight on0 (.ack false none)
    takeMsg (fun m => m.kind.isAck && m.p == 0 && m.line == 0x800) s.coh.msgs == some (msg0 (.ack false none), []) &&
      s.coh.txns.find 0x800 == none && s.logicalOf 0 == some 0 && (s.core 0).sq == []),
   [(MsgKind.sack (some .s), MsgKind.isSack), (.sdata (line0 .m).data, MsgKind.isSdata), (.miss, fun k => k == MsgKind.miss),
      (.ndataWbp, fun k => k == MsgKind.ndataWbp)].all (fun r =>
     (let s := inFlight { on0 with coh := { Coh.reset with txns :=
        [(0x800, { req := { rds0 with master := 1 }, way := none, await := [0], wbp := [], got := [], victim := none, answered := false })] } } r.1
      (s.coh.txns.find 0x800).isSome && takeMsg (fun m => r.2 m.kind && m.p == 0 && m.line == 0x800) s.coh.msgs == some (msg0 r.1, [])))]

theorem witness_responses : allOf wResponses = true := by decide +kernel

def storeEntry (p : StorePath) : StoreEntry := { path := p, word := 0x4000, data := .word (Word.fix 1), card := none }

def queue1 (p : StorePath) : State := svc.setCore 0 { core0 with sq := [storeEntry p] }

def wWrites : List Bool :=
  [[StorePath.wrt, .wrh].all (fun p => (queue1 p).fabricOn && (queue1 p).coreValid 0 && ((queue1 p).core 0).sq == [storeEntry p] &&
     !isCommons (8 * 0x4000) && !(queue1 p).asked (masterId 0 0) (0x4000 / 8)),
   on0.fabricOn && isDram (64 * 0x800) && !isCommons (64 * 0x800) && !on0.asked 0x200 0x800,
   (let s := holding .m
    s.mapsOk && s.coh.msgs == [] && s.coh.txns == [] && !s.flag Reg.trcCtl 13 &&
      (List.range 16).all (fun q => !s.flag (Reg.dlCtl q) 0) && (s.physCore 0).l2.find 0x800 == some (line0 .m)),
   (let s := svc.setCore 0 { core0 with nt := [{ line := 0x800, mask := 1, words := (line0 .m).data, cards := [] }] }
    s.fabricOn && (s.core 0).nt != []),
   (let s := { svc with mem := { svc.mem with merge := [{ word := 0x4000, master := 0, bytes := List.replicate 8 7#8, mask := 1 }] } }
    s.mem.merge.any (fun e => e.word == 0x4000) && s.coh == Coh.reset)]

theorem witness_writes : allOf wWrites = true := by decide +kernel

/-- `rds0` waits at its slice. -/
def waiting : State := { on0 with coh := { Coh.reset with retryQ := [rds0] } }

def wArbiter : List Bool :=
  [waiting.mapsOk && waiting.fabricOn && (pickReq waiting [] (waiting.retryAt (sliceOf (64 * 0x800)))) == some (rds0, []) &&
     decide (sliceOf (64 * 0x800) < 64),
   hsiaoDecode 3#87 == .ue,
   [false, true].all (fun h => (let s := svc.setCore 0 { core0 with resv := some { line := 0x800, home := h, hold := true } }
    s.mapsOk && (s.core 0).resv.isSome && s.logicalOf 0 == some 0))]

theorem witness_arbiter : allOf wArbiter = true := by decide +kernel

/-! ### Stored data -/

/-- The gleaner runs; the DIMM of channel 0 holds every line. -/
def gleaning : State := (withDimm on0).setFld Reg.glnCtl 0 8 1

def withGran (s : State) (line : Nat) (d : Bool) : State :=
  { s with mem := { s.mem with gran := [(line, { dirty := d, data := data0 ++ List.replicate 4 Word.raw0, way := 0 })] } }

def ue3 : BurstErr := [(1, 1#8), (20, 3#8), (40, 7#8), (60, 0x55#8), (3, 9#8)]
def addr1 : BurstErr := [(82, 1#8)]

/-- `gleaning` in a pair whose partner is present, parish 0 mirrored and its mirror whole. -/
def gleaningPair : State :=
  (((gleaning.setFlag Reg.pairCfg 0 true).setFld Reg.pairStat 4 2 1).setFlag Reg.pairStat 3 true).setFlag (Reg.parCfg 0) 2 true

def wGleaner : List Bool :=
  [gleans gleaning 0 0 && gleaning.channelOf (64 * 0) == 0, rsDecode [(7, 0x80#8)] == .ce [(7, 0x80#8)],
   rsDecode [(7, 0x80#8), (79, 1#8)] == .ce [(7, 0x80#8), (79, 1#8)],
   gleans (withGran gleaning 0 true) 0 0 && ((withGran gleaning 0 true).mem.gran.find 0).isSome, rsDecode ue3 == .ue,
   rsDecode addr1 == .addr,
   gleans gleaningPair 0 0 && gleaningPair.mem.gran.find 0 == none && gleaningPair.canMend 0,
   gleaning.mem.gran.find 0 == none && !gleaning.canMend 0]

theorem witness_gleaner : allOf wGleaner = true := by decide +kernel

/-- The mend of line 0x800 is open. -/
def mending : State := { gleaning with mem := { gleaning.mem with mends := [(0x800, ⟨0x21, 0x400, 0xA, []⟩)] } }

def wSweeps : List Bool :=
  [mending.mapsOk && mending.mem.mends.find? (fun m => m.1 == 0x800) == some (0x800, ⟨0x21, 0x400, 0xA, []⟩) && noLogs mending && mending.coh.wbks == [] &&
     mending.coh.txns.find 0x800 == none && mending.mem.gran.find 0x800 == none,
   gleaning.mapsOk && gleaning.fabricOn && decide (gleaning.fld Reg.glnCtl 0 8 ≠ 0) &&
     gleaning.mem.merge.any (fun e => e.word == commonsBase / 8 + 5) == false,
   [0, 71].all (fun b => hsiaoDecode (bitErr b) == .ce b), hsiaoDecode 3#87 == .ue,
   sweeping gleaning && gleaning.coh.bookErr.find 0x800 == none && knownTag (Word.fix 9) && !knownTag ⟨0x90#8, 0⟩,
   [true, false].all (fun d => (let s := withGran gleaning 0x800 d
     s.mapsOk && !s.lineBusy 0x800 && (s.mem.gran.find 0x800).map (·.dirty) == some d))]

theorem witness_sweeps : allOf wSweeps = true := by decide +kernel

def cmnReq (write : Bool) (age : Nat) (m : BitVec 12) : CmnReq :=
  { word := 0x41, write := write, data := Word.fix 7, data2 := Word.raw0, mask := 0xFF, age := age, master := m, cause := 0 }

/-- A request of the gleaner denied for 256 cycles, where cores go first. -/
def denied : State :=
  let s := gleaning.setFld (Reg.cmnCtl 1) 0 2 1
  { s with mem := { s.mem with cmnHeld := [(65, [⟨cmnReq false 9 0x400, 256⟩])] } }

def wCommons : List Bool :=
  [gleaning.mapsOk && gleaning.fabricOn && !gleaning.coreFirst 1 && gleaning.cmnWaiting 1 1 == [] &&
     (0x41 : BitVec 20).toNat % 64 == 1 && !gleaning.mem.merge.any (fun e => e.word == commonsBase / 8 + 2 ^ 20 + 0x41),
   noLogs gleaning, reqBefore (cmnReq true 0 1) (cmnReq true 9 0x200), reqBefore (cmnReq true 9 2) (cmnReq true 0 1),
   reqBefore (cmnReq true 3 1) (cmnReq true 3 2),
   denied.mapsOk && denied.fabricOn && (denied.breakerDue 1 1).isSome]

theorem witness_commons : allOf wCommons = true := by decide +kernel

/-! ### Queues -/

/-- Parish 0's queue `q`, its rings of 16 entries at 0x40000 and 0x50000. -/
def queueSvc (q : QueueId) (en : Bool) : State :=
  (((svc.setReg (queueCfg q) (0x100040400#64 ||| (if en then 1 else 0))).setReg (queueSqb q) 0x40000#64).setReg
    (queueCqb q) 0x50000#64).setReg (queueSqp q) 2#64

def owner0 : Accessor := { parish := 0, devctl := false, obs := false }

def q3 : List QueueId := [.chan 3, .comp 63, .ciph 0]

/-- The queue's completion ring holds two entries, one of them read. -/
def filled (q : QueueId) : State := (queueSvc q true).setReg (queueCqp q) 0x200000001#64

def wQueues : List Bool :=
  [q3.all (fun q => [true, false].all (fun en => (queueSvc q en).ownerReach owner0 q && (queueSvc q en).mapsOk &&
     (queueSvc q en).qEnabled q == en)),
   q3.all (fun q => (let s := queueSvc q true
     [2, 16].all (fun t : Nat => decide ((t + 2 ^ 32 - s.sqHead q) % 2 ^ 32 ≤ 2 ^ s.fld (queueCfg q) 8 5) &&
       decide ((s.sqTail q + 2 ^ 32 - s.sqHead q) % 2 ^ 32 ≤ (t + 2 ^ 32 - s.sqHead q) % 2 ^ 32)) &&
     decide (2 ^ s.fld (queueCfg q) 8 5 < (17 + 2 ^ 32 - s.sqHead q) % 2 ^ 32) &&
     decide ((1 + 2 ^ 32 - s.sqHead q) % 2 ^ 32 < (s.sqTail q + 2 ^ 32 - s.sqHead q) % 2 ^ 32))),
   q3.all (fun q => (let s := queueSvc q false
     !s.qBusy q && s.ringOk (s.qParish q) (ringBase (s.reg (queueSqb q))) (sizeField (s.fld (queueCfg q) 8 5) 5) 64 &&
     s.ringOk (s.qParish q) (ringBase (s.reg (queueCqb q))) (sizeField (s.fld (queueCfg q) 16 5) 5) 32)),
   (let s := (queueSvc (.chan 3) false).setFld (Reg.chSeq 3) 48 11 1
    s.qBusy (.chan 3) && s.ownerReach owner0 (.chan 3) && !s.qEnabled (.chan 3)),
   q3.all (fun q => (let s := (queueSvc q false).setReg (queueSqb q) 0x40040#64
     !s.ringOk (s.qParish q) (ringBase (s.reg (queueSqb q))) (sizeField (s.fld (queueCfg q) 8 5) 4) 64 && !s.qEnabled q)),
   q3.all (fun q => (let s := (queueSvc q false).setReg (queueCqb q) 0x50020#64
     !s.ringOk (s.qParish q) (ringBase (s.reg (queueCqb q))) (sizeField (s.fld (queueCfg q) 16 5) 16) 32)),
   q3.all (fun q => (let s := queueSvc q true
     sizeField (s.fld (queueCfg q) 8 5) 17 == s.fld (queueCfg q) 8 5 &&
     sizeField (s.fld (queueCfg q) 16 5) 3 == s.fld (queueCfg q) 16 5 && sizeField (s.fld (queueCfg q) 8 5) 16 != s.fld (queueCfg q) 8 5)),
   q3.all (fun q => (let s := filled q
     s.ownerReach owner0 q && [1, 2].all (fun h : Nat => decide ((h + 2 ^ 32 - s.cqHead q) % 2 ^ 32 ≤
       (s.cqTail q + 2 ^ 32 - s.cqHead q) % 2 ^ 32)) &&
     [0, 3].all (fun h : Nat => decide ((s.cqTail q + 2 ^ 32 - s.cqHead q) % 2 ^ 32 < (h + 2 ^ 32 - s.cqHead q) % 2 ^ 32))))]

theorem witness_queues : allOf wQueues = true := by decide +kernel

/-- A program of one order of opcode `opc` at 0x20000, ready in the ring of channel 3 on port 0, link 0, which is up. -/
def orderSvc (opc : Nat) : State :=
  let s := ((queueSvc (.chan 3) true).setReg (queueSqp (.chan 3)) 1#64).setFlag (Reg.cpLstat 0) 0 true
  let m := SMap.set Word.raw0 (SMap.set Word.raw0 s.mem.dram 0x8000 (capWord 0 0xFF 1 2)) 0x8002 (Word.raw 0x77)
  withData { s with mem := { s.mem with dram := m } } [Word.raw (BitVec.ofNat 64 (opc * 2 ^ 56 + 64)), capWord 0 0xFF 1 2, Word.fix 0x100, Word.raw 5] []

def linkPool : Pool := .link 0 0

def dispatching (pool : Pool) (i : Nat) (s : State) : Bool :=
  s.portsRun && (s.server pool).isSome && nextMember (s.members pool) (s.drrAt pool / 2) == some i &&
    s.drrAt pool % 2 == 0 && decide (0 < s.weight pool i) && s.headReady pool i &&
    (let d := s.setDeficit pool i (s.deficit pool i + s.weight pool i * 1024)
     d.headReady pool i && decide (d.headCost pool i ≤ d.deficit pool i) && (d.server pool).isSome)

def engineSvc (q : QueueId) : State := (queueSvc q true).setReg (queueSqp q) 1#64

def wDispatching : List Bool :=
  [dispatching linkPool 3 ((orderSvc 1).setFld (altReg linkPool 3) 0 8 1),
   dispatching .comp 0 ((engineSvc (.comp 0)).setFld (altReg .comp 0) 0 8 1),
   dispatching .ciph 0 ((engineSvc (.ciph 0)).setFld (altReg .ciph 0) 0 8 255)]

theorem witness_dispatching : allOf wDispatching = true := by decide +kernel

def waitOrder : OrderWait :=
  { (default : OrderWait) with opc := 1, count := 64, paddr := 0x20100, param := 5, user := 0x77 }

/-- One checked order of channel 3 waits. -/
def waitingOrder : State := (orderSvc 1).setChan 3 { ChanState.reset with waiting := [waitOrder], begun := 1 }

def pairOf (s : State) : State := (s.setFlag Reg.pairCfg 0 true).setFld Reg.pairStat 4 2 1

/-- Channel 3's entry of slot 1 is in state `st`, for an order of opcode `opc`. -/
def entryOf (opc : BitVec 8) (st : LedgerSt) : LedgerEntry :=
  { LedgerEntry.reset with st := st, seq := 1, opc := opc, count := 64, paddr := 0x20100, param := 5, user := 0x77,
                           reln := 1, written := (st == .done) }

def ledgerSvc (opc : BitVec 8) (st : LedgerSt) : State :=
  (orderSvc 1).setLedger 3 1 (entryOf opc st)

def wOrders : List Bool :=
  [[waitingOrder, pairOf waitingOrder].all (fun s => s.mapsOk && s.portsRun && s.flag (Reg.chCfg 3) 32 &&
     (s.chan 3).waiting == [waitOrder] && s.acceptable 3 && s.fld (Reg.chSeq 3) 0 48 == 1),
   !waitingOrder.partnered && waitingOrder.io.ledgerErr == [] && (waitingOrder.chan 3).prog.isNone, (pairOf waitingOrder).partnered,
   (let s := (pairOf waitingOrder).setChan 3 { ChanState.reset with waiting := [{ waitOrder with sent := some 4 }], begun := 1 }
    s.partnered && !s.unacked 4 && s.acceptable 3 && (s.chan 3).prog.isNone),
   (let s := (ledgerSvc 1 .accepted).setReg (Reg.chAdb 3) 0x1000#64
    s.mapsOk && s.due 3 == some 1 && decide (s.reg (Reg.chAdb 3) ≠ 0)),
   (ledgerSvc 1 .released).due 3 == none,
   (ledgerSvc 1 .done).stop == .running && ((ledgerSvc 1 .done).ledgerAt 3 1).st == .done && ((ledgerSvc 1 .done).ledgerAt 3 1).written &&
     ((ledgerSvc 1 .done).ledgerAt 3 1).frame == none,
   decide (((ledgerSvc 1 .closed).ledgerAt 3 1).st ≠ .done)]

theorem witness_orders : allOf wOrders = true := by decide +kernel

/-- The bus address of the window of slot 1 of channel 3. -/
def win31 : Nat := 0x400000000000 + (1024 * 3 + 1) * 0x1000000

def wUpstream : List Bool :=
  [(let s := ledgerSvc 1 .released
    s.linkUpBit (plOf 0 0) && s.mapsOk && s.serves 0 3 && (s.ledgerAt 3 1).st == .released && !s.serves 0 4 &&
      (s.ledgerAt 3 0).st != .released &&
      s.windowHit 0 (win31 + 8) 56 1 == some (3, 1, 8) && s.windowHit 0 win31 65 1 == none && s.windowHit 0 (win31 + 64) 1 1 == none &&
      (let r := s.dmaRead (s.qParish (chanQ 3)) ((s.ledgerAt 3 1).paddr.toNat + 8) 56
         { master := masterId 1 0, acc := 8, parish := some (s.qParish (chanQ 3)) }
       !r.2.2)),
   (let s := withData (ledgerSvc 1 .released) (List.replicate 34 Word.pois) []
    s.windowHit 0 (win31 + 8) 56 1 == some (3, 1, 8) &&
      (s.dmaRead (s.qParish (chanQ 3)) ((s.ledgerAt 3 1).paddr.toNat + 8) 56
         { master := masterId 1 0, acc := 8, parish := some (s.qParish (chanQ 3)) }).2.2),
   (let s := ledgerSvc 2 .released
    s.linkUpBit 0 && s.windowHit 0 (win31 + 60) 4 2 == some (3, 1, 60) && s.windowHit 0 win31 4 1 == none &&
      s.windowHit 0 (win31 + 61) 4 2 == none &&
      !(s.dmaPut (s.qParish (chanQ 3)) ((s.ledgerAt 3 1).paddr.toNat + 60) [1, 2, 3, 4] (masterId 1 0)).2)]

theorem witness_upstream : allOf wUpstream = true := by decide +kernel

def wEndings : List Bool :=
  [(let s := ledgerSvc 2 .released
    s.mapsOk && s.linkUpBit (plOf 0 0) && s.serves (plOf 0 0) 3 && s.portsRun &&
      (0x3F0000038010 : BitVec 64).toNat == 0x3F0000000000 + 0x10000 * 3 + 0x8000 + 16 * 1 &&
      bits 0x10000#64 16 48 == (s.ledgerAt 3 1).seq.toNat && bits 0x10000#64 0 16 == (s.ledgerAt 3 1).epoch.toNat &&
      decide (bits 0x20000#64 16 48 ≠ (s.ledgerAt 3 1).seq.toNat) && decide (bits 0x10001#64 0 16 ≠ (s.ledgerAt 3 1).epoch.toNat)),
   decide (((ledgerSvc 2 .accepted).ledgerAt 3 1).st ≠ .released),
   (let s := ledgerSvc 2 .released
    reeve.devctl && s.stop == .running && s.io.ledgerErr == [] && s.linkExists (plOf 0 0) && s.linkChans (plOf 0 0) == [3] &&
      s.ledgerOf 3 (fun e => e.st == .accepted || e.st == .released) == [(1, entryOf 2 .released)] &&
      !(entryOf 2 .released).halt)]

theorem witness_endings : allOf wEndings = true := by decide +kernel

def withLink (s : State) (p : Perst) : State :=
  (s.setFlag (Reg.cpLstat 0) 0 false).setLink 0 { Link.reset with perst := p }

def loadOut : DevLoad := { dest := .a, addr := 0x80000000, pa := windowBase, port := 0, link := 0, ltrap := false, answer := none, failed := false }

def onLoad : State := svc.setCore 0 { core0 with devLoad := some loadOut }

def wLinks : List Bool :=
  [(let s := withLink svc .high
    s.mapsOk && s.linkExists 0 && (s.link 0).perst == .high && !s.linkUpBit 0 && s.linkChans 0 == []),
   (let s := (withLink (ledgerSvc 1 .released) .high).setFld Reg.ldgCfg 16 8 2
    s.linkExists 0 && (s.link 0).perst == .high && s.linkChans 0 == [3] && s.portsRun &&
      s.ledgerOf 3 (fun e => e.st == .released) == [(1, entryOf 1 .released)] && s.ledgerOf 3 (fun e => e.st == .accepted) == [] &&
      decide ((entryOf 1 .released).reln.toNat < s.fld Reg.ldgCfg 16 8)),
   ((withLink svc .low).link 0).perst == .low,
   (onLoad.core 0).devLoad == some loadOut && loadOut.dest == .a && (onLoad.core 0).run == .running &&
     (let u := onLoad.setCore 0 { onLoad.core 0 with devLoad := none }
      (u.core 0).run == .running && !u.ltrap (Word.raw 5)),
   [aerTimeout, aerUnsupported, aerAbort].all (fun b =>
     (let u := (onLoad.aer (4 * loadOut.port + loadOut.link) 0x31 6 b).setCore 0
          { (onLoad.aer (4 * loadOut.port + loadOut.link) 0x31 6 b).core 0 with devLoad := none, devHeld := none }
      (u.core 0).run == .running && u.waiting.isNone)),
   ran (.devLoadTimeout 0) onLoad (fun t => (b0 t).a == Word.raw (BitVec.allOnes 64)) &&
     ran (.devLoadCompletion 0 (.data 5)) onLoad (fun t => (b0 t).a == Word.raw 5),
   (let s := onLoad.setCore 0 { onLoad.core 0 with devLoad := some { loadOut with ltrap := true } }
    !(s.core 0).fpx && traps (.devLoadCompletion 0 (.data 5)) s vTagf),
   (let s := onLoad.setCore 0 { onLoad.core 0 with run := .paused }
    ran (.devLoadCompletion 0 (.data 5)) s (fun t =>
      (t.core 0).devLoad == some { loadOut with answer := some (5, false) }))]

theorem witness_links : allOf wLinks = true := by decide +kernel

/-! ### Completion entries, engines, runtime commands, registers -/

/-- What O40 asks of a state. -/
def entryFree (s : State) : Bool :=
  s.mapsOk && quiet s && s.mem.merge == [] && (List.range 16).all (fun p => !s.flag (Reg.dlCtl p) 0)

/-- The entry's line is in the Granary, clean. -/
def entryAtTail (q : QueueId) (tail : Nat) : State :=
  (withGran (queueSvc q true) (0x50000 / 64) false).setReg (queueCqp q) (BitVec.ofNat 64 (tail * 2 ^ 32))

def wEntries : List Bool :=
  q3.flatMap (fun q => [0, 1, 0xFFFFFFF0].map (fun tail =>
    let s := entryAtTail q tail
    entryFree s && isDram (0x50000 + 32 * (tail % 16)) &&
      s.translate (s.qParish q) (ringBase (s.reg (queueCqb q)) + 32 * (s.cqTail q % 2 ^ s.fld (queueCfg q) 16 5)) ==
        (.wb, 0x50000 + 32 * (tail % 16))))

theorem witness_entries : allOf wEntries = true := by decide +kernel

def compJob0 : CompJob :=
  { desc := 0, unit := 3, irq := true, user := 0x77, status := 0, out := 40, indone := 8192, stateid := 0, nsheaf := 1 }

def ciphJob0 (st : BitVec 8) : CiphJob :=
  { cluster := 2, keyop := false, irq := true, user := 0x77, slot := 5, status := st, word1 := 1, word2 := 2,
    zero := (0x20010, 24), staging := 0 }

def comp0 : QueueId := .comp 0
def ciph0 : QueueId := .ciph 0

def compRun : State := (engineSvc comp0).setCompInst 0 { InstState.reset with comp := [compJob0, compJob0], reserved := 2 }

def ciphRun (st : BitVec 8) : State :=
  (engineSvc ciph0).setCiphInst 0 { InstState.reset with ciph := [ciphJob0 st], reserved := 1 }

/-- Two jobs of a cipher instance that may end, and between them one that waits for its staging bytes. -/
def twoJobs : State :=
  let held : CiphJob := { ciphJob0 0 with hold := some (default, default) }
  (engineSvc ciph0).setCiphInst 0 { InstState.reset with ciph := [ciphJob0 0, held, ciphJob0 2], reserved := 3 }

/-- As many completion slots are taken as the ring has. -/
def fullComp : State := (engineSvc comp0).setCompInst 0 { InstState.reset with reserved := 16 }
def fullCiph : State := (engineSvc ciph0).setCiphInst 0 { InstState.reset with reserved := 16 }

def wCompression : List Bool :=
  [compRun.stop == .running && !compRun.pair.lossHold && (compRun.compInst 0).comp == [compJob0, compJob0],
   fullComp.ownerReach owner0 comp0 && fullComp.mapsOk && !fullComp.qRoom comp0,
   (let s := engineSvc comp0
    s.ownerReach owner0 comp0 && s.mapsOk && s.qRoom comp0 && (s.sqTail comp0 + 2 ^ 32 - s.sqHead comp0) % 2 ^ 32 == 1),
   svc.mapsOk && svc.stop == .running]

theorem witness_compression : allOf wCompression = true := by decide +kernel

/-- An ENC at the head of cipher instance 0 waits for entry 0 of compression instance 5; LENC is set. -/
def waitDesc : Word := Word.raw (BitVec.ofNat 64 (1 * 2 ^ 56 + 2 ^ 53 + 2 ^ 52 + 5 * 2 ^ 44))

def ciphWait (owned : Bool) (tail : Nat) : State :=
  let s := (engineSvc ciph0).setReg (queueSqb ciph0) 0x20000#64
  let s := if owned then ((s.setReg (queueCfg (.comp 5)) 0x100040401#64).setReg (queueCqb (.comp 5)) 0x21000#64).setReg
      (queueCqp (.comp 5)) (BitVec.ofNat 64 (tail * 2 ^ 32)) else s
  let m := SMap.set Word.raw0 (SMap.set Word.raw0 s.mem.dram 0x4201 (Word.raw 0x4000000005#64)) 0x4203 (Word.raw 0x8000050000000000#64)
  withData { s with mem := { s.mem with dram := m } } [waitDesc] []

def wCiphers : List Bool :=
  [[0, 2].all (fun st => (ciphRun st).stop == .running && !(ciphRun st).pair.lossHold && endable (ciphRun st) 0 == [(ciphJob0 st, 0)]),
   endable svc 0 == [] && (endable twoJobs 0).length == 2 &&
     (match exec (.cipherJobEnd 0) { svc with stop := .grave } with
      | .next t => t == { svc with stop := .grave }
      | _ => false),
   [ciphWait false 0, ciphWait true 0, ciphWait true 1, ciphWait true 0x80000000].all (fun s =>
     s.stop == .running && s.mapsOk && s.qEnabled ciph0 && s.sqHead ciph0 != s.sqTail ciph0 &&
       !(s.ciphInst 0).wait.ready && waits (s.headDesc ciph0 (masterId 2 0)).2 &&
       headField (s.headDesc ciph0 (masterId 2 0)).2 44 6 == 5 && headField (s.headDesc ciph0 (masterId 2 0)).2 0 32 == 0),
   !((ciphWait false 0).headDesc ciph0 (masterId 2 0)).1.qAssigned (.comp 5),
   (let u := ((ciphWait true 0).headDesc ciph0 (masterId 2 0)).1
    u.qAssigned (.comp 5) && u.qParish (.comp 5) == u.qParish ciph0 && decide (2 ^ 31 ≤ (u.cqTail (.comp 5) + 2 ^ 32 - 0 - 1) % 2 ^ 32)),
   [ciphWait true 1, ciphWait true 0x80000000].all (fun s =>
     let u := (s.headDesc ciph0 (masterId 2 0)).1
     decide ((u.cqTail (.comp 5) + 2 ^ 32 - 0 - 1) % 2 ^ 32 < 2 ^ 31) &&
       !(u.fetchWords (u.qParish (.comp 5)) (ringBase (u.reg (queueCqb (.comp 5))) + 32 * (0 % 2 ^ u.fld (queueCfg (.comp 5)) 16 5))
         { master := masterId 2 0, acc := 0xF, parish := some (u.qParish (.comp 5)) } 4).2.any Word.poisoned),
   fullCiph.ownerReach owner0 ciph0 && fullCiph.mapsOk && !fullCiph.qRoom ciph0,
   (let s := engineSvc ciph0
    s.ownerReach owner0 ciph0 && s.mapsOk && s.qRoom ciph0 && (s.sqTail ciph0 + 2 ^ 32 - s.sqHead ciph0) % 2 ^ 32 == 1)]

theorem witness_ciphers : allOf wCiphers = true := by decide +kernel

/-- ARG of SETW and MOVE: the pool, the index, the parish, the weight. -/
def rcArg (pool index parish weight : Nat) : BitVec 32 :=
  BitVec.ofNat 32 (pool * 2 ^ 24 + index * 2 ^ 16 + parish * 2 ^ 8 + weight)

/-- Cipher instance 0 is empty and quiesced; its slots are 8 to 15, and slot 9 holds a key. -/
def movableSvc : State :=
  let s := (queueSvc ciph0 false).setReg (queueSqp ciph0) 0x200000002#64
  (s.setReg (Reg.cxKey 0) 0x80008#64).setSlot 9 { KeySlot.reset with alg := 1 }

def wRuntime : List Bool :=
  [(let s := svc.setFlag Reg.rcStat 0 true
    reeve.devctl && s.mapsOk && s.flag Reg.rcStat 0),
   (let s := svc.setPhase phRecovery
    s.mapsOk && !s.flag Reg.rcStat 0 && decide (s.phase ≠ phService)),
   svc.badArg 1 (rcArg 3 0 0 5).toNat && svc.badArg 1 (rcArg 1 64 0 5).toNat,
   !svc.badArg 1 (rcArg 0 63 0 5).toNat && !svc.qAssigned (argQueue (rcArg 0 63 0 5).toNat),
   (let s := queueSvc (.comp 63) true
    s.phase == phService && !s.flag Reg.rcStat 0 && !s.badArg 1 (rcArg 0 63 0 255).toNat &&
      s.qAssigned (argQueue (rcArg 0 63 0 255).toNat)),
   !svc.badArg 2 (rcArg 1 0 0 0).toNat && !svc.movable (argQueue (rcArg 1 0 0 0).toNat),
   !movableSvc.badArg 2 (rcArg 1 0 0 0).toNat && movableSvc.movable (argQueue (rcArg 1 0 0 0).toNat) &&
     !movableSvc.partnered && movableSvc.mapsOk && movableSvc.slotOf 0 1 == some 9,
   (let s := pairOf movableSvc
    !s.badArg 2 (rcArg 1 0 0 0).toNat && s.movable (argQueue (rcArg 1 0 0 0).toNat) && s.partnered && s.phase == phService),
   decide (argCore 45 < 46) && !svc.coreValid 45,
   svc.coreValid 0 && decide ((svc.core 0).run ≠ .paused)]

theorem witness_runtime : allOf wRuntime = true := by decide +kernel

def dlRing (k a : Nat) : BitVec 64 := BitVec.ofNat 64 (k * 2 ^ 48 + a)

def wLogs : List Bool :=
  [svc.mapsOk && reeve.devctl,
   [dlRing 10 0x20000, dlRing 20 0x800000].all (fun v => decide (10 ≤ bits v 48 5 ∧ bits v 48 5 ≤ 20 ∧
     bits v 7 41 * 0x80 % (8 * 2 ^ bits v 48 5) = 0) && svc.spanIn 0 (bits v 7 41 * 0x80) (8 * 2 ^ bits v 48 5) isNormal),
   decide (bits (dlRing 9 0) 48 5 < 10) && decide (20 < bits (dlRing 21 0) 48 5) &&
     decide (bits (dlRing 10 0x80) 7 41 * 0x80 % (8 * 2 ^ 10) ≠ 0) &&
     !svc.spanIn 0 (bits (dlRing 10 0x40000000) 7 41 * 0x80) (8 * 2 ^ 10) isNormal,
   (let s := (svc.setReg (Reg.dlRing 0) (dlRing 10 0x20000)).setReg (Reg.dlPtr 0) 0x40000000000#64
    tailOk (s.fld (Reg.dlPtr 0) 32 32) 0 (2 ^ s.fld (Reg.dlRing 0) 48 5) && tailOk (s.fld (Reg.dlPtr 0) 32 32) 1024 1024 &&
      !tailOk (s.fld (Reg.dlPtr 0) 32 32) 1025 1024 && !tailOk 1025 0 1024),
   svc.spanIn 0 (bits 0x20#64 0 36 * 0x1000) (bits 0x20#64 36 27 + 1) (· == .wb) &&
     !svc.spanIn 0 (bits 0x40000#64 0 36 * 0x1000) (bits 0x40000#64 36 27 + 1) (· == .wb),
   [dlRing 4 0x26000, dlRing 16 0x100000].all (fun v => decide (4 ≤ bits v 48 5 ∧ bits v 48 5 ≤ 16 ∧
     bits v 7 41 * 0x80 % (8 * 2 ^ bits v 48 5) = 0) && svc.spanIn 0 (bits v 7 41 * 0x80) (8 * 2 ^ bits v 48 5) (· == .wb)),
   decide (bits (dlRing 3 0) 48 5 < 4) && decide (16 < bits (dlRing 17 0) 48 5) &&
     decide (bits (dlRing 5 0x80) 7 41 * 0x80 % (8 * 2 ^ 5) ≠ 0) &&
     !svc.spanIn 0 (bits (dlRing 4 0x40000000) 7 41 * 0x80) (8 * 2 ^ 4) (· == .wb),
   (let s := (svc.setReg (Reg.gcClog 0) (dlRing 4 0x26000)).setReg (Reg.gcClogp 0) 0x1000000000#64
    tailOk (s.fld (Reg.gcClogp 0) 32 32) 16 (s.cardCap 0) && !tailOk (s.fld (Reg.gcClogp 0) 32 32) 17 (s.cardCap 0))]

theorem witness_logs : allOf wLogs = true := by decide +kernel

def wEventsAndTags : List Bool :=
  [svc.mapsOk && owner0.parish == 0,
   decide (bit 0x1F000#64 16 ∧ (svc.flag (Reg.parCfg (bits 0x1F000#64 12 4)) 0 = false)),
   decide (bit 0x10040#64 16 ∧ (svc.flag (Reg.parCores 0) (bits 0x10040#64 6 6) = false)),
   decide (bit 0x10005#64 16 ∧ svc.flag (Reg.parCfg (bits 0x10005#64 12 4)) 0 = true ∧
     svc.flag (Reg.parCores (bits 0x10005#64 12 4)) (bits 0x10005#64 6 6) = true),
   [phService, phStartup].all (fun ph => (let s := (svc.setReg Reg.fcStat 0x88#64).setFld (Reg.fcInfo 3) 54 2 ph
     s.mapsOk && s.phase == phService && (s.fld (Reg.fcInfo 3) 54 2 == ph)))]

theorem witness_events_and_tags : allOf wEventsAndTags = true := by decide +kernel

def wRegisters : List Bool :=
  [q3.all (fun q => !(queueSvc q true).ownerReach { owner0 with parish := 1 } q && !svc.ownerReach reeve q),
   guest.devctl == false && decide (guest.parish ≠ 0),
   svc.mapsOk && (regRowAt 0x20).isNone && (regRowAt 0xFFFFFF8).isNone,
   (match regRowAt Reg.glnCtl with
    | some (r, i, _) => !svc.canWrite guest r i && svc.canWrite reeve r i && r.act == .plain
    | none => false),
   (match regRowAt Reg.pwrStat with
    | some (r, i, _) => svc.canWrite reeve r i && r.act == .plain && r.rw == 0#64
    | none => false)]

theorem witness_registers : allOf wRegisters = true := by decide +kernel

/-! ### Observation, the test access port -/

def wMonitors : List Bool :=
  [svc.mapsOk && svc.pins.vaux && svc.pins.resetN && !svc.pins.thermtrip && !svc.paired,
   (let t := List.replicate 64 (BitVec.ofNat 16 (16 * 114))
    t.length == 64 && t.all (fun v => decide (v.toInt < 16 * 115))),
   (let t := List.replicate 63 (BitVec.ofInt 16 (-400)) ++ [BitVec.ofNat 16 (16 * 115)]
    t.length == 64 && t.any (fun v => decide (16 * 115 ≤ v.toInt))),
   (let s := { svc with freshV := false, vOut := 0x600001#24, pins := { svc.pins with vin := true } }.setFld Reg.imgStat 4 3 7
    let mv : List (BitVec 16) := [759] ++ List.replicate 20 (800 : BitVec 16) ++ [1891, 841, 12000]
    s.mapsOk && s.pins.vaux && mv.length == 24 && !s.freshV && decide (0x4A#8 ∉ s.levels) &&
      [0, 21, 22].all (fun n => s.railSpan n && s.vOut.getLsbD n &&
        decide ((mv.getD n 0).toNat < (railRange n).1 ∨ (railRange n).2 < (mv.getD n 0).toNat))),
   (List.replicate 16 (77 : BitVec 24)).length == 16]

theorem witness_monitors : allOf wMonitors = true := by decide +kernel

/-- Lane 2 is on. -/
def tracing : State := { svc with tsRun := true, ts := 9 }.setFld Reg.trcCtl 4 4 4

def wTrace : List Bool :=
  [tracing.laneOn 2 && !tracing.laneOn 1 && tracing.trace.lastSync.find 2 == none,
   (let s := { tracing with trace := { Trace.reset with lastSync := [(2, 3)] } }
    s.laneOn 2 && s.trace.lastSync.find 2 == some 3 && s.trace.buf == []),
   (let s := { tracing with trace := { Trace.reset with lastSync := [(2, 3)], buf := [[1#64, 2#64], [3#64]] } }
    s.laneOn 2 && s.trace.lastSync.find 2 == some 3 && s.trace.buf == [[1#64, 2#64], [3#64]]),
   svc.pins.vaux && svc.pins.resetN && Reg.monT 3 % 8 == 0 && (regRowAt (Reg.monT 3)).isSome && i3cAlways (Reg.monT 3),
   (let s := { svc with pins := { svc.pins with vin := true } }.setFld Reg.imgStat 4 3 7
    (regRowAt (Reg.talCnt 5)).isSome && i3cPowered (Reg.talCnt 5) && !i3cAlways (Reg.talCnt 5) && s.pins.vin && decide (2 ≤ s.step?)),
   decide (3 % 8 ≠ 0) && (regRowAt 0x20).isNone && !i3cAlways (Reg.talCnt 5) && !svc.pins.vin && !i3cPowered (Reg.rcStat),
   !{ svc with pins := { svc.pins with resetN := false } }.pins.resetN,
   (let s := tracing.setReg Reg.dioIen 0x80000000#64
    s.mapsOk && s.tsRun && s.flag Reg.dioIen 31 && !s.flag Reg.dioIn 31 && !s.flag Reg.dioIen 0),
   [0, 5].all (fun k => (BitVec.ofNat 28 (Reg.evPend k)).toNat == Reg.evPend k),
   [0, 383].all (fun k => (BitVec.ofNat 28 (Reg.evRoute k)).toNat == Reg.evRoute k)]

theorem witness_trace : allOf wTrace = true := by decide +kernel

def inTest (st : TapSt) (ir : BitVec 4) (ones : Nat) : State :=
  let s := svc.setPhase phTest
  { s with tap := { s.tap with st := st, ir := ir, ones := ones, bsr := 5, irShift := 2 } }

def wTap : List Bool :=
  [(inTest .shDr 0 0).tapOn && (inTest .shDr 0 0).tap.scans && !(inTest .shDr 0xF 0).tap.scans,
   (inTest .ex1Dr 1 3).tapOn && (inTest .ex1Dr 1 3).tap.scans && decide ((inTest .ex1Dr 1 3).tap.ones < 4),
   (inTest .ex1Ir 0xF 0).tapOn, decide (4 ≤ (inTest .selIr 0 4).tap.ones), !svc.tapOn]

theorem witness_tap : allOf wTap = true := by decide +kernel

/-! ### The pair -/

def hdr0 : FrameHdr := { fseq := 0, ackseq := 0xFFF, nak := false }

/-- In a pair, the supply and the link up, with this role, what it knows of its partner, and the partner's phase. -/
def inPair (s : State) (role partner phase : Nat) : State :=
  ({ s with pins := { s.pins with vin := true } }.setFlag Reg.pairCfg 0 true).setReg Reg.pairStat (BitVec.ofNat 64 (role + 8 + partner * 16 + phase * 64))

def frame (k : BitVec 12) : Frame := { fseq := k, body := .leave, time := 0 }

def sent3 : State :=
  let s := inPair svc 1 1 1
  { s with pair := { s.pair with tx := [frame 4, frame 5, frame 6] } }

def wFrames : List Bool :=
  [(inPair svc 1 1 1).linked && decide ((0x7FF : BitVec 12) ≠ (inPair svc 1 1 1).pair.rxNext),
   sent3.linked && sent3.mapsOk && hdr0.fseq == sent3.pair.rxNext && sent3.pair.tx == [frame 4] ++ frame 5 :: [frame 6] &&
     [frame 4].all (fun g => g.fseq != 5) && sent3.pair.movePend.isNone && sent3.pair.queue == [] && !hdr0.more,
   { hdr0 with more := true }.more,
   !svc.linked]

theorem witness_frames : allOf wFrames = true := by decide +kernel

def standby (ph : Nat) : State := (inPair svc 2 1 1).setPhase ph

def wStandby : List Bool :=
  [phService, phRecovery].map (fun ph => (standby ph).mapsOk && (standby ph).linked && hdr0.fseq == (standby ph).pair.rxNext &&
    (standby ph).role == 2 && (standby ph).phase == ph && (standby ph).partnered && noLogs (standby ph) && (standby ph).mem.mends == [] &&
    (argQueue (rcArg 2 3 0 0).toNat == .chan 3))

theorem witness_standby : allOf wStandby = true := by decide +kernel

/-- Step `k` of START-UP, the supplies good. -/
def starting (k : Nat) : State :=
  { State.reset with
    pins := { State.reset.pins with vin := true, pwrgood := true }
    start := { Startup.reset with s0Ended := true, pllLocked := decide (2 ≤ k), accepted := decide (3 ≤ k) } }.setStep k

/-- In a pair, S4 ended. -/
def startingPair (role partner : Nat) : State :=
  let s := inPair (starting 4) role partner 0
  { s with start := { s.start with s4Done := true } }

def helloOf (strap : Bool) : HelloInfo :=
  { dig := 0, krid := 0, step := 0x4B31, die := 7, strap := strap, phase := 0, s4done := true, role := none }

def wHandshake : List Bool :=
  [(let s := startingPair 0 0
    s.mapsOk && s.linked && hdr0.fseq == s.pair.rxNext && s.helloOk (helloOf true) && !s.pair.settled && s.inStep 4 &&
      s.start.s4Done && s.pair.movePend.isNone && s.stop == .running &&
      helloRole s.pins.pairRole s.rom.dieId (helloOf true) == some (2, false) &&
      helloRole s.pins.pairRole s.rom.dieId (helloOf false) == some (1, true) &&
      !s.helloOk { helloOf true with krid := 1 } && s.paired && !s.pair.absent && !s.partnered),
   (let s := { startingPair 0 0 with pins := { (startingPair 0 0).pins with pairRole := true } }
    s.mapsOk && s.paired && s.inStep 4 && s.start.s4Done && !s.pair.settled && !s.pair.absent && !s.partnered && s.pins.pairRole),
   (let s := { inPair svc 2 1 1 with tsRun := true }
    s.linked && s.tsRun && s.stop == .running && s.role != 1 && s.mapsOk && hdr0.fseq == s.pair.rxNext && !s.inStep 4 &&
      decide (s.pair.tx.length < 2048) && s.pair.queue.isEmpty),
   (let s := { inPair svc 2 1 1 with pair := { Pair.reset with queue := [{ frame 0 with body := .hb 0 0 0 0 }] } }
    s.linked && s.pair.queue.any (fun f => f.body.ahead)),
   [true, false].all (fun a => (let s := { (startingPair 1 1).setStep 5 with
        pins := { (startingPair 1 1).pins with actIn := a }, pair := { Pair.reset with claiming := true } }
     s.mapsOk && s.inStep 5 && s.pair.claiming && s.pins.actIn == a)),
   (let s := { startingPair 1 1 with pair := { Pair.reset with waitAct := true } }
    s.mapsOk && s.pair.waitAct && s.inStep 4 && s.role == 1)]

theorem witness_handshake : allOf wHandshake = true := by decide +kernel

/-- A taken-over module whose image has parish 0, mirrored. -/
def taking : State :=
  let s := (inPair svc 1 0 1).setFlag (Reg.parCfg 0) 2 true
  { s with pair := { s.pair with takeT0 := some 0 },
           image := [{ ty := 3, index := 0, words := [7, 1, 0, 0, 0, 0, 0, 0, 0x10000, 0x10000] }] }

def copying (c : CopyStage) : State :=
  let s := inPair svc 1 1 phRecovery
  { s with pair := { s.pair with copy := c } }

def wLoss : List Bool :=
  [(let s := inPair svc 1 1 1
    s.mapsOk && s.partnered && s.mem.mends == [] && !s.escalated 0x42 && s.role == 1 && !s.pair.switching &&
      s.fld Reg.pairStat 6 2 == phService && s.phase == phService && s.stop == .running),
   (let s := inPair svc 2 1 1
    s.mapsOk && s.partnered && s.mem.mends == [] && !s.escalated 0x42 && s.role == 2 && s.linked && hdr0.fseq == s.pair.rxNext),
   !svc.partnered && !svc.linked && svc.pair.hbRx.isNone && svc.waiting.isNone,
   (let s := { inPair svc 1 0 1 with pair := { Pair.reset with hbRx := some 5 } }
    s.mapsOk && !s.partnered && decide (s.fld Reg.pairStat 4 2 ≠ 2) && !s.pair.switching &&
      (match exec .partnerLost s with
       | .next t => t.fld Reg.pairStat 4 2 == 2 && t.flag Reg.pairStat 12
       | _ => false)),
   (let s := { inPair svc 1 1 1 with pair := { Pair.reset with switching := true } }
    s.partnered && s.role == 1 && s.pair.switching && s.stop == .running && s.mem.mends == [] && !s.escalated 0x42),
   (let s := { svc with pair := { Pair.reset with lossHold := true } }
    s.pair.lossHold && !s.pins.actIn && s.stop == .running),
   (let s := { inPair svc 1 1 1 with pins := { svc.pins with actOut := some true } }
    s.mapsOk && !s.pins.actIn && s.paired && s.role == 1 && s.phase == phService && s.stop == .running && s.pins.actOut == some true),
   taking.mapsOk && taking.io.ledgerErr == [] && taking.pair.takeT0.isSome && taking.stop == .running && validParishes taking.image == [0] &&
     taking.mirrored 0 && taking.flag (Reg.parCores 0) 0 && taking.coreValid 0,
   reeve.devctl && decide ((inPair svc 2 1 1).role ≠ 1),
   (let s := { inPair svc 1 1 1 with pair := { Pair.reset with switching := true } }
    s.mapsOk && s.linked && s.partnered && s.role == 1 && s.pair.switching && frames s == [] && s.stop == .running),
   (copying .ledger).pair.copyPos == 0 && { (copying .ledger).pair with copyPos := 256 }.copyPos == 256,
   { inPair svc 1 1 1 with pair := { Pair.reset with queue := [frame 0] } }.copyRoom == false,
   [CopyStage.idle, .ledger, .capt, .tat, .dram].all (fun c => (copying c).mapsOk && (copying c).partnered && (copying c).role == 1 &&
     (copying c).phase == phService && (copying c).stop == .running && (copying c).fld Reg.pairStat 6 2 == phRecovery &&
     (copying c).pair.copy == c && decide ((copying c).mirroredGranules.length ≤ (copying c).pair.copyPos / 2 ^ 14 / 1024) && (copying c).io.ledgerErr == [])]

theorem witness_loss : allOf wLoss = true := by decide +kernel

/-! ### Resets, supplies, start-up, the machine -/

def powered : State := { svc with pins := { svc.pins with vin := true, pwrgood := true } }

def flushing : State :=
  let s := withGran svc 0x800 true
  { s with flushT0 := some 0, ts := 6000, mem := { s.mem with granDirty := [0x800] } }

def wSupplies : List Bool :=
  [svc.mapsOk && svc.pins.vaux && svc.pins.resetN,
   !{ svc with pins := { svc.pins with resetN := false } }.pins.resetN,
   !{ svc with pins := { svc.pins with vaux := false } }.pins.vaux && !svc.pins.testmode,
   !svc.pins.pwrgood,
   powered.mapsOk && powered.pins.vin && powered.phase == phService && powered.stop == .running && !powered.pins.powerfail &&
     !powered.escalated 0x4C,
   (let s := inPair powered 1 1 1
    s.mapsOk && s.role == 1 && s.partnered && s.pins.vin && s.phase == phService && !s.pins.powerfail),
   (starting 3).start.pllLocked && !svc.start.pllLocked,
   flushing.mapsOk && flushing.flushT0 == some 0 && flushing.mem.granDirty == [0x800] && (flushing.mem.gran.find 0x800).isSome,
   (let s := { inPair powered 1 1 1 with pins := { powered.pins with powerfail := true }, pair := { Pair.reset with switching := true } }
    s.pins.powerfail && s.pair.switching)]

theorem witness_supplies : allOf wSupplies = true := by decide +kernel

/-- One parish of one core, and a DIMM of 16 GiB on channel 0. -/
def image1 : List Rec :=
  [{ ty := 3, index := 0, words := [3, 1, 0, 0x1000, 16, 1, 0, 0, 0x10000, 0x10000] },
   { ty := 0x0E, index := 0, words := [16] }]

def env1 : S3Env := { badCores := [], refusedRows := [], capacity := [16], failed := false, welien := true }

def startingImage (k : Nat) : State := { starting k with image := image1 }

/-- Parish 0 and logical core 0 as the image gives them. -/
def last5 : State := ((startingImage 5).setReg (Reg.parCores 0) 1#64).setReg (Reg.lcoreMap 0) 0x80#64

def wStart : List Bool :=
  [(let s := { (starting 0) with start := Startup.reset }
    s.mapsOk && s.pins.vaux && s.phase == phStartup && !s.start.s0Ended && s.pins.resetN && s.pins.vin && s.pins.pwrgood &&
      !s.pins.powerfail && !s.pins.thermtrip && !s.start.waitPwr && s.stop == .running && !s.flag Reg.fcStat 3 && s.step? == 0),
   (starting 1).mapsOk && (starting 1).inStep 1 && (starting 1).pins.bootsel == 0 &&
     decide ((examine (starting 1).rom none).reason ≠ 0),
   (startingImage 3).mapsOk && (startingImage 3).inStep 3 && (startingImage 3).start.accepted &&
     { env1 with failed := true }.failed && !env1.failed && env1.badCores == [] && env1.welien &&
     (List.range 12).all (fun c => env1.capacity.getD c 0 == dimmGiB (startingImage 3).image c),
   (startingImage 4).mapsOk && (startingImage 4).inStep 4 && !(startingImage 4).start.s4Done,
   !last5.paired && last5.mapsOk && last5.inStep 5 && validParishes last5.image == [0] && last5.flag (Reg.parCores 0) 0 && last5.coreValid 0,
   (let s := startingPair 1 1
    s.mapsOk && s.paired && s.inStep 4 && s.start.s4Done && s.role == 1 && !s.pins.actIn)]

theorem witness_start : allOf wStart = true := by decide +kernel

def fault0 (src : Nat) : FaultArg := { src := src, acc := 0xF, master := 0x400, parish := none, pa := some 0x20000, synd := 0 }

def wMachine : List Bool :=
  [svc.pending == [] && svc.coh.late == [], { svc with tsRun := true }.tsRun && !State.reset.runnable 0,
   svc.runnable 0 && (svc.fetchFault 0).isNone && svc.wordAtPc 0 == 0 && (decodeWord 0 (svc.wordAtPc 0)).isNone,
   (let s := { svc with mem := { svc.mem with dram := SMap.set Word.raw0 dram0 0x2000 (Word.raw 0xFE028000#64) } }
    (s.fetchFault 0).isNone && decodeWord 0 (s.wordAtPc 0) == some (.fsync 0 xn) &&
      (match exec (.fsync 0 xn) s with
       | .next t => t == s.runAtPc 0
       | _ => false)),
   [[(1, 1#8)], ue3].all (fun e => (let s := svc.burstFlip (0x10000 / 64) e
     s.runnable 0 && (s.boundary 0 true).isNone && (s.boundary 0 false).isNone && (s.fetchMeet 0).waiting.isNone && s.fetchMeet 0 != s)),
   (svc.burstFlip (0x10000 / 64) [(1, 1#8)]).fetchMeet 0 |>.fetchFault 0 |>.isNone,
   [(0x20, 0), (0x21, 1), (0x12, 2), (0x51, 3)].all (fun r => srcClass (fault0 r.1).src == r.2 && !svc.escalated r.1 &&
     !svc.flag Reg.fcStat r.2 && (svc.setFlag Reg.fcStat r.2 true).flag Reg.fcStat r.2) &&
     decide (svc.phase ≠ phStartup) && !svc.paired && svc.role == 0,
   (match step { svc with pending := [.evDoor owner0 3 0] } with
    | .next t => t.mapsOk
    | _ => false)]

theorem witness_machine : allOf wMachine = true := by decide +kernel


/-! ### Instructions that complete, step by step: what the statements conclude is reached -/

def wArithmeticRuns : List Bool :=
  [[Instr.add, .sub, .mul, .cmp, .rem, .div, .addm, .subm, .mulm, .divm, .and, .or, .xor].all (fun f =>
     retires (f 0 (pf 3 3)) (withA0 (Word.fix 7))),
   [Instr.shl, .shr, .sar, .rol].all (fun f => retires (f 0 (pf 3 64)) (withA0 (Word.raw 5))),
   [Instr.neg, .negm, .not].all (fun f => retires (f 0 xn) (withA0 (Word.fix 7))),
   [Instr.fsqrt, .fsync].all (fun f => retires (f 0 xn) fltState), retires (.fma 0 (pf 0 0)) fltState,
   [1, 2, 3].all (fun k => retires (.fcvt 0 (xr 0 k)) fltState), retires (.fcvt 0 (xr 0 0)) (withA0 (Word.fix 7)),
   traps (.div 0 (pf 3 0)) (withA0 (Word.fix 7)) vDz, traps (.add 0 (pf 3 1)) (withA0 (Word.fix fixMax)) vOvf,
   traps (.shl 0 (pf 3 0xFFFF)) (withA0 (Word.fix 7)) vShc]

def wMemoryRuns : List Bool :=
  [[Instr.lda, .ldx, .ldy, .tag, .ldb].all (fun f => retires (f 0 (pf 0 0)) loads), retires (.cld 0 (pcld 3 3)) loads,
   [Instr.sta, .stx, .sty, .stb, .sett].all (fun f => retires (f 0 (pf (if f 0 (pf 0 0) = .sett 0 (pf 0 0) then 3 else 0) 1))
     (storing (Word.raw 0xAB))),
   [Instr.lda, .sta].all (fun f => retires (f 0 (pdev 0)) devSvc),
   [Instr.car, .cdr].all (fun f => retires (f 0 (xr 0 0)) celling), retires (.alc 0 (xr 0 8)) (withData (withA0 (Word.fix 0x20)) [] [consTat]),
   [Instr.rpla, .rpld, .cons].all (fun f => retires (f 0 (pf 0 0)) replacing),
   [Instr.ldr, .stc, .xadd, .xchg, .cas].all (fun f => retires (f 0 (pf 0 0)) reserved),
   [Instr.fnsl, .fnnt, .fnio, .fnal].all (fun f => retires (f 0 xn) svc),
   ran (.idle 0 xn) svc (fun t => (t.core 0).run == .idle), ran (.idleWake 0) waking (fun t => (t.core 0).run == .running)]

def wCapabilityRuns : List Bool :=
  [retires (.cder 0 (xr 0 6)) (caps request), retires (.cseal 0 (xr 2 0)) (caps request), retires (.cuns 0 (xr 2 5)) (caps request),
   retires (.crev 0 (xr 5 0)) (caps request), ran (.ccall 0 (xr 3 0)) (caps request) (fun t => (b0 t).pc == 0x11000),
   ran (.cret 0 xn) (caps request) (fun t => (b0 t).pc == 0x10004),
   retires (.svbk 0 xn) (handling true false core0.vb),
   ran (.rarm 0 xn) (handling true false core0.vb) (fun t => !(t.core 0).sb && (t.core 0).em),
   traps (.rarm 0 xn) svc vIll, traps (.svbk 0 xn) svc vIll,
   [recorded, handling true false core0.vb].all (fun s => ran (.rte 0 xn) s (fun t => (b0 t).pc == 0x10000 && !(t.core 0).sb)),
   retires (.crd 0 (xr 0 2)) svc, retires (.cwr 0 (xr 0 10)) (withA0 (Word.fix 8)), retires (.ttst 0 (xr 0 4)) svc,
   ran (.br 0 (pf 0 4)) svc (fun t => (b0 t).pc == 0x10010), ran (.brl 0 (pf 0 4)) svc (fun t => (b0 t).y == Word.fix 0x10004),
   ran (.ret 0 xn) (axy Word.raw0 (Word.fix 0) (Word.fix 0x10020)) (fun t => (b0 t).pc == 0x10020),
   traps (.br 0 (pf 0 0x1000)) svc vCapf, retires (.lpb 0 (pf 0 1)) (withA0 (Word.fix 2)),
   traps (.lpb 0 (pf 0 0)) (withA0 (Word.fix 2)) vLoopf]

def wLongRuns : List Bool :=
  [[Instr.movb, .cmpb].all (fun f => retires (f 0 (xr 0 1)) movingReg), retires (.scnt 0 (xr 0 1)) movingReg,
   retires (.find 0 (xm 0 0)) (withA0 Word.nil),
   [Instr.cwb, .cinv, .cwbi].all (fun f => [(holding .m), movingReg].all (fun s => retires (f 0 (xm 0 0)) s)),
   [Instr.cwb, .cinv, .cwbi].all (fun f => retires (f 0 (xm 0 8)) (cachingState Word.raw0 (Word.fix 3))),
   [Instr.cwbR, .cinvR, .cwbiR].all (fun f => retires (f 0 (xr 0 0)) (holding .m)),
   [Instr.cwbR, .cinvR, .cwbiR].all (fun f => retires (f 0 (xr 0 0)) (cachingState (Word.fix 0x1000) (Word.fix 0))),
   retires (.lockf 0 (xm 0 8)) (cachingState Word.raw0 (Word.fix 3)),
   ran (.divideDone 0) dividing (fun t => (b0 t).a == Word.fix 3), ran (.boundaryEventTake 0 false)
     ((waking.setCore 0 { core0 with run := .running }).setCur 0 bank0) (fun t => (b0 t).pc == 0x12400),
   traps (.microwordLimit 0) (svc.setCore 0 { core0 with atLimit := true }) vUcode,
   [0, 2].all (fun k => ran (.retry 0 3 ⟨false, .none, 0⟩) (retried k) (fun t => (t.core 0).attempts == k + 1)),
   ran (.retry 0 3 ⟨false, .none, 0⟩) (retried 3) (fun t => (t.core 0).run == .paused),
   ran (.retryRateThreshold 0) ((retried 0).setReg (Reg.rtyCfg 0) 1#64) (fun t => (t.core 0).run == .paused),
   ran (.controlStoreReload 0 5 true true) svc (fun t => t.fld (Reg.ucsStat 0) 0 14 == 5),
   ran (.transplant 0 true [] []) paused (fun t => (t.core 0).target == some 40),
   ran (.transplant 0 false [] []) paused (fun t => (t.core 0).target.isNone),
   ran (.transplantResume 0) (paused.setCore 0 { core0 with run := .paused, target := some 40 }) (fun t => t.physOf 0 == 40),
   ran (.cctlEn reeve 0 0) (holding .m) (fun t => t.flag (Reg.cctl 0) 1), ran (.cctlUnlk reeve 0) (holding .m) (fun _ => true),
   ran (.cacheSweepDone 0) ((holding .m).setFlag (Reg.cctl 0) 1 true) (fun t => !t.flag (Reg.cctl 0) 1 && (t.physCore 0).l2 == [])]

theorem witness_arithmetic_runs : allOf wArithmeticRuns = true := by decide +kernel
theorem witness_memory_runs : allOf wMemoryRuns = true := by decide +kernel
theorem witness_capability_runs : allOf wCapabilityRuns = true := by decide +kernel
theorem witness_long_runs : allOf wLongRuns = true := by decide +kernel

/-! ### Caches, fabric, stored data: what the statements ask for, and what the commands do -/

/-- Command `c` answers a state in which nothing has to wait, and it passes `p`. -/
def done (c : Instr) (s : State) (p : State → Bool) : Bool := ran c s (fun t => t.waiting.isNone && p t)

/-- An open transaction that home has answered. -/
def txnOf (r : Req) : Txn := { req := r, way := none, await := [], wbp := [], got := [], victim := none, answered := true }

def wCacheMore : List Bool :=
  [(let s := cachingState (Word.fix 0x40) (Word.fix 3)
    issues s 0 false (illXR (xr 0 0) 0 true) always && (b0 (s.settleDiv 0)).a == Word.fixNat 0x40 &&
      okThen (checkM 0 0 (fun base => (base : Int) + 8 * (b0 (s.settleDiv 0)).x.int) 0x40 1 1 false .noDev) (s.settleDiv 0)
        (fun _ u => u == s.settleDiv 0)),
   (let s := cachingState Word.raw0 (Word.fix 3)
    issues s 0 false (illXM (xm 0 8) || (xm 0 8).mode == 2) always && (b0 (s.settleDiv 0)).y == Word.fixNat 3 &&
      okThen (lineSite 0 (xm 0 8) .wbOnly) (s.settleDiv 0) (fun _ u => u == s.settleDiv 0)),
   (holding .m).mapsOk && ((holding .m).physCore 0).l2.find 0x800 == some (line0 .m),
   paused.failing 0 && ran (.cctlUnlk reeve 0) paused (fun t => t == paused) && !(holding .m).failing 0,
   !(holding .m).flag (Reg.cctl 0) 1 && (let s := (holding .m).setFlag (Reg.cctl 0) 0 false
    !s.flag (Reg.cctl 0) 0 && !s.flag (Reg.cctl 0) 1 && done (.cctlEn reeve 0 1) s (fun t => (t.physCore 0).l2 == [])),
   [1, 2].all (fun d => (retried 0).waiting.isNone && !((retried 0).core 0).thrHit && done (.retry 0 (BitVec.ofNat 4 d) ⟨false, .l1 0x800, 0⟩)
     (retried 0) (fun t => (t.core 0).attempts == 1)),
   (let s := svc.setCore 0 { core0 with thrHit := true, attempts := 1 }
    s.active 0 && done (.retry 0 3 ⟨false, .none, 0⟩) s (fun t => (t.core 0).run == .paused && t.flag (Reg.rtyStat 0) 25)),
   (let s := ((retried 0).setReg (Reg.rtyCfg 0) 1#64).setCore 0 { (retried 1).core 0 with attempts := 1 }
    s.active 0 && decide ((s.core 0).attempts ≠ 0 ∧ s.fld (Reg.rtyCfg (s.physOf 0)) 0 16 ≤ (s.recentRetries 0).length)),
   svc.waiting.isNone && svc.mem.sramErr == [] && !(svc.physCore 0).badU.contains 5,
   (let v := (((paused.drainAll 0).evacuate 0 []).setFlag (Reg.cctl (paused.physOf 0)) 1 false)
    v.storeMatches 40 && decide (40 ∉ ([] : List PCore).map (·.val)) && v.targets 0 == [40]),
   (let s := (svc.setCore 0 { core0 with run := .paused })
    (((s.drainAll 0).evacuate 0 []).setFlag (Reg.cctl (s.physOf 0)) 1 false).targets 0 == [] &&
      done (.transplant 0 true [] []) s (fun t => (t.core 0).run != .running)),
   (let s := { streaming with coh := { Coh.reset with txns := [(0x808, txnOf { rds0 with line := 0x808 })] } }
    [0x804, 0x808].any (fun l => s.lineBusy l) && done (.corePrefetch 0 0x10000) s (fun _ => true))]

/-- The Commons entry `cn`, word `w`, as a physical word number. -/
def cmnKey (cn w : Nat) : Nat := commonsBase / 8 + cn * 2 ^ 20 + w

/-- `on0` with word 5 of Commons 0 written. -/
def written5 : State := { gleaning with mem := gleaning.mem.setCmn (cmnKey 0 5) (Word.fix 9) }

/-- `on0` with 96 requests that wait at the slice of line 0x800. -/
def fullQueue : State := { on0 with coh := { on0.coh with retryQ := List.replicate 96 rds0 } }

def wFabricMore : List Bool :=
  [on0.waiting.isNone && !(on0.burstFlip 0x800 []).queueFull 0x800 && fullQueue.queueFull 0x800 && on0.readsAtHome 0x300 0x800 && ((on0.burstFlip 0x800 []).l2Room 0 0x800).2.isSome,
   done (.rds 0 0x800 []) on0 (fun t => t.coh.msgs.any (fun m => m.kind.isData && m.line == 0x800)),
   done (.rdo 0 0x800 []) on0 (fun t => t.coh.msgs.any (fun m => m.kind.isData && m.line == 0x800)),
   done (.upg 0 0x800) (holding .s) (fun t => t.coh.msgs != []),
   on0.mayAccess 0x300 && done (.rdh 0x300 0x800 3 []) on0 (fun t => t.coh.msgs.any (fun m => m.kind.isData)),
   isCommons (8 * cmnKey 0 5) && done (.rdh 0x300 (BitVec.ofNat 46 (cmnKey 0 0 / 8)) 3 []) on0
     (fun t => t.coh.msgs.any (fun m => m.kind.isData)),
   on0.sender 0 == some 0 && on0.atmAtHome 0 0 (0x20000 / 64) == on0.atmAtHome 0 0 0x800,
   (let s := { written5 with mem := written5.mem }
    match (s.drainMerge (cmnKey 0 5)).cmnRead (cmnKey 0 5) { master := 0, acc := 3, parish := some (s.parishOf 0) } with
    | (_, w) => w == Word.fix 9 && done (.atm 0 .xadd ⟨BitVec.ofNat 52 (8 * cmnKey 0 5), []⟩ (Word.fix 1) Word.raw0) s
        (fun t => t.mem.cmnWord (cmnKey 0 5) == Word.fix 10)),
   (withDimm on0).fabricOn && decide (64 * 0x800 < (withDimm on0).dramEnd) && done (.pfg 0x800 []) ((withDimm on0).setFld (Reg.grnWays (sliceOf (64 * 0x800)) 0) 0 24 1)
     (fun t => (t.mem.gran.find 0x800).isSome),
   (on0.l2Room 0 0x800).1 == on0 && (on0.l2Room 0 0x800).2.isSome && !on0.flag Reg.trcCtl 13,
   (let s := inFlight (holding .s) .snpI
    !wbkComing { s with coh := { s.coh with msgs := [] } } 0 (msg0 .snpI) && s.waiting.isNone && s.mem.sramErr == []),
   (let s := (inFlight on0 (.data .e (line0 .e).data)).setPhys 0 { on0.physCore 0 with fills := [(0x800, 3)] }
    s.takesFills 0 && (s.physCore 0).fills.find 0x800 == some 3 && s.coh.wbks == [] && s.coh.late == [] &&
      done (.data 0 0x800) s (fun t => ((t.physCore 0).l2.find 0x800).isSome)),
   (holding .s).takesFills 0,
   (let e : StoreEntry := { path := .wrh, word := 0x4000, data := .word (Word.fix 1), card := none }
    let s := (inFlight on0 (.ack false none)).setCore 0 { core0 with sq := [e] }
    let s := { s with coh := { s.coh with txns := [(0x800, txnOf { kind := .wrh e, master := 0, line := 0x800 })] } }
    (s.core 0).sq == [e] && (s.coh.txns.find 0x800).isSome && done (.ack 0 0x800) s (fun t => (t.core 0).sq == [])),
   (let s := { on0 with coh := { Coh.reset with msgs := [{ kind := .words 3 [Word.raw0], p := 0x300, line := 0x800, txn := noTxn }] } }
    takeMsg (fun m => m.kind.isData && m.p == 0x300 && m.line == 0x800) s.coh.msgs != none &&
      done (.data 0x300 0x800) s (fun t => t.coh.msgs == []))]

def wWritesMore : List Bool :=
  [(let e : StoreEntry := { path := .wrh, word := cmnKey 0 5, data := .word (Word.fix 1), card := none }
    let s := svc.setCore 0 { core0 with sq := [e] }
    isCommons (8 * e.word) && (s.core 0).sq == [e] && done (.wrh (.core 0)) s (fun t => t.mem.cmnWord (cmnKey 0 5) == Word.fix 1)),
   (let s := (holding .s).setCore 0 { (holding .s).core 0 with sq := [storeEntry .wrt] }
    (s.requester 0).isSome && ((s.physCore 0).l2.find (0x4000 / 8)).isSome && done (.wrt 0) s (fun _ => true)),
   (let s := on0.setCore 0 { on0.core 0 with sq := [storeEntry .wrt] }
    (s.requester 0).isSome && (s.physCore 0).l2.find (0x4000 / 8) == none && !s.queueFull (0x4000 / 8) &&
      (s.l2Room 0 (0x4000 / 8)).2.isSome && done (.wrt 0) s (fun t => t.coh.msgs != [])),
   [StorePath.wrt, .wrh].all (fun p => done (.wrh (.core 0)) (queue1 p) (fun _ => true)),
   decide ((0x200 : BitVec 12).toNat / 0x100 ≠ 0) && done (.wrh (.dma 0x200 0x800 0xFF (List.replicate 64 7))) on0
     (fun t => bits (t.mem.peekWord 0x4000).val 0 8 == 7),
   isCommons (8 * cmnKey 0 0) && done (.wrh (.dma 0x200 (BitVec.ofNat 46 (cmnKey 0 0 / 8)) 0xFF (List.replicate 64 7))) on0
     (fun t => bits (t.mem.cmnWord (cmnKey 0 0)).val 0 8 == 7),
   [true, false].all (fun k => done (.wbk 0 0x800 k) (holding .m) (fun t => t.coh.msgs != [])),
   done (.ntFlushTimeout 0) (svc.setCore 0 { core0 with nt := [{ line := 0x800, mask := 1, words := (line0 .m).data, cards := [] }] })
     (fun t => (t.core 0).nt == []),
   done (.arbiterAdmit (Fin.ofNat 64 (sliceOf (64 * 0x800))) 0) waiting (fun t => t.coh.retryQ == []),
   waiting.waiting.isNone && done (.arbiterAdmit (Fin.ofNat 64 (sliceOf (64 * 0x800))) 3#87) waiting (fun t =>
     t.coh.retryQ == waiting.coh.retryQ && t.coh.bookErr != [] && t.fld Reg.fcCnt 48 16 == 1)]

def twoBankReq : CmnReq := { cmnReq true 9 0x200 with word := 0x3F, mask := 0xFFF, data2 := Word.fix 8 }

def held65 (h : CmnHeld) : State := { gleaning with mem := { gleaning.mem with cmnHeld := [(64, [h]), (127, [h])] } }

def wStoredMore : List Bool :=
  [gleaning.mem.burstErr 0 == [] && !gleaning.gleanOpen (fun x => gleaning.channelOf (64 * x) == 0) && gleans gleaning 0 0,
   gleaning.lineBusy (gleaning.gleanNext 0) == false && !(withGran gleaning 0 true).mem.sramErr.any (fun _ => true),
   (let s := { gleaning with coh := { Coh.reset with txns := [(0, txnOf { rds0 with line := 0 })] } }
    s.lineBusy (s.gleanNext 0) && done (.gleanerLine 0 []) s (fun t => t == s)),
   [true, false].all (fun ok => mending.waiting.isNone && done (.mendResponse 0x800 ok (line0 .m).data) mending (fun t => t.mem.mends == [])),
   done (.mendResponse 0x801 true (line0 .m).data) mending (fun t => t.mem.mends != []),
   sweeping written5 && written5.mem.cmnValid.find (cmnKey 0 5) == some () && sweeping gleaning &&
     gleaning.mem.cmnValid.find (cmnKey 0 5) == none && written5.mem.cellErr (written5.mem.cmnCell (cmnKey 0 5)) == 0 &&
     !written5.mem.merge.any (fun e => e.word == cmnKey 0 5),
   done (.gleanerSramSweep (.commons 0 5) 3#87) written5 (fun t => t.mem.cmnWord (cmnKey 0 5) == Word.pois),
   [true, false].all (fun d => (let s := withGran gleaning 0x800 d
     sweeping s && !s.gleanOpen (fun x => sliceOf (64 * x) == sliceOf (64 * 0x800)) && s.mem.cellErr (s.mem.granCellOf 0x800 0) == 0 &&
       s.mem.burstErr 0x800 == [])),
   (let a := cmnReq true 0 1
    secondBank a == none && !gleaning.writeBarred (cmnKey 1 0x41 / 8) 1 &&
      done (.commonsBankGrant 1 1 [a]) gleaning (fun t => t.mem.cmnWord (cmnKey 1 0x41) == Word.fix 7)),
   !sameReq (cmnReq true 0 1) (cmnReq true 9 2) && reqBefore (cmnReq true 9 2) (cmnReq true 0 1),
   (let s := held65 ⟨twoBankReq, 0⟩
    (secondBank twoBankReq).isSome && s.cmnWaiting 1 63 == [⟨twoBankReq, 0⟩] && !s.coreFirst 1 && s.winsOther 1 twoBankReq []),
   (match denied.breakerDue 1 1 with
    | some h => denied.winsOther 1 h.req [] && secondBank h.req == none &&
        done (.commonsBreakerGrant 1 1) denied (fun t => t.cmnWaiting 1 1 == [])
    | none => false)]

theorem witness_cache_more : allOf wCacheMore = true := by decide +kernel
theorem witness_fabric_more : allOf wFabricMore = true := by decide +kernel
theorem witness_writes_more : allOf wWritesMore = true := by decide +kernel
theorem witness_stored_more : allOf wStoredMore = true := by decide +kernel

/-! ### Queues, registers, the pair, start-up: the commands run -/

/-- A holder of the tag-table capability alone. -/
def tagger : Accessor := { parish := 3, devctl := false, obs := false, tags := true }

def wQueuesMore : List Bool :=
  [q3.all (fun q => done (.doorbell owner0 q 16) (queueSvc q true) (fun t => t.fld (queueSqp q) 0 32 == 16) &&
     done (.queueEnable owner0 q 0x100040401#64) (queueSvc q false) (fun t => t.qEnabled q) &&
     done (.cqHeadWrite owner0 q 2) (filled q) (fun t => t.cqHead q == 2) &&
     done (.ringConfigWrite owner0 q .sqb 0x40000#64) (queueSvc q false) (fun _ => true)),
   [(linkPool, (orderSvc 1).setFld (altReg linkPool 3) 0 8 1), (.comp, (engineSvc (.comp 0)).setFld (altReg .comp 0) 0 8 1),
      (.ciph, (engineSvc (.ciph 0)).setFld (altReg .ciph 0) 0 8 255)].all (fun r => done (.drrDispatch ⟨r.1, 0, true, 0⟩) r.2 (fun t => t != r.2)),
   done (.orderAccept 3) waitingOrder (fun t => (t.ledgerAt 3 1).st == .accepted),
   done (.orderRelease ⟨3, 0, none⟩) (ledgerSvc 1 .accepted) (fun t => (t.ledgerAt 3 1).st == .released),
   done (.ledgerClose 3 ⟨1, 0⟩) (ledgerSvc 1 .done) (fun t => (t.ledgerAt 3 1).st == .closed),
   (let s := ledgerSvc 1 .released
    s.flag (Reg.chCfg 3) 32 && !s.ledgerCopy && s.portsRun && s.io.ledgerErr == [] && hsiaoDecode 3#87 == .ue &&
      [Instr.orderRelease ⟨3, 3#87, none⟩, .ledgerClose 3 ⟨1, 3#87⟩, .orderTimeout 3 ⟨1, 3#87⟩].all (fun c => done c s (fun t =>
        t.fld Reg.fcCnt 48 16 == 1 && t.io.ledgerErr != []))),
   (let s := { pairOf (ledgerSvc 1 .released) with regs := ((pairOf (ledgerSvc 1 .released)).setFld Reg.pairStat 6 2 phService).regs }
    s.ledgerCopy && done (.ledgerClose 3 ⟨1, 3#87⟩) s (fun t => t.io.ledgerErr == [] && t.fld Reg.fcCnt 0 16 == 1)),
   done (.ledgerClose 3 ⟨1, bitErr 70⟩) (ledgerSvc 1 .released) (fun t => t.io.ledgerErr == [] && t.fld Reg.fcCnt 0 16 == 1),
   done (.issueEntryRead 0 0 3 ⟨1, 0⟩) (ledgerSvc 1 .released) (fun t => (t.link 0).rsp.isSome),
   done (.windowRead 0 0 (BitVec.ofNat 64 win31) 64) (ledgerSvc 1 .released) (fun t => (t.link 0).rsp.isSome),
   done (.windowWrite 0 0 (BitVec.ofNat 64 (win31 + 60)) [1, 2, 3, 4] false) (ledgerSvc 2 .released) (fun t => t.mem.dram != svc.mem.dram),
   (let s := ledgerSvc 2 .released
    s.windowHit 0 (win31 + 61) 4 2 == none && s.portsRun && s.serves 0 3 && (s.ledgerAt 3 1).isOpen &&
      decide (win31 + 61 < windowAddr 3 1 + (s.ledgerAt 3 1).count.toNat ∧ windowAddr 3 1 < win31 + 65) &&
      done (.windowWrite 0 0 (BitVec.ofNat 64 (win31 + 61)) [1, 2, 3, 4] false) s (fun t => (t.ledgerAt 3 1).overrun)),
   done (.completionRecord 0 0 0x3F0000038010#64 (bytesOf 0x10000#64 ++ bytesOf 64#64) ⟨false, 0⟩) (ledgerSvc 2 .released)
     (fun t => (t.ledgerAt 3 1).st == .done),
   done (.orderTimeout 3 ⟨1, 0⟩) (ledgerSvc 2 .released) (fun t => (t.ledgerAt 3 1).status == 0x0C),
   done (.secondaryBusReset reeve 0 0) (ledgerSvc 2 .released) (fun t => (t.ledgerAt 3 1).status == 0x0B),
   done (.linkUp 0 0 2 3) ((withLink (ledgerSvc 1 .released) .high).setFld Reg.ldgCfg 16 8 2) (fun t => t.linkUpBit 0),
   done (.linkDown 0 0) (orderSvc 1) (fun t => !t.linkUpBit 0), done (.perstRelease 0 0) (withLink svc .low) (fun t => (t.link 0).perst == .high),
   done (.compressionJobEnd 0) compRun (fun t => (t.compInst 0).comp == [compJob0]),
   [0, 2].all (fun st => done (.cipherJobEnd 0) (ciphRun st) (fun t => (t.ciphInst 0).ciph == [])),
   calm (engineSvc comp0) && calm (engineSvc ciph0) && done (.ciFlush owner0 0) (engineSvc comp0) (fun t => t.cqTail comp0 == 1) &&
     done (.cxFlush owner0 0) (engineSvc ciph0) (fun t => t.cqTail ciph0 == 1),
   done (.ciFlush owner0 0) fullComp (fun t => (t.compInst 0).flush == 1),
   done (.cipherWaitSatisfied 0) (ciphWait true 1) (fun t => (t.ciphInst 0).wait.ready)]

def wRegistersMore : List Bool :=
  [done (.setw reeve (rcArg 0 63 0 255)) (queueSvc (.comp 63) true) (fun t => t.weight .comp 63 == 255),
   done (.move reeve (rcArg 1 0 0 0)) movableSvc (fun t => t.qParish ciph0 == 0), done (.crst reeve 0) svc (fun t => (t.core 0).run == .running),
   (let t := (((svc.setFld Reg.rcCmd 16 32 0).setFlag Reg.rcStat 0 true).coreReset 0).endCommand 3 0
    t.waiting.isNone),
   tagger.tags && !tagger.devctl && svc.waiting.isNone && done (.tatStore tagger 9 0x8#64) svc (fun t => t.flag (Reg.tat 9) 3) &&
     !guest.tags && done (.tatStore guest 9 0x8#64) svc (fun t => t == svc),
   done (.evRouteWrite reeve 5 0x10044#64) svc (fun _ => true), done (.evPendClear owner0 0 1) svc (fun _ => true),
   done (.evDoor owner0 0 0) svc (fun t => t.pendBit 324), done (.fcStatClear reeve 0x88#64) svc (fun _ => true),
   done (.dlCtlEn reeve 0 true) svc (fun t => t.flag (Reg.dlCtl 0) 0), done (.dlCtlClr reeve 0) svc (fun _ => true),
   done (.dlRingWrite reeve 0 false (dlRing 10 0x20000)) svc (fun t => t.fld (Reg.dlRing 0) 48 5 == 10),
   done (.gcCtlWrite owner0 0 7) svc (fun t => t.reg (Reg.gcCtl 0) == 7), done (.gcZoneWrite owner0 0 0x20#64) svc (fun _ => true),
   done (.gcClogWrite owner0 0 (dlRing 4 0x26000)) svc (fun t => t.fld (Reg.gcClog 0) 48 5 == 4),
   done (.registerWrite reeve (BitVec.ofNat 28 Reg.glnCtl) 3) svc (fun t => t.fld Reg.glnCtl 0 8 == 3)]

def stb (ph : Nat) : State := { standby ph with pair := { (standby ph).pair with rcv := true } }

def mirrorRec : MirrorRec := { mend := false, line := 0x900, wmask := 0xFF, words := List.replicate 8 (Word.fix 3), time := 0 }

def wPairMore : List Bool :=
  [[phService, phRecovery].all (fun ph => quiet (stb ph) && (stb ph).stop == .running && (stb ph).pair.rcv && (stb ph).mem.merge == []),
   done (.mirror hdr0 [mirrorRec]) (stb phService) (fun t => t.mem.peekLine 0x900 == List.replicate 8 (Word.fix 3)),
   done (.bulk hdr0 0x900 [List.replicate 8 (Word.fix 3)]) (stb phRecovery) (fun t => t.mem.peekLine 0x900 == List.replicate 8 (Word.fix 3)),
   done (.zrun hdr0 [(0x800, 2)]) (stb phRecovery) (fun t => t.mem.peekLine 0x800 == List.replicate 8 Word.raw0),
   done (.ledger hdr0 [⟨3, 1, (entryOf 1 .accepted).words, []⟩]) (stb phService) (fun t => (t.ledgerAt 3 1).st == .accepted),
   done (.rcvdone hdr0) (stb phRecovery) (fun t => t.phase == phService && !t.pair.rcv),
   !(standby phRecovery).pair.rcv && done (.rcvdone hdr0) (standby phRecovery) (fun t => t.phase == phRecovery),
   done (.mendq hdr0 0x900) (stb phService) (fun t => t.pair.tx != []), done (.dio hdr0 5) (stb phService) (fun t => t.pair.dioHeld == 5),
   done (.leave hdr0) (stb phRecovery) (fun t => !t.pair.rcv && t.pair.leaveRx), done (.handover hdr0) (stb phService) (fun t => t.role == 1),
   done .partnerLost (inPair svc 2 1 1) (fun t => t.role == 1), done .takeoverDrive taking (fun t => t.pair.takeT0.isNone),
   done (.switch reeve) (inPair svc 1 1 1) (fun t => t.pair.switching), done .lossHoldEnd { svc with pair := { Pair.reset with lossHold := true } }
     (fun t => !t.pair.lossHold),
   done .recoveryCopy { copying .ledger with pair := { (copying .ledger).pair with copyPos := 256 } } (fun t => t.pair.copy == .capt),
   done .recoveryCopy (copying .capt) (fun t => t.pair.copy == .tat), done .recoveryCopy (copying .tat) (fun t => t.pair.copy == .dram), done .recoveryCopy (copying .dram) (fun t => t.pair.copy == .done)]

/-- Granule 0 is mirrored: its first MiB is the next to be copied. -/
def copyingDram : State := withDimm ((copying .dram).setFlag (Reg.parCfg 0) 2 true)

def wStartMore : List Bool :=
  [copyingDram.pair.copyPos == 0 && copyingDram.mirroredGranules[0]?.isSome && copyingDram.partnered && copyingDram.role == 1,
   done .resetNAssert svc (fun t => !t.pins.resetN && t.mem == Mem.reset), done .vinLoss powered (fun t => t.stop == .vinLoss)]

def wFlushMore : List Bool :=
  [done .powerfailNAssert powered (fun t => t.stop == .pfail), done .powerfailFlushDone flushing (fun t => t.mem.granDirty == []),
   flushing.mem.sramErr == [] && flushing.mem.remapD == [] && (match flushing.mem.gran.find 0x800 with
     | some g => g.dirty
     | none => false),
   done (.startupS4 false) (startingImage 4) (fun t => t.step? == 5),
   done .startupS5 last5 (fun t => t.phase == phService), done .startupS5 (startingPair 1 1) (fun t => t.step? == 5 && t.pair.claiming)]

theorem witness_queues_more : allOf wQueuesMore = true := by decide +kernel
theorem witness_registers_more : allOf wRegistersMore = true := by decide +kernel
theorem witness_pair_more : allOf wPairMore = true := by decide +kernel
theorem witness_start_more : allOf wStartMore = true := by decide +kernel
theorem witness_flush_more : allOf wFlushMore = true := by decide +kernel

/-- The word at 0x20000 names an object of a zone to be moved, whose header is no FWD word. -/
def evacuating : State :=
  let s := withData (withA0 (Word.fix 9)) [cellAt 0x20008#64, Word.raw 1] [(Reg.gcCtl 0, 3#64), (Reg.gcZone 0, 0x26#64), consTat]
  { s with mem := { s.mem with dram := SMap.set Word.raw0 s.mem.dram 0x4C00 (Word.raw 8) } }

/-- `celling` with a valid micro-save record at its PC. -/
def resuming : State :=
  celling.setCore 0 ((celling.core 0).setSave .prim
    { MicroSave.none with valid := true, pc := 0x10000, u := [cellAt 0x20008#64], entries := [(8, 0x2#64)] })

/-- `s` with an error of line 0x800's record in its slice. -/
def badBook (s : State) (err : SramErr) : State := { s with coh := { s.coh with bookErr := [(0x800, err)] } }

def wSecond : List Bool :=
  [okThen (atomicOld 0 (pf 0 0)) evacuating (fun ow u1 => ow.2.tag == Tag.cons &&
     okThen (barrierLook 0 ow.1.addr ow.1.perms ow.2) u1 (fun b _ => b.evac.isSome)) &&
     traps (.xchg 0 (pf 0 0)) evacuating vEvac && traps (.cas 0 (pf 0 0)) evacuating vEvac,
   ran (.xchg 0 (pf 0 0)) evacuating (fun t => t.mem.peekWord 0x4000 == Word.fix 9) &&
     ran (.cas 0 (pf 0 0)) evacuating (fun t => t.mem.peekWord 0x4000 == cellAt 0x20008#64),
   resumes resuming 0 && (vctx resuming 0).entries == [(8, 0x2#64)] && !resumes celling 0 && retires (.car 0 (xr 0 0)) resuming,
   fullQueue.queueFull 0x800 && !on0.queueFull 0x800 && ran (.rds 0 0x800 []) fullQueue (fun t => t == fullQueue),
   !(holding .s).readsAtHome 0 0x800 && ran (.rdh 0 0x800 1 []) (holding .s) (fun t => t == holding .s),
   hsiaoDecode 3#87 == .ue && hsiaoDecode (bitErr 5) == .ce 5 && (badBook on0 3#87).mapsOk && !on0.escalated 0x2B &&
     ran (.rds 0 0x800 []) (badBook on0 (bitErr 5)) (fun t => t.coh.bookErr == [] && t.coh.msgs != []) &&
     ran (.rds 0 0x800 []) (badBook on0 3#87) (fun t => t.coh.bookErr != [] && t.coh.msgs == []),
   [StorePath.wrt, .wrh].all (fun p => ran (if p = .wrt then .wrt 0 else .wrh (.core 0))
     ((queue1 p).setCore 0 { (queue1 p).core 0 with run := .paused }) (fun t => (t.core 0).sq == [storeEntry p])),
   !(queue1 .wrt).cachesOn 0 && ran (.wrt 0) (queue1 .wrt) (fun t => t.coh.txns != [] || t.coh.retryQ != []),
   !inCommons (8 * cmnKey 8 0) && isCommons (64 * (cmnKey 8 0 / 8)) &&
     ran (.wrh (.dma 0x200 (BitVec.ofNat 46 (cmnKey 8 0 / 8)) 0xFF (List.replicate 64 7))) on0 (fun t => t == on0),
   (entryMet 0 0 (capWord 0 0xFF 1 2) svc).capCurrent 0 (capWord 0 0xFF 1 2)]

theorem witness_second : allOf wSecond = true := by decide +kernel

/-! ### Instruction words, bit by bit from R46, R49, R73 and R74 -/

theorem test_word_add : decodeWord 0 0b00100001101011010001001000110100#32 =
    some (.add 0 { guard := { sense := true, pred := 5 }, bank := 3, mode := 1, off := 0x1234 }) := by decide
theorem test_word_lda : decodeWord 45 0b00000010000001111111111111111111#32 =
    some (.lda 45 { guard := { sense := false, pred := 0 }, bank := 1, mode := 3, off := 0xFFFF }) := by decide
theorem test_word_cas : decodeWord 0 0b10001000001110100000000000000001#32 =
    some (.cas 0 { guard := { sense := false, pred := 1 }, bank := 6, mode := 2, off := 1 }) := by decide
theorem test_word_br : decodeWord 0 0b01100001000000001000000000000000#32 =
    some (.br 0 { guard := { sense := true, pred := 0 }, bank := 0, mode := 0, off := 0x8000 }) := by decide
theorem test_word_fsync : decodeWord 0 0b11111110000000101000000000000000#32 =
    some (.fsync 0 { guard := { sense := false, pred := 0 }, rsv := 0 }) := by decide
theorem test_word_movb : decodeWord 0 0b11111110010011100010000000000101#32 =
    some (.movb 0 { guard := { sense := false, pred := 2 }, bank := 2, rsv := 0, sel := 5 }) := by decide
theorem test_word_cuns : decodeWord 0 0b11111110000011010111010000000011#32 =
    some (.cuns 0 { guard := { sense := false, pred := 0 }, bank := 7, rsv := 4, sel := 3 }) := by decide
theorem test_word_cwb : decodeWord 0 0b11111111111101000110011000000001#32 =
    some (.cwb 0 { guard := { sense := true, pred := 7 }, bank := 6, mode := 1, off := 0x201 }) := by decide
/-- R73, R74: the word 0, an unassigned opcode and an unassigned sub-opcode stand for no instruction. -/
theorem test_word_none : decodeWord 0 0#32 = none ∧ decodeWord 0 0b00010110000000000000000000000000#32 = none ∧
    decodeWord 0 0b11111110000011111000000000000000#32 = none := by decide

/-- R48: such a word raises ILL. -/
def illWord : Bool :=
  match execWord 0 0#32 svc with
  | .next t => (b0 t).pc == 0x10000 + 0x100 * vIll
  | _ => false

theorem test_word_ill : illWord = true := by decide +kernel

/-! ### Lands -/

/-- R544, R556: the spec's own worked lands, RESET_N, DOUT29, CP1_TX0_P and DOUT5. -/
theorem test_lands : findLand 0 .centre (.ctl .resetN) = some (['L'], 34) ∧ findLand 3 .centre (.dout 29) = some (['C', 'B'], 37) ∧
    findLand 1 .highSpeed (.hs (.cpTx 1 0) false) = some (['A'], 67) ∧ findLand 0 .centre (.dout 5) = some (['K'], 32) := by
  decide +kernel
/-- R544: the totals by kind. -/
theorem test_land_counts : allLands.length = 4624 ∧ allLands.count .gnd = 2352 ∧ allLands.count .vin = 120 ∧
    allLands.count .vaux = 8 ∧ allLands.count .rsvd = 24 := by
  decide +kernel

end Sys2Proof.Tests

end
end

section
/-! PROOFS. What every proof about an instruction cites: the running bank after an update, what a retirement leaves of
it, and the frame an instruction runs in, from the terms the statements are made of. -/

namespace Sys2Proof.Machine

/-! ### The running bank (R61, R171) -/

@[simp] theorem Core.curId_setBank (c : Core) (i : BankId) (b : Bank) : (c.setBank i b).curId = c.curId := by
  cases i <;> rfl

@[simp] theorem Core.attempts_setBank (c : Core) (i : BankId) (b : Bank) : (c.setBank i b).attempts = c.attempts := by
  cases i <;> rfl

@[simp] theorem Core.bank_setBank_same (c : Core) (i : BankId) (b : Bank) : (c.setBank i b).bank i = b := by
  cases i <;> rfl

@[simp] theorem Core.cur_setBank_curId (c : Core) (b : Bank) : (c.setBank c.curId b).cur = b := by
  simp [Core.cur]

@[simp] theorem Core.cur_setSave (c : Core) (i : BankId) (m : MicroSave) : (c.setSave i m).cur = c.cur := by
  cases i <;> rfl

/-- A core is read from the map of cores alone. -/
theorem State.core_of_cores {s t : State} (h : t.cores = s.cores) (n : Nat) : t.core n = s.core n :=
  congrArg (SMap.get Core.reset · n) h

/-- So is its running bank. -/
theorem State.cur_of_cores {s t : State} (h : t.cores = s.cores) (n : Nat) : t.cur n = s.cur n :=
  congrArg Core.cur (State.core_of_cores h n)

theorem State.cur_setCore_same {s : State} {n : Nat} {c : Core} (h : SMap.sorted s.cores = true) :
    (s.setCore n c).cur n = c.cur := congrArg Core.cur (State.core_setCore_same h)

theorem State.cur_setCur_same {s : State} {n : Nat} {b : Bank} (h : SMap.sorted s.cores = true) :
    (s.setCur n b).cur n = b := by
  simp [State.setCur, State.cur_setCore_same h]

theorem State.setCur_sorted {s : State} {n : Nat} {b : Bank} (h : SMap.sorted s.cores = true) :
    SMap.sorted (s.setCur n b).cores = true := State.setCore_sorted h

theorem State.attempts_setCur {s : State} {n : Nat} {b : Bank} (h : SMap.sorted s.cores = true) :
    ((s.setCur n b).core n).attempts = (s.core n).attempts := by
  simp [State.setCur, State.core_setCore_same h]

theorem State.mapsOk_cores {s : State} (h : s.mapsOk = true) : SMap.sorted s.cores = true := by
  simp only [State.mapsOk, Bool.and_eq_true, and_assoc] at h
  obtain ⟨_, _, hc, _⟩ := h
  exact hc

/-! ### What a retirement leaves of the running bank (R70, R216) -/

@[simp] theorem State.fetchLine_cores (s : State) (n : Nat) : (s.fetchLine n).cores = s.cores := by
  unfold State.fetchLine
  simp only
  split
  · split
    · split <;> split <;> simp
    · rfl
  · rfl

theorem State.rollBack_sorted {s : State} {n : Nat} (h : SMap.sorted s.cores = true) :
    SMap.sorted (s.rollBack n).cores = true := State.setCore_sorted h

theorem State.rollBack_cur {s : State} {n : Nat} (h : SMap.sorted s.cores = true) : (s.rollBack n).cur n = s.cur n :=
  State.cur_setCore_same h

theorem State.startTransplant_sorted {s : State} {n bit : Nat} (h : SMap.sorted s.cores = true) :
    SMap.sorted (s.startTransplant n bit).cores = true := by
  simp only [State.startTransplant, State.raise_cores, State.setEv_cores]
  exact State.setCore_sorted (State.rollBack_sorted h)

/-- R216: the logical core that pauses keeps its registers. -/
theorem State.startTransplant_cur {s : State} {n bit : Nat} (h : SMap.sorted s.cores = true) :
    (s.startTransplant n bit).cur n = s.cur n := by
  rw [State.startTransplant, State.cur_of_cores (State.raise_cores _ _), State.cur_of_cores (State.setEv_cores _ _ _ _),
    State.cur_setCore_same (State.rollBack_sorted h)]
  exact State.rollBack_cur h

theorem State.flushBranch_sorted {s : State} {n : Nat} (h : SMap.sorted s.cores = true) :
    SMap.sorted (s.flushBranch n).cores = true := by
  unfold State.flushBranch
  simp only
  split
  · exact h
  · rw [State.emit_cores]; exact State.setCore_sorted h

theorem State.flushBranch_cur {s : State} {n : Nat} (h : SMap.sorted s.cores = true) :
    (s.flushBranch n).cur n = s.cur n := by
  unfold State.flushBranch
  simp only
  split
  · rfl
  · rw [State.cur_of_cores (State.emit_cores _ _ _ _)]; exact State.cur_setCore_same h

/-- R521: a branch bit is the trace unit's matter. -/
theorem State.branchBit_cur {s : State} {n : Nat} {t : Bool} (h : SMap.sorted s.cores = true) :
    (s.branchBit n t).cur n = s.cur n := by
  unfold State.branchBit
  simp only
  split
  · split
    · rw [State.flushBranch_cur (State.setCore_sorted h)]; exact State.cur_setCore_same h
    · exact State.cur_setCore_same h
  · rfl

/-- The core as a retirement without a retry under way leaves it, before the fetch and a transplant. -/
def State.recordEnded (s : State) (n : Nat) : State :=
  let c := s.core n
  (s.pmc (s.physOf n) 2).setCore n { c.setSave c.curId .none with
    attempts := 0, atLimit := false, routine := none,
    devHeld := c.devHeld.filter (fun h => h.1.val != c.curId.code) }

theorem State.recordEnded_sorted {s : State} {n : Nat} (h : SMap.sorted s.cores = true) :
    SMap.sorted (s.recordEnded n).cores = true :=
  State.setCore_sorted (by rw [State.pmc_cores]; exact h)

theorem State.recordEnded_cur {s : State} {n : Nat} (h : SMap.sorted s.cores = true) :
    (s.recordEnded n).cur n = s.cur n := by
  rw [State.recordEnded, State.cur_setCore_same (by rw [State.pmc_cores]; exact h)]
  exact Core.cur_setSave _ _ _

/-- A retirement where no retry was under way (R210): no NOTICE is recorded. -/
theorem State.retired_of_attempts {s : State} {n : Nat} (h : (s.core n).attempts = 0) :
    s.retired n = if (s.core n).thrHit then ((s.recordEnded n).fetchLine n).startTransplant n 25
      else (s.recordEnded n).fetchLine n := by
  simp [State.retired, State.recordEnded, State.core_of_cores (State.pmc_cores s (s.physOf n) 2), h]

theorem State.retired_sorted {s : State} {n : Nat} (hs : SMap.sorted s.cores = true) (ha : (s.core n).attempts = 0) :
    SMap.sorted (s.retired n).cores = true := by
  have hf : SMap.sorted ((s.recordEnded n).fetchLine n).cores = true := by
    rw [State.fetchLine_cores]; exact State.recordEnded_sorted hs
  rw [State.retired_of_attempts ha]
  split
  · exact State.startTransplant_sorted hf
  · exact hf

theorem State.retired_cur {s : State} {n : Nat} (hs : SMap.sorted s.cores = true) (ha : (s.core n).attempts = 0) :
    (s.retired n).cur n = s.cur n := by
  have hf : SMap.sorted ((s.recordEnded n).fetchLine n).cores = true := by
    rw [State.fetchLine_cores]; exact State.recordEnded_sorted hs
  have hc : ((s.recordEnded n).fetchLine n).cur n = s.cur n := by
    rw [State.cur_of_cores (State.fetchLine_cores _ _), State.recordEnded_cur hs]
  rw [State.retired_of_attempts ha]
  split
  · rw [State.startTransplant_cur hf, hc]
  · exact hc

/-- R70: an instruction that transfers nothing leaves PC and LC as the loop rule has them, and no other register
changed. -/
theorem State.retire_cur {s : State} {n : Nat} (hs : SMap.sorted s.cores = true) (ha : (s.core n).attempts = 0) :
    (s.retire n).cur n = (s.cur n).loopNext.1 := by
  have hs' := State.setCur_sorted (n := n) (b := (s.cur n).loopNext.1) hs
  have ha' := (State.attempts_setCur (n := n) (b := (s.cur n).loopNext.1) hs).trans ha
  have hr := (State.retired_cur hs' ha').trans (State.cur_setCur_same hs)
  unfold State.retire
  simp only
  split
  · rw [State.branchBit_cur (State.retired_sorted hs' ha'), hr]
  · exact hr

/-- A transfer writes PC alone. -/
theorem State.retireTo_cur {s : State} {n : Nat} (k : Word) (a : Nat) (hs : SMap.sorted s.cores = true)
    (ha : (s.core n).attempts = 0) :
    (s.retireTo n k a).cur n = { s.cur n with pcCap := k, pc := BitVec.ofNat 48 a } := by
  rw [State.retireTo, State.retired_cur (State.setCur_sorted hs) ((State.attempts_setCur hs).trans ha),
    State.cur_setCur_same hs]

/-! ### No retirement waits (log 64) -/

@[simp] theorem State.setCur_waiting (s : State) (n : Nat) (b : Bank) : (s.setCur n b).waiting = s.waiting := rfl

@[simp] theorem State.fetchLine_waiting (s : State) (n : Nat) : (s.fetchLine n).waiting = s.waiting := by
  unfold State.fetchLine
  simp only
  split
  · split
    · split <;> split <;> simp
    · rfl
  · rfl

@[simp] theorem State.startTransplant_waiting (s : State) (n bit : Nat) :
    (s.startTransplant n bit).waiting = s.waiting := by
  simp [State.startTransplant, State.rollBack]

@[simp] theorem State.retired_waiting (s : State) (n : Nat) : (s.retired n).waiting = s.waiting := by
  unfold State.retired; simp only; split <;> split <;> simp

@[simp] theorem State.flushBranch_waiting (s : State) (n : Nat) : (s.flushBranch n).waiting = s.waiting := by
  unfold State.flushBranch; simp only; split <;> simp

@[simp] theorem State.branchBit_waiting (s : State) (n : Nat) (t : Bool) : (s.branchBit n t).waiting = s.waiting := by
  unfold State.branchBit
  simp only
  split
  · split <;> simp
  · rfl

@[simp] theorem State.retire_waiting (s : State) (n : Nat) : (s.retire n).waiting = s.waiting := by
  unfold State.retire; simp only; split <;> simp

/-! ### The instruction monad -/

@[simp] theorem M.get_run (s : State) : (get : M State) s = .ok s s := rfl

@[simp] theorem settleM_run (n : Nat) (s : State) : settleM n s = .ok () (s.settleDiv n) := rfl

@[simp] theorem getCur_run (n : Nat) (s : State) : getCur n s = .ok (s.cur n) s := rfl

@[simp] theorem modCur_run (n : Nat) (f : Bank → Bank) (s : State) :
    modCur n f s = .ok () (s.setCur n (f (s.cur n))) := rfl

/-- A check before the rest of an effect: it raises, or the rest runs. -/
theorem M.check_run {p : Prop} [Decidable p] (e : Exc) (f : Unit → M Unit) (s : State) :
    (if p then raiseExc e >>= f else f ()) s = if p then .error e s else f () s := by
  split <;> rfl

/-! ### An instruction that issues -/

section issuing

variable {c : Instr} {s t : State} {n : Nat} {fp ill : State → Bool} {g : Guard} {body : M Unit} {skip : State → State}

/-- What it is to issue, part by part. -/
theorem issues_iff {f i : Bool} : issues s n f i g = true ↔
    s.waiting = none ∧ s.fetchMeet n = s ∧ s.runnable n = true ∧ s.boundary n f = none ∧ s.fetchFault n = none ∧
      i = false ∧ (s.cur n).guardOk g = true := by
  simp [issues, and_assoc]

/-- An instruction that issues, and whose effect answers, completes. -/
theorem completes_of_body (hc : exec c s = .next (s.instr n fp ill g body skip))
    (hi : issues s n (fp s) (ill s) g = true) (hb : body s = .ok () t) : completes c s t := by
  obtain ⟨h0, hm, hr, hbd, hf, hill, hg⟩ := issues_iff.mp hi
  intro hw
  rw [hc, State.instr_done hr hm h0 hf hbd hill hg hb hw]

/-- An instruction that issues, and whose effect raises, traps. -/
theorem trapped_of_body {e : Exc} (hc : exec c s = .next (s.instr n fp ill g body skip))
    (hi : issues s n (fp s) (ill s) g = true) (hb : body s = .error e t) : trapped c s t n e := by
  obtain ⟨h0, hm, hr, hbd, hf, hill, hg⟩ := issues_iff.mp hi
  intro hw
  rw [hc, State.instr_error hr hm h0 hf hbd hill hg hb hw]

/-- R48: an encoding that is not allowed raises ILL, whatever its guard. -/
theorem trapped_of_ill (hc : exec c s = .next (s.instr n fp ill g body skip)) (hm : s.fetchMeet n = s)
    (hr : s.runnable n = true) (hbd : s.boundary n false = none) (hf : s.fetchFault n = none) (hill : ill s = true) :
    trapped c s s n { vec := vIll } := by
  intro h0
  rw [hc, State.instr_ill hr hm h0 hf hbd hill]

/-- R52: an instruction that its guard turns off only retires, with what `skip` does beside. -/
theorem completes_of_off (hc : exec c s = .next (s.instr n fp ill g body skip)) (hm : s.fetchMeet n = s)
    (hr : s.runnable n = true) (hbd : s.boundary n (fp s) = none) (hf : s.fetchFault n = none) (hill : ill s = false)
    (hg : (s.cur n).guardOk g = false) (hskip : (skip s).waiting = s.waiting) : completes c s ((skip s).retire n) := by
  intro hw
  have h0 : s.waiting = none := by rw [← hskip, ← State.retire_waiting, hw]
  rw [hc, State.instr_off hr hm h0 hf hbd hill hg, State.settled_none hw]

end issuing

end Sys2Proof.Machine
end

section
/-! PROOFS. Control transfers and the hardware loop (R57, R69, R70, R86). -/

namespace Sys2Proof.Machine

/-! ### A transfer's target (R57) -/

/-- A target outside the bounds of a current code capability is refused at STEP 3. -/
theorem checkTarget_outside {s : State} {n : Nat} {t : Int} {e : CapEntry}
    (he : e = s.capEntry (s.parishOf n) (capIndex (s.cur n).pcCap))
    (hc : s.capCurrent (s.parishOf n) (s.cur n).pcCap = true) (ht : t < e.lo ∨ (e.lo + e.len : Int) < t + 4) :
    checkTarget n t s = .error { vec := vCapf, step := 3, detail := 0x04, ea := some t } s := by
  subst he
  unfold checkTarget
  rw [M.bind_ok (M.get_run s)]
  simp only [hc, Bool.not_true, Bool.false_eq_true, if_false, if_pos ht, M.raiseExc_run]

/-! ### BR and BRL -/

/-- The state a taken BR or BRL retires from, where `u` is the settled state, with the link in Y where there is one. -/
def State.branched (u : State) (n : Nat) (o : PForm) (t : Nat) : State :=
  if o.mode = 0 then u.branchBit n true else (u.branchBit n true).target n 0 0 t

theorem branchTo_ok {n : Nat} {o : PForm} {link : Bool} {s u : State} {t : Nat}
    (h : checkTarget n (branchTarget ((s.settleDiv n).cur n) o) (s.settleDiv n) = .ok t (s.settleDiv n))
    (hu : u = if link then withY (s.settleDiv n) n (Word.fixNat (((s.settleDiv n).cur n).pc.toNat + 4))
      else s.settleDiv n) :
    branchTo n o link s = .ok () ((u.branched n o t).retireTo n ((s.settleDiv n).cur n).pcCap t) := by
  subst hu
  unfold branchTo
  rw [M.bind_ok (settleM_run n s), M.bind_ok (getCur_run n _), M.bind_ok h]
  by_cases hm : o.mode = 0#2
  · rw [State.branched, if_pos (show o.mode = 0 from hm)]
    cases link <;> simp only [hm, ne_eq, not_true_eq_false, Bool.false_eq_true, if_true, if_false] <;> rfl
  · rw [State.branched, if_neg (show ¬ o.mode = 0 from hm)]
    cases link <;> simp only [hm, ne_eq, not_false_eq_true, Bool.false_eq_true, if_true, if_false] <;> rfl

theorem branchTo_error {n : Nat} {o : PForm} {link : Bool} {s : State} {e : Exc}
    (h : checkTarget n (branchTarget ((s.settleDiv n).cur n) o) (s.settleDiv n) = .error e (s.settleDiv n)) :
    branchTo n o link s = .error e (s.settleDiv n) := by
  unfold branchTo
  rw [M.bind_ok (settleM_run n s), M.bind_ok (getCur_run n _), M.bind_error h]

theorem illBranch_of {o : PForm} (h : o.bank ≠ 0 ∨ o.mode = 3) : illBranch o = true := by
  simp only [illBranch, Bool.or_eq_true, beq_iff_eq, bne_iff_ne]
  exact h.symm

/-- BR and BRL are one transfer, without and with the link. -/
theorem exec_branch {f : LCore → PForm → Instr} (hf : f ∈ [Instr.br, Instr.brl]) (n : LCore) (o : PForm) (s : State) :
    ∃ link, exec (f n o) s =
      .next (s.instr n notFp (fun _ => illBranch o) o.guard (branchTo n o link) (fun s => s.branchBit n false)) := by
  simp only [List.mem_cons, List.not_mem_nil, or_false] at hf
  obtain rfl | rfl := hf
  · exact ⟨false, rfl⟩
  · exact ⟨true, rfl⟩

/-! ### LPB and the loop rule -/

theorem Bank.loopNext_again {b : Bank} (he : b.pc = b.le) (hl : 1 < b.lc.toNat) :
    b.loopNext = ({ b with lc := b.lc - 1, pc := b.ls }, some true) := by
  have h0 : b.lc ≠ 0 := by rintro h; simp [h] at hl
  rw [Bank.loopNext, if_pos ⟨h0, he⟩, if_pos hl]

theorem Bank.loopNext_last {b : Bank} (he : b.pc = b.le) (hl : b.lc.toNat = 1) :
    b.loopNext = ({ b with lc := 0, pc := b.le + 4 }, some false) := by
  have h0 : b.lc ≠ 0 := by rintro h; simp [h] at hl
  rw [Bank.loopNext, if_pos ⟨h0, he⟩, if_neg (by omega)]

theorem Bank.loopNext_plain {b : Bank} (h : b.lc = 0 ∨ b.pc ≠ b.le) :
    b.loopNext = ({ b with pc := b.pc + 4 }, none) := by
  rw [Bank.loopNext, if_neg fun ⟨h0, he⟩ => h.elim h0 (fun hne => hne he)]

theorem illLoop_of {o : PForm} (h : o.bank ≠ 0 ∨ o.mode ≠ 0) : illLoop o = true := by
  simp only [illLoop, Bool.or_eq_true, bne_iff_ne]
  exact h.symm

/-- Settles O6: the target of BR and BRL, checked, is gone to with the link in Y where BRL makes it; RET's is Y. A target
outside the code capability is refused before anything is written. -/
theorem transfers : Obligations.Transfers := by
  refine ⟨?_, ?_, ?_, ?_, ?_⟩
  · intro n o s t hi ht
    exact ⟨completes_of_body rfl hi (branchTo_ok (link := false) ht rfl),
      completes_of_body rfl hi (branchTo_ok (link := true) ht rfl)⟩
  · intro n o s t hi ha ht
    refine completes_of_body rfl hi ?_
    rw [M.bind_ok (settleM_run n s), M.bind_ok (getCur_run n _)]
    simp only [ha, ne_eq, not_true_eq_false, if_false]
    rw [M.bind_ok ht, M.act_run]
  · intro n o s hm hr hb hf hill f hmem
    obtain ⟨_, hc⟩ := exec_branch hmem n o s
    exact trapped_of_ill hc hm hr hb hf (illBranch_of hill)
  · intro n o s b e hi hb he hc ha ht
    subst hb
    refine trapped_of_body rfl hi ?_
    rw [M.bind_ok (settleM_run n s), M.bind_ok (getCur_run n _)]
    simp only [ha, ne_eq, not_true_eq_false, if_false]
    exact M.bind_error (checkTarget_outside he hc ht)
  · intro n o s b e hi hb he hc ht f hmem
    subst hb
    obtain ⟨_, hx⟩ := exec_branch hmem n o s
    exact trapped_of_body hx hi (branchTo_error (checkTarget_outside he hc ht))

/-- Settles O7: LPB's four checks all raise LOOPF before anything is written; past them the loop is armed. The loop rule
is `Bank.loopNext`, and a retirement leaves the running bank as it or the transfer has it. -/
theorem loopsAndBounds : Obligations.LoopsAndBounds := by
  refine ⟨?_, ?_, ?_, ?_, ?_, ?_⟩
  · intro n o s b hi hb hlc hfix hpos hoff hlo hhi
    subst hb
    refine completes_of_body rfl hi ?_
    rw [M.bind_ok (settleM_run n s), M.bind_ok (M.get_run _)]
    have ha : ¬ (!((s.settleDiv n).cur n).a.isFix || decide (((s.settleDiv n).cur n).a.int < 0)) = true := by
      simp [hfix, hpos]
    simp only [M.check_run]
    rw [if_neg (fun hne => hne hlc), if_neg ha, if_neg hoff,
      if_neg (not_or.mpr ⟨Nat.not_lt.mpr hlo, Nat.not_lt.mpr hhi⟩)]
    rfl
  · intro n o s b hi hb hbad
    subst hb
    refine trapped_of_body rfl hi ?_
    rw [M.bind_ok (settleM_run n s), M.bind_ok (M.get_run _)]
    simp only [M.check_run, Bool.or_eq_true, Bool.not_eq_true', decide_eq_true_eq]
    split
    · rfl
    split
    · rfl
    split
    · rfl
    split
    · rfl
    next hlc ha hoff hlast =>
      obtain h | h | h | h | h := hbad
      · exact (hlc h).elim
      · exact (ha (.inl h)).elim
      · exact (ha (.inr h)).elim
      · exact (hoff h).elim
      · exact (hlast h).elim
  · intro n o s hm hr hb hf
    refine ⟨fun hill => trapped_of_ill rfl hm hr hb hf (illLoop_of hill), fun hbank hmode hg => ?_⟩
    exact completes_of_off (skip := id) rfl hm hr hb hf (by simp [illLoop, hbank, hmode]) hg rfl
  · exact fun b _ he => ⟨Bank.loopNext_again he, Bank.loopNext_last he⟩
  · exact fun b => Bank.loopNext_plain
  · intro s n k a hs ha
    have hc := State.mapsOk_cores hs
    exact ⟨State.retire_cur hc ha, State.retireTo_cur k a hc ha⟩

end Sys2Proof.Machine
end

section
/-! PROOFS. The fences, IDLE and its wait (R89, R281, R287). -/

namespace Sys2Proof.Machine

/-! ### The fences (R281) -/

/-- A fence that issues completes as its wait leaves the state. -/
theorem completes_of_fence {c : Instr} {s : State} {n : LCore} {o : XNForm} (f : State → State)
    (hc : exec c s = .next (s.fence n o f)) (hi : issues s n false (illXN o) o.guard = true) :
    completes c s ((f s).retire n) := by
  refine completes_of_body hc hi ?_
  rw [M.bind_ok (M.act_run f s)]
  rfl

/-! ### The events that end a wait (R89) -/

/-- An interrupt is pending at core `n` when a route in force leads a pending source there. -/
theorem State.irq_isSome_iff {s : State} {n : Nat} :
    (s.irq n).isSome = true ↔ ∃ r ∈ s.routes, r.lcore = n ∧ s.pendBit r.src = true := by
  simp [State.irq, List.isSome_min?_iff, List.filter_eq_nil_iff]

theorem State.wakes_iff {s : State} {n : Nat} : s.wakes n = true ↔
    (s.core n).mchk.isSome = true ∨ ∃ r ∈ s.routes, r.lcore = n ∧ s.pendBit r.src = true := by
  rw [State.wakes, Bool.or_eq_true, State.irq_isSome_iff, or_comm]

/-- Only a core that runs executes instructions. -/
theorem State.runnable_of_not_running {s : State} {n : Nat} (h : (s.core n).run ≠ .running) : s.runnable n = false := by
  simp [State.runnable, h]

/-! ### IDLE -/

section idle

variable {n : LCore} {o : XNForm} {s u : State}

/-- IDLE drops the reservation (R287) and retires where an event is pending. -/
theorem completes_idle_wakes (hi : issues s n false (illXN o) o.guard = true)
    (hu : u = s.setCore n { s.core n with resv := none }) (hw : u.wakes n = true) :
    completes (.idle n o) s (u.retire n) := by
  subst hu
  refine completes_of_body rfl hi ?_
  rw [M.bind_ok (M.act_run _ s), M.bind_ok (M.get_run _), if_pos hw]
  rfl

/-- Where none is, the core waits. -/
theorem completes_idle_waits (hi : issues s n false (illXN o) o.guard = true)
    (hu : u = s.setCore n { s.core n with resv := none }) (hw : u.wakes n = false) :
    completes (.idle n o) s (u.setCore n { u.core n with run := .idle }) := by
  subst hu
  refine completes_of_body rfl hi ?_
  rw [M.bind_ok (M.act_run _ s), M.bind_ok (M.get_run _), if_neg (Bool.eq_false_iff.mp hw)]
  rfl

end idle

/-! ### IDLE_WAKE -/

theorem exec_idleWake (n : LCore) (s : State) : exec (.idleWake n) s =
    .next (if (s.core n).run = .idle ∧ s.stop = .running ∧ s.wakes n = true then
      (s.setCore n { s.core n with run := .running }).retire n
    else s) := rfl

theorem completes_idleWake {n : LCore} {s : State} (hr : (s.core n).run = .idle) (hs : s.stop = .running)
    (hw : s.wakes n = true) :
    completes (.idleWake n) s ((s.setCore n { s.core n with run := .running }).retire n) := by
  intro _
  rw [exec_idleWake, if_pos ⟨hr, hs, hw⟩]

theorem exec_idleWake_of_no_event {n : LCore} {s : State} (hw : s.wakes n = false) :
    exec (.idleWake n) s = .next s := by
  rw [exec_idleWake, if_neg fun ⟨_, _, h⟩ => Bool.eq_false_iff.mp hw h]

/-- Settles O15: a fence is its wait and then a retirement; IDLE's two answers and IDLE_WAKE's turn on `State.wakes`,
which reads no EM; and a core in the wait is not runnable. -/
theorem fencesAndIdle : Obligations.FencesAndIdle := by
  refine ⟨?_, ?_, ?_, ?_⟩
  · intro n o s hi
    exact ⟨completes_of_fence (fun s => s.drainStores n) rfl hi,
      completes_of_fence (fun s => s.ntFlush n (fun _ => true)) rfl hi,
      completes_of_fence (fun s => s.drainAll n) rfl hi,
      completes_of_fence (fun s => (s.drainAll n).settleCards n) rfl hi,
      fun u hu => ⟨completes_idle_wakes hi hu, completes_idle_waits hi hu⟩⟩
  · exact fun n s => completes_idleWake
  · exact fun n s _ => exec_idleWake_of_no_event
  · exact fun n s => ⟨State.wakes_iff, fun hr => State.runnable_of_not_running (by simp [hr])⟩

end Sys2Proof.Machine
end

section
/-! PROOFS. The modular, logical and shift instructions (R75, R104), and division (R76, R101, R102). -/

namespace Sys2Proof

/-! ### Integer payloads (R24, R98) -/

theorem Word.int_eq_zero_iff {w : Word} : w.int = 0 ↔ w.val = 0#64 :=
  BitVec.toInt_inj (y := 0#64)

/-- A count of 0 or more is its payload read without a sign. -/
theorem Word.int_of_nonneg {w : Word} (h : 0 ≤ w.int) : w.int = w.val.toNat :=
  BitVec.toInt_eq_toNat_of_lt (BitVec.toInt_pos_iff.mp h)

theorem fitsFix_iff {i : Int} : fitsFix i = true ↔ -(2 ^ 63) ≤ i ∧ i < 2 ^ 63 := decide_eq_true_iff

theorem two_pow_le_two_pow {j k : Nat} (h : j ≤ k) : (2 : Int) ^ j ≤ 2 ^ k := by
  exact_mod_cast Nat.pow_le_pow_right (n := 2) (by decide) h

/-- R104: a shift by 64 or more loses significance of every integer but 0. -/
theorem not_fitsFix_mul_two_pow {i : Int} {k : Nat} (hi : i ≠ 0) (hk : 64 ≤ k) : ¬ fitsFix (i * 2 ^ k) = true := by
  have hp := two_pow_le_two_pow hk
  have hm : (0 : Int) ≤ 2 ^ k := Int.le_trans (by decide) hp
  rw [fitsFix_iff]
  rcases Int.lt_or_gt_of_ne hi with h | h
  · have hle := Int.mul_le_mul_of_nonneg_right (Int.le_sub_one_of_lt h) hm
    omega
  · have hle := Int.mul_le_mul_of_nonneg_right (Int.add_one_le_of_lt h) hm
    omega

/-- A FIX word is its payload under the FIX tag. -/
theorem Word.eq_fix {w : Word} (h : w.isFix = true) : w = Word.fix w.val :=
  congrArg (Word.mk · w.val) (eq_of_beq h)

/-- R104: a divisor that exceeds every magnitude of FIX leaves the sign alone. -/
theorem ediv_of_fitsFix {i m : Int} (hi : fitsFix i = true) (hm : 2 ^ 63 ≤ m) : i / m = if i < 0 then -1 else 0 := by
  obtain ⟨hlo, hhi⟩ := fitsFix_iff.mp hi
  split
  next h => exact Int.ediv_eq_neg_one_of_neg_of_le h (by omega)
  next h => exact Int.ediv_eq_zero_of_lt (by omega) (by omega)

theorem Word.fitsFix_int (w : Word) : fitsFix w.int = true :=
  fitsFix_iff.mpr ⟨BitVec.le_toInt w.val, BitVec.toInt_lt⟩

/-- R104: SAR by more than 63 is SAR by 63. -/
theorem Word.int_div_two_pow_min (w : Word) (k : Nat) : w.int / 2 ^ min k 63 = w.int / 2 ^ k := by
  rcases Nat.le_total k 63 with h | h
  · rw [Nat.min_eq_left h]
  · rw [Nat.min_eq_right h, ediv_of_fitsFix w.fitsFix_int (Int.le_refl _),
      ediv_of_fitsFix w.fitsFix_int (two_pow_le_two_pow h)]

end Sys2Proof

namespace Sys2Proof.Machine

/-! ### Pieces of an effect -/

theorem liftE_run {α : Type} {r : Except Exc α} {a : α} (h : r = .ok a) (s : State) : liftE r s = .ok a s := by
  rw [h]; rfl

theorem liftE_raise {α : Type} {r : Except Exc α} {e : Exc} (h : r = .error e) (s : State) :
    liftE r s = .error e s := by
  rw [h]; rfl

/-- R75: the tag of a modular result. -/
theorem modTag_run {a op : Word} (ha : a.isFixRaw = true) (ho : op.isFixRaw = true) (s : State) :
    modTag a op s = .ok (if a.isFix ∧ op.isFix then Tag.fix else Tag.raw) s := by
  by_cases h : a.isFix = true ∧ op.isFix = true
  · simp [modTag, h]
  · simp [modTag, h, ha, ho]

/-! ### Modular and logical instructions (R75) -/

theorem completes_modular {c : Instr} {n : LCore} {o : PForm} {s s1 : State} {op : Word}
    {f : BitVec 64 → BitVec 64 → BitVec 64} (hc : exec c s = .next (s.modular n o f))
    (hi : issues s n false (illP o .wi) o.guard = true) (hop : operand n o (s.settleDiv n) = .ok op s1)
    (ha : (s1.cur n).a.isFixRaw = true) (ho : op.isFixRaw = true) :
    completes c s ((withA s1 n
      ⟨if (s1.cur n).a.isFix ∧ op.isFix then Tag.fix else Tag.raw, f (s1.cur n).a.val op.val⟩).retire n) := by
  refine completes_of_body hc hi ?_
  rw [M.bind_ok (settleM_run n s), M.bind_ok hop, M.bind_ok (getCur_run n s1), M.bind_ok (modTag_run ha ho s1)]
  rfl

theorem completes_unary {c : Instr} {n : LCore} {o : XNForm} {s : State} {f : BitVec 64 → BitVec 64}
    (hc : exec c s = .next (s.unary n o f))
    (hi : issues s n false (illXN o) o.guard = true) (ha : ((s.settleDiv n).cur n).a.isFixRaw = true) :
    completes c s ((withA (s.settleDiv n) n
      ⟨((s.settleDiv n).cur n).a.tag, f ((s.settleDiv n).cur n).a.val⟩).retire n) := by
  refine completes_of_body hc hi ?_
  rw [M.bind_ok (settleM_run n s), M.bind_ok (getCur_run n _)]
  simp only [ha, Bool.not_true, Bool.false_eq_true, if_false]
  rfl

/-- Each row of the table is `State.modular` on its function. -/
theorem exec_modularRow {r : (LCore → PForm → Instr) × (BitVec 64 → BitVec 64 → BitVec 64)} (hr : r ∈ modularRows)
    (n : LCore) (o : PForm) (s : State) : exec (r.1 n o) s = .next (s.modular n o r.2) := by
  simp only [modularRows, List.mem_cons, List.not_mem_nil, or_false] at hr
  obtain rfl | rfl | rfl | rfl | rfl | rfl := hr <;> rfl

theorem exec_negm (n : LCore) (o : XNForm) (s : State) : exec (.negm n o) s = .next (s.unary n o (fun v => 0 - v)) := by
  simp only [BitVec.ofNat_eq_ofNat, BitVec.zero_sub]
  rfl

theorem exec_not (n : LCore) (o : XNForm) (s : State) :
    exec (.not n o) s = .next (s.unary n o (fun v => v ^^^ BitVec.allOnes 64)) := by
  simp only [BitVec.xor_allOnes]
  rfl

theorem modularAndLogical_holds : modularAndLogical := by
  refine ⟨fun r hr n o s s1 op hi hop ha ho => completes_modular (exec_modularRow hr n o s) hi hop ha ho, ?_⟩
  intro r hr n o s hi ha
  simp only [List.mem_cons, List.not_mem_nil, or_false] at hr
  obtain rfl | rfl := hr
  · exact completes_unary (exec_negm n o s) hi ha
  · exact completes_unary (exec_not n o s) hi ha

/-! ### What a shift leaves in A (R104) -/

theorem ofNat_64_le_natCast (k : Nat) : (64 : Int) ≤ k ↔ 64 ≤ k := by omega

section shiftWords

variable (a : Word) (k : Nat)

theorem shrWord_natCast : shrWord a k = .ok ⟨a.tag, BitVec.ofNat 64 (a.val.toNat / 2 ^ k)⟩ := by
  have hv : (if 64 ≤ k then 0#64 else a.val >>> k) = BitVec.ofNat 64 (a.val.toNat / 2 ^ k) := by
    rw [← Nat.shiftRight_eq_div_pow, ← BitVec.toNat_ushiftRight, BitVec.ofNat_toNat, BitVec.setWidth_eq]
    split
    next h => exact (BitVec.ushiftRight_eq_zero h).symm
    next => rfl
  simp only [shrWord, Int.not_ofNat_neg, if_false, Int.toNat_natCast, ofNat_64_le_natCast, hv]

theorem sarWord_natCast : sarWord a k = .ok ⟨a.tag, BitVec.ofInt 64 (a.val.toInt / 2 ^ k)⟩ := by
  have hv : a.val.sshiftRight (min k 63) = BitVec.ofInt 64 (a.val.toInt / 2 ^ k) := by
    rw [BitVec.sshiftRight, Int.shiftRight_eq_div_pow, Int.natCast_pow]
    exact congrArg (BitVec.ofInt 64) (a.int_div_two_pow_min k)
  simp only [sarWord, Int.not_ofNat_neg, if_false, Int.toNat_natCast, hv]

theorem rolWord_natCast : rolWord a k = .ok ⟨a.tag, a.val <<< (k % 64) ||| a.val >>> (64 - k % 64)⟩ := by
  have hv : a.val.rotateLeft (k % 64) = a.val <<< (k % 64) ||| a.val >>> (64 - k % 64) :=
    BitVec.rotateLeft_eq_rotateLeftAux_of_lt (Nat.mod_lt k (by decide))
  simp only [rolWord, Int.not_ofNat_neg, if_false, Int.toNat_natCast, hv]

variable {a} {k}

theorem shlWord_natCast_of_raw (h : a.tag = Tag.raw) :
    shlWord a k = .ok (Word.raw (BitVec.ofNat 64 (a.val.toNat * 2 ^ k))) := by
  have hf : a.isFix = false := by simp [Word.isFix, h, Tag.raw, Tag.fix]
  have hv : (if 64 ≤ k then 0#64 else a.val <<< k) = BitVec.ofNat 64 (a.val.toNat * 2 ^ k) := by
    rw [← Nat.shiftLeft_eq]
    split
    next h => exact (BitVec.shiftLeft_eq_zero h).symm
    next => rfl
  simp only [shlWord, Int.not_ofNat_neg, if_false, Int.toNat_natCast, ofNat_64_le_natCast, hf, hv, h,
    Bool.false_eq_true, Word.raw]

/-- SHL of a FIX is the exact product, or OVF where that is no FIX. -/
theorem shlWord_natCast_of_fix (h : a.isFix = true) :
    shlWord a k = if fitsFix (a.int * 2 ^ k) = true then .ok (Word.fix (BitVec.ofInt 64 (a.int * 2 ^ k)))
      else .error { vec := vOvf } := by
  simp only [shlWord, Int.not_ofNat_neg, if_false, Int.toNat_natCast, ofNat_64_le_natCast, h, if_true]
  by_cases hk : 64 ≤ k
  · by_cases h0 : a.val = 0#64
    · have hi : a.int = 0 := Word.int_eq_zero_iff.mpr h0
      rw [if_pos hk, if_pos h0, hi, Int.zero_mul, if_pos (by decide), Word.eq_fix h, h0]
      rfl
    · rw [if_pos hk, if_neg h0, if_neg (not_fitsFix_mul_two_pow (mt Word.int_eq_zero_iff.mp h0) hk)]
  · simp only [if_neg hk, fitsFix_iff]

end shiftWords

/-! ### Shifts (R104) -/

section shift

variable {c : Instr} {n : LCore} {o : PForm} {f : Word → Int → Except Exc Word} {s s1 : State} {op : Word}
  (hc : exec c s = .next (s.shift n o f)) (hi : issues s n false (illP o .wi) o.guard = true)
  (hop : operand n o (s.settleDiv n) = .ok op s1) (ha : (s1.cur n).a.isFixRaw = true) (ho : op.isFix = true)

include hc hi hop ha ho

theorem completes_shift {w : Word} (hf : f (s1.cur n).a op.int = .ok w) :
    completes c s ((withA s1 n w).retire n) := by
  refine completes_of_body hc hi ?_
  rw [M.bind_ok (settleM_run n s), M.bind_ok hop, M.bind_ok (getCur_run n s1)]
  simp only [ha, ho, Bool.not_true, Bool.or_self, Bool.false_eq_true, if_false]
  rw [M.bind_ok (liftE_run hf s1)]
  rfl

theorem trapped_shift {e : Exc} (hf : f (s1.cur n).a op.int = .error e) : trapped c s s1 n e := by
  refine trapped_of_body hc hi ?_
  rw [M.bind_ok (settleM_run n s), M.bind_ok hop, M.bind_ok (getCur_run n s1)]
  simp only [ha, ho, Bool.not_true, Bool.or_self, Bool.false_eq_true, if_false]
  exact M.bind_error (liftE_raise hf s1)

end shift

/-- SHR, SAR and ROL are shifts whose count of 0 or more leaves what their row says. -/
theorem exec_shiftRow {r : (LCore → PForm → Instr) × (BitVec 64 → Nat → BitVec 64)} (hr : r ∈ Sys2Proof.shiftRows)
    (n : LCore) (o : PForm) (s : State) :
    ∃ f, exec (r.1 n o) s = .next (s.shift n o f) ∧ ∀ (a : Word) (k : Nat), f a k = .ok ⟨a.tag, r.2 a.val k⟩ := by
  simp only [Sys2Proof.shiftRows, List.mem_cons, List.not_mem_nil, or_false] at hr
  obtain rfl | rfl | rfl := hr
  · exact ⟨shrWord, rfl, shrWord_natCast⟩
  · exact ⟨sarWord, rfl, sarWord_natCast⟩
  · exact ⟨rolWord, rfl, rolWord_natCast⟩

/-- Every shift refuses a negative count. -/
theorem exec_shift_negative {i : LCore → PForm → Instr} (hi : i ∈ [Instr.shl, Instr.shr, Instr.sar, Instr.rol])
    (n : LCore) (o : PForm) (s : State) :
    ∃ f, exec (i n o) s = .next (s.shift n o f) ∧ ∀ (a : Word) (c : Int), c < 0 → f a c = .error { vec := vShc } := by
  simp only [List.mem_cons, List.not_mem_nil, or_false] at hi
  obtain rfl | rfl | rfl | rfl := hi
  · exact ⟨shlWord, rfl, fun _ _ h => if_pos h⟩
  · exact ⟨shrWord, rfl, fun _ _ h => if_pos h⟩
  · exact ⟨sarWord, rfl, fun _ _ h => if_pos h⟩
  · exact ⟨rolWord, rfl, fun _ _ h => if_pos h⟩

theorem shifts_holds : shifts := by
  intro n o s s1 op hi hop ha ho
  refine ⟨fun h0 r hr => ?_, fun h0 ht => ?_, fun h0 hx hfit => ?_, fun h0 hx hfit => ?_, fun hneg i hmem => ?_⟩
  · obtain ⟨f, hc, hf⟩ := exec_shiftRow hr n o s
    exact completes_shift hc hi hop ha ho (by rw [Word.int_of_nonneg h0, hf])
  · exact completes_shift rfl hi hop ha ho (by rw [Word.int_of_nonneg h0, shlWord_natCast_of_raw ht])
  · exact completes_shift rfl hi hop ha ho (by rw [Word.int_of_nonneg h0, shlWord_natCast_of_fix hx, if_pos hfit])
  · refine trapped_shift rfl hi hop ha ho ?_
    rw [Word.int_of_nonneg h0, shlWord_natCast_of_fix hx, if_neg (Bool.eq_false_iff.mp hfit)]
  · obtain ⟨f, hc, hf⟩ := exec_shift_negative hmem n o s
    exact trapped_shift hc hi hop ha ho (hf _ _ hneg)

/-- Settles O1: the table's instructions run one shape each, `State.modular`, `State.unary` and `State.shift`; a shift is
then its function on words, read at a count that is a natural number. -/
theorem modularLogicalAndShifts : Obligations.ModularLogicalAndShifts := ⟨modularAndLogical_holds, shifts_holds⟩

/-! ### The integer operations of a generic instruction (R76, R102) -/

section intOp

variable {g : GOp} {a b : Int}

theorem intOp_by_zero (hg : g = .div ∨ g = .rem) : intOp g a 0 = .error { vec := vDz } := by
  obtain rfl | rfl := hg <;> rfl

theorem intOp_div (hb : b ≠ 0) : intOp .div a b = if fitsFix (a.tdiv b) = true then
    .ok (.divided (Word.fix (BitVec.ofInt 64 (a.tdiv b))) (some (Word.fix (BitVec.ofInt 64 (a.tmod b)))))
    else .error { vec := vOvf } := by
  simp only [intOp, if_neg hb, fitsFix_iff]

theorem intOp_rem (hb : b ≠ 0) :
    intOp .rem a b = .ok (.divided (Word.fix (BitVec.ofInt 64 (a.tmod b))) none) := if_neg hb

end intOp

/-! ### A generic instruction on two FIX operands (R98, R117) -/

section generic

variable {n bank : Nat} {g : GOp} {m : M (Word × Option Heal)} {s s1 s2 : State} {op : Word} {h : Option Heal}

/-- R116: an instruction whose A is FIX is no FP instruction. -/
theorem fpPair_of_fix {gd : Guard} (ha : ((s.settleDiv n).cur n).a.isFix = true) : fpPair n gd m s = false := by
  have hf : ((s.settleDiv n).cur n).a.isFlt = false := by
    rw [Word.eq_fix ha]; rfl
  simp only [fpPair, hf, Bool.and_false, Bool.false_and]

/-- A generic instruction that begins afresh reads its operand and dispatches, under no recorded entry. -/
theorem genericM_of_fresh (hf : fresh (s.settleDiv n) n = true) (hop : m (s.settleDiv n) = .ok (op, h) s1) :
    genericM n bank g m s = dispatch n bank g (s1.cur n).a op h { entries := [] } s1 := by
  obtain ⟨hr, hs⟩ := Bool.and_eq_true_iff.mp hf
  rw [Option.isNone_iff_eq_none] at hr
  rw [resumes, Bool.not_eq_true'] at hs
  unfold genericM
  rw [M.bind_ok (settleM_run n s), M.bind_ok (M.get_run _)]
  simp only [hr, hs, Bool.false_and, Bool.false_eq_true, if_false]
  rw [M.bind_ok hop]
  rfl

/-- R117: two FIX operands take the fast path. -/
theorem dispatch_of_fix {a : Word} {x : RunCtx} (ha : a.isFix = true) (hb : op.isFix = true) :
    dispatch n bank g a op h x s1 = (liftE (intOp g a.int op.int) >>= fun r => finishGeneric n h r 0) s1 := by
  unfold dispatch
  rw [M.bind_ok (M.get_run s1)]
  simp only [ha, hb, Bool.and_self, if_true]

/-- R76: a divide leaves its results to the divider, heals its operand and retires. -/
theorem finishGeneric_divided {a : Word} {y : Option Word}
    (hh : healM n h {} (s1.setCore n { s1.core n with divider := some { a := a, y := y } }) = .ok () s2) :
    finishGeneric n h (.divided a y) 0 s1 = .ok () (s2.retire n) := by
  change (divResult n a y >>= fun _ => healM n h >>= fun _ => retireM n) s1 = _
  rw [divResult, M.bind_ok (M.act_run _ s1), M.bind_ok hh]
  rfl

variable {c : Instr} {o : PForm} (hc : exec c s = .next (s.generic n o g))
  (hi : issues s n false (illP o .wi) o.guard = true) (hf : fresh (s.settleDiv n) n = true)
  (hop : operandBar n o (s.settleDiv n) = .ok (op, h) s1) (h0 : ((s.settleDiv n).cur n).a.isFix = true)
  (ha : (s1.cur n).a.isFix = true) (hb : op.isFix = true)

include hc hi hf hop h0 ha hb

/-- DIV or REM whose integer operation answers. -/
theorem completes_divided {a : Word} {y : Option Word}
    (hr : intOp g (s1.cur n).a.int op.int = .ok (.divided a y))
    (hh : healM n h {} (s1.setCore n { s1.core n with divider := some { a := a, y := y } }) = .ok () s2) :
    completes c s (s2.retire n) := by
  refine completes_of_body hc (by rw [fpPair_of_fix h0]; exact hi) ?_
  rw [genericM_of_fresh hf hop, dispatch_of_fix ha hb, M.bind_ok (liftE_run hr s1)]
  exact finishGeneric_divided hh

/-- A generic instruction on two FIX operands whose integer operation raises. -/
theorem trapped_intOp {e : Exc} (hr : intOp g (s1.cur n).a.int op.int = .error e) : trapped c s s1 n e := by
  refine trapped_of_body hc (by rw [fpPair_of_fix h0]; exact hi) ?_
  rw [genericM_of_fresh hf hop, dispatch_of_fix ha hb]
  exact M.bind_error (liftE_raise hr s1)

end generic

/-! ### DIVM (R75, R102) -/

section divm

variable {n : LCore} {o : PForm} {s s1 : State} {op : Word}
  (hi : issues s n false (illP o .wi) o.guard = true) (hop : operand n o (s.settleDiv n) = .ok op s1)
  (ha : (s1.cur n).a.isFixRaw = true) (ho : op.isFixRaw = true)

include hi hop ha ho

theorem completes_divm (h0 : op.val ≠ 0#64) :
    completes (.divm n o) s ((s1.setCore n { s1.core n with divider := some {
      a := ⟨if (s1.cur n).a.isFix ∧ op.isFix then Tag.fix else Tag.raw,
            BitVec.ofInt 64 ((s1.cur n).a.int.tdiv op.int)⟩
      y := some (Word.fix (BitVec.ofInt 64 ((s1.cur n).a.int.tmod op.int))) } }).retire n) := by
  refine completes_of_body rfl hi ?_
  rw [M.bind_ok (settleM_run n s), M.bind_ok hop, M.bind_ok (getCur_run n s1), M.bind_ok (modTag_run ha ho s1),
    M.check_run, if_neg h0]
  rfl

theorem trapped_divm (h0 : op.val = 0#64) : trapped (.divm n o) s s1 n { vec := vDz } := by
  refine trapped_of_body rfl hi ?_
  rw [M.bind_ok (settleM_run n s), M.bind_ok hop, M.bind_ok (getCur_run n s1), M.bind_ok (modTag_run ha ho s1),
    M.check_run, if_pos h0]

end divm

/-! ### The divider's end (R76, R101) -/

theorem Core.settle_of_divider {c : Core} {d : DivJob} (h : c.divider = some d) :
    c.settle = { c.setBank c.curId { c.cur with a := d.a, y := d.y.getD c.cur.y } with divider := none } := by
  rw [Core.settle, h]

theorem State.cur_settleDiv {s : State} {n : Nat} {d : DivJob} (hs : SMap.sorted s.cores = true)
    (h : (s.core n).divider = some d) :
    (s.settleDiv n).cur n = { s.cur n with a := d.a, y := d.y.getD (s.cur n).y } := by
  rw [State.settleDiv, State.cur_setCore_same hs, Core.settle_of_divider h]
  exact Core.cur_setBank_curId _ _

theorem State.divider_settleDiv {s : State} {n : Nat} {d : DivJob} (hs : SMap.sorted s.cores = true)
    (h : (s.core n).divider = some d) : ((s.settleDiv n).core n).divider = none := by
  rw [State.settleDiv, State.core_setCore_same hs, Core.settle_of_divider h]

/-- Settles O3: DIV and REM on FIX operands are `intOp`, DIVM has its own effect, and DIVIDE_DONE is `State.settleDiv`. -/
theorem division : Obligations.Division := by
  refine ⟨?_, ?_, ?_⟩
  · intro n o s s1 s2 op h hi hf hop h0 ha hb
    refine ⟨fun hz => ⟨?_, ?_⟩, fun hz hfit => ?_, fun hz hfit hh => ?_, fun hz hh => ?_⟩
    · refine trapped_intOp (g := .div) rfl hi hf hop h0 ha hb ?_
      rw [Word.int_eq_zero_iff.mpr hz, intOp_by_zero (.inl rfl)]
    · refine trapped_intOp (g := .rem) rfl hi hf hop h0 ha hb ?_
      rw [Word.int_eq_zero_iff.mpr hz, intOp_by_zero (.inr rfl)]
    · refine trapped_intOp (g := .div) rfl hi hf hop h0 ha hb ?_
      rw [intOp_div (mt Word.int_eq_zero_iff.mp hz), if_neg (Bool.eq_false_iff.mp hfit)]
    · refine completes_divided (g := .div) rfl hi hf hop h0 ha hb ?_ hh
      rw [intOp_div (mt Word.int_eq_zero_iff.mp hz), if_pos hfit]
    · exact completes_divided (g := .rem) rfl hi hf hop h0 ha hb (intOp_rem (mt Word.int_eq_zero_iff.mp hz)) hh
  · exact fun n o s s1 op hi hop ha ho => ⟨trapped_divm hi hop ha ho, completes_divm hi hop ha ho⟩
  · intro n s d hs hd
    have hc := State.mapsOk_cores hs
    have hcur := State.cur_settleDiv hc hd
    refine ⟨s.settleDiv n, rfl, ?_⟩
    rw [hcur]
    exact ⟨rfl, rfl, State.divider_settleDiv hc hd, rfl, rfl, rfl, rfl, rfl, fun k hk => State.core_setCore_other hk⟩

end Sys2Proof.Machine
end

section
/-! PROOFS. Exceptions: entry to the shadow bank and to the double-fault bank, and the checkstop (R172, R173, R176, R177). -/

namespace Sys2Proof.Machine

/-! ### Bits and fields after a field is written -/

theorem getLsbD_putBits (v : BitVec 64) (lo w x i : Nat) :
    (putBits v lo w x).getLsbD i =
      if lo ≤ i ∧ i < lo + w then decide (i < 64) && x.testBit (i - lo) else v.getLsbD i := by
  have hm : ((2 ^ w - 1) * 2 ^ lo).testBit i = decide (lo ≤ i ∧ i < lo + w) := by
    rw [Nat.testBit_mul_two_pow, Nat.testBit_two_pow_sub_one, ← Bool.decide_and, decide_eq_decide]
    omega
  have hx : (x % 2 ^ w * 2 ^ lo).testBit i = (decide (lo ≤ i ∧ i < lo + w) && x.testBit (i - lo)) := by
    rw [Nat.testBit_mul_two_pow, Nat.testBit_mod_two_pow, ← Bool.and_assoc, ← Bool.decide_and]
    congr 1
    rw [decide_eq_decide]
    omega
  simp only [putBits, BitVec.getLsbD_or, BitVec.getLsbD_and, BitVec.getLsbD_not, BitVec.getLsbD_ofNat, hm, hx]
  split
  · next h => simp [h]
  · next h => simpa [h] using BitVec.lt_of_getLsbD

theorem bit_putBit_same {v : BitVec 64} {i : Nat} {b : Bool} (h : i < 64) : bit (putBit v i b) i = b := by
  rw [bit, putBit, getLsbD_putBits, if_pos (by omega)]
  cases b <;> simp [h]

theorem bit_putBit_other {v : BitVec 64} {i j : Nat} {b : Bool} (h : j ≠ i) : bit (putBit v i b) j = bit v j := by
  rw [bit, putBit, getLsbD_putBits, if_neg (by omega), bit]

theorem testBit_bits (v : BitVec 64) (lo w i : Nat) :
    (bits v lo w).testBit i = (decide (i < w) && v.getLsbD (i + lo)) := by
  rw [bits, Nat.testBit_mod_two_pow, Nat.testBit_div_two_pow, BitVec.getLsbD]

theorem bits_putBits {v : BitVec 64} {lo w x : Nat} (h : lo + w ≤ 64) : bits (putBits v lo w x) lo w = x % 2 ^ w := by
  refine Nat.eq_of_testBit_eq fun i => ?_
  rw [testBit_bits, Nat.testBit_mod_two_pow, getLsbD_putBits]
  by_cases hi : i < w
  · rw [if_pos (by omega)]
    simp [hi, show i + lo < 64 by omega]
  · simp [hi]

theorem bits_putBit_below {v : BitVec 64} {lo w i : Nat} {b : Bool} (h : i < lo) :
    bits (putBit v i b) lo w = bits v lo w := by
  refine Nat.eq_of_testBit_eq fun k => ?_
  rw [testBit_bits, testBit_bits, putBit, getLsbD_putBits, if_neg (by omega)]

/-! ### Registers that the trace unit, an event source and the fault collector leave (R478, R487, R520) -/

theorem State.mapsOk_regs {s : State} (h : s.mapsOk = true) : SMap.sorted s.regs = true := by
  simp only [State.mapsOk, Bool.and_eq_true, and_assoc] at h
  obtain ⟨_, hr, _⟩ := h
  exact hr

theorem State.reg_of_regs {s t : State} (h : t.regs = s.regs) (j : Nat) : t.reg j = s.reg j :=
  congrArg (SMap.get (regDefault j) · j) h

/-- R520: a packet leaves every register, or counts its loss in TRC_STAT. -/
theorem State.emit_regs (s : State) (ty src : Nat) (ws : List (BitVec 64)) :
    (s.emit ty src ws).regs = s.regs ∨
      (s.emit ty src ws).regs = ((s.countSat Reg.trcStat 32 32).setFlag Reg.trcStat 0 true).regs := by
  unfold State.emit
  simp only
  split <;> split
  · exact .inl rfl
  · exact .inr rfl
  · exact .inl rfl
  · exact .inr rfl

theorem State.reg_emit_other {s : State} {ty src j : Nat} {ws : List (BitVec 64)} (hj : j ≠ Reg.trcStat) :
    (s.emit ty src ws).reg j = s.reg j := by
  obtain h | h := s.emit_regs ty src ws
  · exact State.reg_of_regs h j
  · rw [State.reg_of_regs h j, State.reg_setFlag_other hj, State.countSat, State.reg_setFld_other hj]

theorem State.emit_sorted {s : State} {ty src : Nat} {ws : List (BitVec 64)} (hs : SMap.sorted s.regs = true) :
    SMap.sorted (s.emit ty src ws).regs = true := by
  obtain h | h := s.emit_regs ty src ws
  · rw [h]; exact hs
  · rw [h]; exact State.setFlag_sorted (State.setFld_sorted hs)

theorem State.reg_raise_other {s : State} {src j : Nat} (ht : j ≠ Reg.trcStat) (hp : j ≠ Reg.evPend (src / 64)) :
    (s.raise src).reg j = s.reg j := by
  unfold State.raise
  simp only
  split
  · rw [State.reg_emit_other ht, State.reg_setFlag_other hp]
  · exact State.reg_setFlag_other hp

theorem State.raise_sorted {s : State} {src : Nat} (h : SMap.sorted s.regs = true) :
    SMap.sorted (s.raise src).regs = true := by
  unfold State.raise
  simp only
  split
  · exact State.emit_sorted (State.setFlag_sorted h)
  · exact State.setFlag_sorted h

theorem State.setEv_sorted {s : State} {off i src : Nat} (h : SMap.sorted s.regs = true) :
    SMap.sorted (s.setEv off i src).regs = true := State.raise_sorted (State.setFlag_sorted h)

theorem State.setCapture_sorted {s : State} {c : Nat} {f : FaultArg} (h : SMap.sorted s.regs = true) :
    SMap.sorted (s.setCapture c f).regs = true :=
  State.setReg_sorted (State.setReg_sorted (State.setReg_sorted h))

theorem State.capture_sorted {s : State} {c : Nat} {f : FaultArg} (h : SMap.sorted s.regs = true) :
    SMap.sorted (s.capture c f).regs = true := by
  unfold State.capture
  split
  · split
    · exact State.setEv_sorted (State.setCapture_sorted h)
    · exact State.setEv_sorted h
  · exact State.setEv_sorted (State.setCapture_sorted h)

/-- A register that recording a fault of class `c` leaves: none of the class's record, FC_STAT, TRC_STAT or EV_PEND. -/
def Reg.outsideRecord (c j : Nat) : Prop :=
  j ≠ Reg.fcAddr c ∧ j ≠ Reg.fcInfo c ∧ j ≠ Reg.fcTime c ∧ j ≠ Reg.fcStat ∧ j ≠ Reg.trcStat ∧
    ∀ k, j ≠ Reg.evPend k

theorem Reg.outsideRecord_fcCnt (c : Nat) : Reg.outsideRecord c Reg.fcCnt := by
  refine ⟨?_, ?_, ?_, ?_, ?_, fun k => ?_⟩ <;>
    simp only [Reg.fcCnt, Reg.fcAddr, Reg.fcInfo, Reg.fcTime, Reg.fcStat, Reg.trcStat, Reg.evPend] <;> omega

theorem Reg.outsideRecord_fcEsc {c k : Nat} (hc : c < 4) (hk : k < 4) : Reg.outsideRecord c (Reg.fcEsc k) := by
  refine ⟨?_, ?_, ?_, ?_, ?_, fun i => ?_⟩ <;>
    simp only [Reg.fcEsc, Reg.fcAddr, Reg.fcInfo, Reg.fcTime, Reg.fcStat, Reg.trcStat, Reg.evPend] <;> omega

section
variable {s : State} {c j : Nat} {f : FaultArg} (h : Reg.outsideRecord c j)
include h

theorem State.reg_setCapture_other : (s.setCapture c f).reg j = s.reg j := by
  obtain ⟨ha, hi, ht, _⟩ := h
  simp only [State.setCapture]
  rw [State.reg_setReg_other ht, State.reg_setReg_other hi, State.reg_setReg_other ha]

theorem State.reg_setEv_fcStat {i src : Nat} : (s.setEv Reg.fcStat i src).reg j = s.reg j := by
  obtain ⟨_, _, _, hs, ht, hp⟩ := h
  rw [State.setEv, State.reg_raise_other ht (hp _), State.reg_setFlag_other hs]

theorem State.reg_capture_other : (s.capture c f).reg j = s.reg j := by
  unfold State.capture
  split
  · rw [State.reg_setEv_fcStat h]
    split
    · exact State.reg_setCapture_other h
    · rfl
  · rw [State.reg_setEv_fcStat h, State.reg_setCapture_other h]

end

/-! ### A fault that stops nothing (R473, R474) -/

/-- FC_CNT's field of the class: one more, up to its highest value. -/
theorem State.fld_countSat {s : State} {off lo w : Nat} (hs : SMap.sorted s.regs = true) (h : lo + w ≤ 64) :
    (s.countSat off lo w).fld off lo w = min (s.fld off lo w + 1) (2 ^ w - 1) := by
  have hp : 0 < 2 ^ w := Nat.two_pow_pos w
  rw [State.countSat, State.fld, State.setFld, State.reg_setReg_same hs, bits_putBits h]
  exact Nat.mod_eq_of_lt (by omega)

theorem State.escalated_counted {s : State} {c src : Nat} {f : FaultArg} (hc : c < 4) (hsrc : src < 256) :
    ((s.capture c f).countClass c).escalated src = s.escalated src := by
  have hcnt : Reg.fcEsc (src / 64) ≠ Reg.fcCnt := by simp only [Reg.fcEsc, Reg.fcCnt]; omega
  rw [State.escalated, State.flag, State.countClass, State.countSat, State.reg_setFld_other hcnt,
    State.reg_capture_other (Reg.outsideRecord_fcEsc hc (by omega))]
  rfl

/-- R474: a fault that is neither GRAVE nor escalated is recorded and counted, and nothing reacts to it. -/
theorem State.fault_of_not_escalated {s : State} {f : FaultArg} (hc : srcClass f.src < 3) (hsrc : f.src < 256)
    (he : s.escalated f.src = false) : s.fault f = (s.capture (srcClass f.src) f).countClass (srcClass f.src) := by
  have hk := (State.escalated_counted (s := s) (f := f) (show srcClass f.src < 4 by omega) hsrc).trans he
  simp [State.fault, hk, show srcClass f.src ≠ 3 by omega]

/-! ### A checkstop with nothing left to drain (R177, R282) -/

theorem Core.sq_nil {c : Core} (h : c.sq = []) : { c with sq := [] } = c := by
  rw [← h]

theorem Core.nt_nil {c : Core} (h : c.nt = []) : { c with nt := [] } = c := by
  rw [← h]

theorem State.drainStores_nil {s : State} {n : Nat} (h : (s.core n).sq = []) :
    s.drainStores n = s.setCore n (s.core n) := by
  simp only [State.drainStores, h, State.drainList, Core.sq_nil h]

theorem State.ntFlush_nil {s : State} {n : Nat} {f : NtEntry → Bool} (h : (s.core n).nt = []) :
    s.ntFlush n f = s.setCore n (s.core n) := by
  simp only [State.ntFlush, h, List.filter_nil, List.foldl_nil, Core.nt_nil h]

/-- The core as a checkstop leaves it. -/
def Core.checkstopped (c : Core) : Core :=
  { c with run := .checkstopped, resv := none, divider := none, atLimit := false, routine := none }

/-- The state of a checkstop before its fault is raised. -/
def State.coreStopped (s : State) (n : Nat) : State := (s.drainAll n).setCore n ((s.drainAll n).core n).checkstopped

section
variable {s : State} {n : Nat}

theorem State.drainAll_nil (hs : SMap.sorted s.cores = true) (hq : (s.core n).sq = []) (hn : (s.core n).nt = []) :
    s.drainAll n = (s.setCore n (s.core n)).setCore n (s.core n) := by
  have hc := State.core_setCore_same (n := n) (c := s.core n) hs
  rw [State.drainAll, State.drainStores_nil hq, State.ntFlush_nil (by rw [hc]; exact hn), hc]

section
variable (hs : SMap.sorted s.cores = true) (hq : (s.core n).sq = []) (hn : (s.core n).nt = [])
include hs hq hn

theorem State.coreStopped_regs : (s.coreStopped n).regs = s.regs := by
  rw [State.coreStopped, State.drainAll_nil hs hq hn]; rfl

theorem State.coreStopped_mem : (s.coreStopped n).mem = s.mem := by
  rw [State.coreStopped, State.drainAll_nil hs hq hn]; rfl

theorem State.coreStopped_core : (s.coreStopped n).core n = (s.core n).checkstopped := by
  have h := State.setCore_sorted (n := n) (c := s.core n) hs
  rw [State.coreStopped, State.drainAll_nil hs hq hn, State.core_setCore_same (State.setCore_sorted h),
    State.core_setCore_same h]

variable (he : s.escalated 0x03 = false)
include he

/-- A checkstop raises its physical core's source, and source 0x03 is recorded and counted in its class, 2. -/
theorem State.checkstop_eq :
    ∃ (p : Nat) (f : FaultArg), s.checkstop n = (((s.coreStopped n).raise p).capture 2 f).countClass 2 := by
  have hk (p : Nat) : ((s.coreStopped n).raise p).escalated 0x03 = false := by
    rw [State.escalated, State.flag,
      State.reg_raise_other (by decide) (by simp only [Reg.fcEsc, Reg.evPend]; omega),
      State.reg_of_regs (State.coreStopped_regs hs hq hn)]
    exact he
  exact ⟨_, _, State.fault_of_not_escalated (show srcClass 0x03 < 3 by decide) (show 0x03 < 256 by decide) (hk _)⟩

theorem State.checkstop_core : (s.checkstop n).core n = (s.core n).checkstopped := by
  obtain ⟨p, f, h⟩ := State.checkstop_eq hs hq hn he
  rw [h, ← State.coreStopped_core hs hq hn]
  exact State.core_of_cores (by simp) n

theorem State.checkstop_mem : (s.checkstop n).mem = s.mem := by
  obtain ⟨p, f, h⟩ := State.checkstop_eq hs hq hn he
  rw [h, ← State.coreStopped_mem hs hq hn]
  simp

theorem State.checkstop_fcCnt (hr : SMap.sorted s.regs = true) :
    (s.checkstop n).fld Reg.fcCnt 32 16 = min (s.fld Reg.fcCnt 32 16 + 1) 65535 := by
  obtain ⟨p, f, h⟩ := State.checkstop_eq hs hq hn he
  have hv := State.coreStopped_regs hs hq hn
  have hf : (((s.coreStopped n).raise p).capture 2 f).fld Reg.fcCnt 32 16 = s.fld Reg.fcCnt 32 16 := by
    rw [State.fld, State.reg_capture_other (Reg.outsideRecord_fcCnt 2),
      State.reg_raise_other (by decide) (by simp only [Reg.fcCnt, Reg.evPend]; omega), State.reg_of_regs hv]
    rfl
  have hsr : SMap.sorted (((s.coreStopped n).raise p).capture 2 f).regs = true :=
    State.capture_sorted (State.raise_sorted (by rw [hv]; exact hr))
  have hcount := State.fld_countSat (off := Reg.fcCnt) (lo := 32) (w := 16) hsr (by decide)
  rw [hf] at hcount
  rw [h]
  exact hcount

end

end

/-! ### TARGET packets (R521) -/

theorem State.flushBranch_core_same {s : State} {n : Nat} (hs : SMap.sorted s.cores = true) :
    ∃ b, (s.flushBranch n).core n = { s.core n with brBits := b } := by
  unfold State.flushBranch
  simp only
  split
  · exact ⟨_, rfl⟩
  · exact ⟨[], (State.core_of_cores (State.emit_cores _ _ _ _) n).trans (State.core_setCore_same hs)⟩

theorem State.flushBranch_core_other {s : State} {n k : Nat} (hk : k ≠ n) : (s.flushBranch n).core k = s.core k := by
  unfold State.flushBranch
  simp only
  split
  · rfl
  · rw [State.core_of_cores (State.emit_cores _ _ _ _), State.core_setCore_other hk]

@[simp] theorem State.flushBranch_phys (s : State) (n : Nat) : (s.flushBranch n).phys = s.phys := by
  unfold State.flushBranch; simp only; split <;> simp

@[simp] theorem State.flushBranch_io (s : State) (n : Nat) : (s.flushBranch n).io = s.io := by
  unfold State.flushBranch; simp only; split <;> simp

section
variable {s : State} {n reason vec addr : Nat}

/-- A TARGET packet sends the pending branch bits first: no other part of a core knows of it. -/
theorem State.target_core_same (hs : SMap.sorted s.cores = true) :
    ∃ b, (s.target n reason vec addr).core n = { s.core n with brBits := b } := by
  unfold State.target
  split
  · rw [State.core_of_cores (State.emit_cores _ _ _ _)]
    exact State.flushBranch_core_same hs
  · exact ⟨_, rfl⟩

theorem State.target_core_other {k : Nat} (hk : k ≠ n) : (s.target n reason vec addr).core k = s.core k := by
  unfold State.target
  split
  · rw [State.core_of_cores (State.emit_cores _ _ _ _), State.flushBranch_core_other hk]
  · rfl

@[simp] theorem State.target_phys : (s.target n reason vec addr).phys = s.phys := by
  unfold State.target; split <;> simp

@[simp] theorem State.target_io : (s.target n reason vec addr).io = s.io := by
  unfold State.target; split <;> simp

end

/-! ### What the checks of a handler's address read (R170) -/

theorem State.handler_congr {s t : State} {n : Nat} (hr : t.regs = s.regs) (hm : t.mem = s.mem)
    (hv : (t.core n).vb = (s.core n).vb) (vec : Nat) : t.handler n vec = s.handler n vec := by
  have hp : t.parishOf n = s.parishOf n := by
    simp only [State.parishOf, State.flag, State.reg_of_regs hr]
  have he (p ix : Nat) : t.capEntry p ix = s.capEntry p ix := by
    simp only [State.capEntry, State.capAt, State.fld, State.reg_of_regs hr, hm]
  have hc (p : Nat) (w : Word) : t.capCurrent p w = s.capCurrent p w := by
    rw [State.capCurrent, he, State.fld, State.reg_of_regs hr]
    rfl
  simp only [State.handler, hp, hv, he, hc]

/-! ### The state in which an exception is taken (R76, R210, R519) -/

/-- The counters are registers: they take no part in what a core is. -/
theorem State.pmc_setCore (s : State) (n : Nat) (c : Core) (p ev : Nat) :
    (s.setCore n c).pmc p ev = (s.pmc p ev).setCore n c := by
  unfold State.pmc State.pmcN
  refine List.foldl_hom (fun t : State => t.setCore n c) fun t i => ?_
  by_cases h : ev ≠ 0 ∧ t.fld (Reg.pmcSel p i) 0 8 = ev
  · rw [if_pos h]; exact if_pos h
  · rw [if_neg h]; exact if_neg h

theorem State.reg_pmc_other {s : State} {p ev j : Nat} (hj : ∀ i, j ≠ Reg.pmcCnt p i) : (s.pmc p ev).reg j = s.reg j := by
  refine foldl_keeps (fun t : State => t.reg j) _ (fun t i => ?_) _ _
  split
  · exact State.reg_setFld_other (hj i)
  · rfl

/-- The core with no routine and no retry under way. -/
def Core.interrupted (c : Core) : Core := { c with routine := none, attempts := 0 }

/-- The state in which an exception finds core `n`. -/
def State.interrupted (s : State) (n : Nat) : State :=
  (s.settleDiv n).setCore n ((s.settleDiv n).core n).interrupted

theorem Core.settle_none {c : Core} (h : c.divider = none) : c.settle = c := by
  rw [Core.settle, h]

/-- R76: a divide ends in the running bank alone; in a double fault that is not the primary one. -/
theorem Core.settle_keeps (c : Core) : c.settle.df = c.df ∧ c.settle.sq = c.sq ∧ c.settle.nt = c.nt ∧
    (c.df = true → c.settle.prim = c.prim) := by
  unfold Core.settle
  split
  · exact ⟨rfl, rfl, rfl, fun _ => rfl⟩
  · cases hd : c.df <;> cases hb : c.sb <;> simp [Core.curId, Core.setBank, hd, hb]

section
variable {s : State} {n : Nat}

theorem State.core_settleDiv (hs : SMap.sorted s.cores = true) : (s.settleDiv n).core n = (s.core n).settle :=
  State.core_setCore_same hs

theorem State.interrupted_core_same (hs : SMap.sorted s.cores = true) :
    (s.interrupted n).core n = (s.core n).settle.interrupted := by
  rw [State.interrupted, State.core_setCore_same (s := s.settleDiv n) (State.setCore_sorted hs), State.core_settleDiv hs]

theorem State.interrupted_core_other {k : Nat} (hk : k ≠ n) : (s.interrupted n).core k = s.core k := by
  rw [State.interrupted, State.core_setCore_other hk, State.settleDiv, State.core_setCore_other hk]

theorem State.interrupted_sorted (hs : SMap.sorted s.cores = true) : SMap.sorted (s.interrupted n).cores = true :=
  State.setCore_sorted (State.setCore_sorted hs)

end

section
variable {s : State} {n : Nat} {e : Exc} {x : Word}

/-- The state with the exception counted (R519), in which a bank is entered. -/
def State.excCounted (s : State) (n : Nat) : State := (s.interrupted n).pmc (s.physOf n) 7

theorem State.excCounted_core_same (hs : SMap.sorted s.cores = true) (hd : (s.core n).divider = none) :
    (s.excCounted n).core n = (s.core n).interrupted := by
  rw [State.excCounted, State.core_of_cores (State.pmc_cores _ _ _), State.interrupted_core_same hs, Core.settle_none hd]

theorem State.excCounted_core_other {k : Nat} (hk : k ≠ n) : (s.excCounted n).core k = s.core k := by
  rw [State.excCounted, State.core_of_cores (State.pmc_cores _ _ _), State.interrupted_core_other hk]

theorem State.excCounted_sorted (hs : SMap.sorted s.cores = true) : SMap.sorted (s.excCounted n).cores = true := by
  rw [State.excCounted, State.pmc_cores]; exact State.interrupted_sorted hs

@[simp] theorem State.excCounted_mem : (s.excCounted n).mem = s.mem := State.pmc_mem _ _ _
@[simp] theorem State.excCounted_phys : (s.excCounted n).phys = s.phys := State.pmc_phys _ _ _
@[simp] theorem State.excCounted_io : (s.excCounted n).io = s.io := State.pmc_io _ _ _

theorem State.excCounted_regs : (s.excCounted n).regs = (s.pmc (s.physOf n) 7).regs := by
  simp only [State.excCounted, State.interrupted, State.settleDiv, State.pmc_setCore, State.setCore_regs]

/-- R172: X is drawn from the free values, or it reads nothing of the state. -/
theorem State.excX_of_free {t : State} (h : t.free = s.free) :
    t.excX e = ({ t with free := (s.excX e).1.free }, (s.excX e).2) := by
  unfold State.excX State.fresh State.freeVal
  split
  · rw [← h]
  · split
    · rw [← h]
    · rw [h]
  · rw [← h]

theorem State.excX_interrupted (hx : s.excX e = (s, x)) : (s.interrupted n).excX e = (s.interrupted n, x) := by
  have h : (s.interrupted n).free = s.free := rfl
  rw [State.excX_of_free h, hx, ← h]

end

/-! ### The bank that is entered (R172, R176) -/

/-- The core with the shadow bank entered at `a`. -/
def Core.inShadow (c : Core) (a : Nat) (e : Exc) (x y : Word) : Core :=
  { c with sb := true, resv := none, shad := c.shad.enter c.vb a e.a x y }

/-- The core with the double-fault bank entered at `a`. -/
def Core.inDouble (c : Core) (a : Nat) (x y : Word) : Core :=
  { c with df := true, resv := none, dbl := c.dbl.enter c.vb a Word.raw0 x y }

/-- R172: EM is set in the bank that is entered, and its RVKD is clear. -/
theorem Bank.enter_st (b : Bank) (vb : Word) (pc : Nat) (a x y : Word) :
    bit (b.enter vb pc a x y).st 3 = false ∧ bit (b.enter vb pc a x y).st 0 = true :=
  ⟨(bit_putBit_other (by decide)).trans (bit_putBit_same (by decide)), bit_putBit_same (by decide)⟩

/-- R172: PROG is cleared, and neither RVKD nor EM lies in it. -/
theorem Bank.enter_prog (b : Bank) (vb : Word) (pc : Nat) (a x y : Word) : (b.enter vb pc a x y).prog = 0 := by
  rw [Bank.prog, Bank.enter, bits_putBit_below (by decide), bits_putBit_below (by decide), bits_putBits (by decide),
    Nat.zero_mod]

theorem Bank.enter_breg (b : Bank) (vb : Word) (pc : Nat) (a x y : Word) (i : Nat) :
    (b.enter vb pc a x y).breg i = b.breg i := rfl

section
variable {s : State} {n a : Nat} {e : Exc} {x y : Word}

theorem State.enterShadow_core (hs : SMap.sorted s.cores = true) :
    (s.enterShadow n a e x y).core n = (s.core n).inShadow a e x y := State.core_setCore_same hs

theorem State.enterShadow_sorted (hs : SMap.sorted s.cores = true) :
    SMap.sorted (s.enterShadow n a e x y).cores = true := State.setCore_sorted hs

end

/-- A state `t` of an exception of `s` in which a bank may be entered: the exception is counted, and core `n` is `c`. -/
structure State.Entering (s : State) (n : Nat) (c : Core) (t : State) : Prop where
  sorted : SMap.sorted t.cores = true
  regs : t.regs = (s.pmc (s.physOf n) 7).regs
  mem : t.mem = s.mem
  core : t.core n = c
  vb : c.vb = (s.core n).vb

section
variable {s t : State} {n : Nat} {c : Core} {e : Exc} {x y : Word}

theorem State.entering_excCounted (hs : SMap.sorted s.cores = true) (hd : (s.core n).divider = none) :
    s.Entering n (s.core n).interrupted (s.excCounted n) :=
  ⟨State.excCounted_sorted hs, State.excCounted_regs, State.excCounted_mem, State.excCounted_core_same hs hd, rfl⟩

theorem State.entering_enterShadow (hs : SMap.sorted s.cores = true) (hd : (s.core n).divider = none) (a : Nat) :
    s.Entering n ((s.core n).interrupted.inShadow a e x y) ((s.excCounted n).enterShadow n a e x y) := by
  have h := State.excCounted_sorted (n := n) hs
  refine ⟨State.enterShadow_sorted h, State.excCounted_regs, State.excCounted_mem, ?_, rfl⟩
  rw [State.enterShadow_core h, State.excCounted_core_same hs hd]

variable (ht : s.Entering n c t)
include ht

/-- R170: the checks of a handler's address see the same tables, and the same VB. -/
theorem State.Entering.handler (vec : Nat) : t.handler n vec = (s.pmc (s.physOf n) 7).handler n vec := by
  refine State.handler_congr ht.regs (ht.mem.trans (State.pmc_mem _ _ _).symm) ?_ vec
  rw [ht.core, ht.vb, State.core_of_cores (State.pmc_cores _ _ _)]

theorem State.Entering.escalated {src : Nat} (hsrc : src < 256) : t.escalated src = s.escalated src := by
  have hj (i : Nat) : Reg.fcEsc (src / 64) ≠ Reg.pmcCnt (s.physOf n) i := by
    simp only [Reg.fcEsc, Reg.pmcCnt, Reg.core]; omega
  rw [State.escalated, State.flag, State.reg_of_regs ht.regs, State.reg_pmc_other hj]
  rfl

/-- R176: DFLT's handler passes the checks, and the core runs it in the double-fault bank. -/
theorem State.Entering.double {a : Nat} (h : (s.pmc (s.physOf n) 7).handler n vDflt = some a) :
    ∃ b, (t.enterDouble n x y).core n = { c.inDouble a x y with brBits := b } := by
  have he : t.enterDouble n x y = (t.setCore n ((t.core n).inDouble a x y)).target n 5 vDflt a := by
    simp only [State.enterDouble, ht.handler, h]; rfl
  rw [he, ht.core]
  obtain ⟨b, hb⟩ := State.target_core_same (reason := 5) (vec := vDflt) (addr := a)
    (State.setCore_sorted (n := n) (c := c.inDouble a x y) ht.sorted)
  exact ⟨b, by rw [hb, State.core_setCore_same ht.sorted]⟩

/-- R177: DFLT's handler fails them, and the core stops in the double-fault bank. -/
theorem State.Entering.checkstop (h : (s.pmc (s.physOf n) 7).handler n vDflt = none) (hq : c.sq = []) (hn : c.nt = [])
    (he : s.escalated 0x03 = false) :
    ∃ a, (t.enterDouble n x y).core n = (c.inDouble a x y).checkstopped := by
  have hd : t.enterDouble n x y = (t.setCore n ((t.core n).inDouble (t.handlerAt n vDflt) x y)).checkstop n := by
    simp only [State.enterDouble, ht.handler, h]; rfl
  have hc := State.core_setCore_same (n := n) (c := c.inDouble (t.handlerAt n vDflt) x y) ht.sorted
  refine ⟨t.handlerAt n vDflt, ?_⟩
  rw [hd, ht.core, State.checkstop_core (State.setCore_sorted ht.sorted) (by rw [hc]; exact hq) (by rw [hc]; exact hn)
    ((ht.escalated (by decide)).trans he), hc]

end

/-- R176: where an exception outside a double fault goes; `double` where it may not go to the shadow bank. -/
def State.enterBank (s : State) (n : Nat) (double : Bool) (e : Exc) (x y : Word) : State :=
  if double then s.enterDouble n x y
  else
    let a := (s.handler n e.vec).getD (s.handlerAt n e.vec)
    if (s.handler n e.vec).isSome then (s.enterShadow n a e x y).target n 5 e.vec a
    else (s.enterShadow n a e x y).enterDouble n x y

/-- R176, R177: in a double fault the core stops; any other exception is counted and enters a bank. -/
theorem State.takeExc_eq_ite (s : State) (n : Nat) (sync : Bool) (e : Exc) :
    s.takeExc n sync e =
      if ((s.settleDiv n).core n).df = true then (s.interrupted n).checkstop n
      else
        (((s.interrupted n).excX e).1.pmc (((s.interrupted n).excX e).1.physOf n) 7).enterBank n
          (sync && (((s.settleDiv n).core n).sb || ((s.settleDiv n).core n).em)) e ((s.interrupted n).excX e).2
          (causeWord e ((s.settleDiv n).core n).curId) := rfl

section
variable {s : State} {n : Nat} {sync : Bool} {e : Exc} {x : Word}
variable (hs : SMap.sorted s.cores = true) (hdf : (s.core n).df = false) (hd : (s.core n).divider = none)
  (hx : s.excX e = (s, x))
include hs hdf hd hx

theorem State.takeExc_eq : s.takeExc n sync e =
    (s.excCounted n).enterBank n (sync && ((s.core n).sb || (s.core n).em)) e x (causeWord e (s.core n).curId) := by
  have hc : (s.settleDiv n).core n = s.core n := by rw [State.core_settleDiv hs, Core.settle_none hd]
  rw [State.takeExc_eq_ite, State.excX_interrupted hx, hc, if_neg (Bool.eq_false_iff.mp hdf)]
  rfl

/-- R176: a synchronous exception with SB or EM set. -/
theorem State.takeExc_double (hb : (sync && ((s.core n).sb || (s.core n).em)) = true) :
    s.takeExc n sync e = (s.excCounted n).enterDouble n x (causeWord e (s.core n).curId) := by
  rw [State.takeExc_eq hs hdf hd hx, State.enterBank, if_pos hb]

variable (hb : (sync && ((s.core n).sb || (s.core n).em)) = false)
include hb

/-- R176: the handler's address passes the checks. -/
theorem State.takeExc_shadow {a : Nat} (h : (s.pmc (s.physOf n) 7).handler n e.vec = some a) :
    s.takeExc n sync e =
      ((s.excCounted n).enterShadow n a e x (causeWord e (s.core n).curId)).target n 5 e.vec a := by
  have hh := ((State.entering_excCounted hs hd).handler e.vec).trans h
  rw [State.takeExc_eq hs hdf hd hx, State.enterBank, if_neg (Bool.eq_false_iff.mp hb)]
  simp only [hh, Option.isSome_some, if_true, Option.getD_some]

/-- R176: it fails them: the double-fault bank follows the shadow bank. -/
theorem State.takeExc_shadow_double (h : (s.pmc (s.physOf n) 7).handler n e.vec = none) :
    s.takeExc n sync e =
      ((s.excCounted n).enterShadow n ((s.excCounted n).handlerAt n e.vec) e x (causeWord e (s.core n).curId)).enterDouble n x
        (causeWord e (s.core n).curId) := by
  have hh := ((State.entering_excCounted hs hd).handler e.vec).trans h
  rw [State.takeExc_eq hs hdf hd hx, State.enterBank, if_neg (Bool.eq_false_iff.mp hb)]
  simp only [hh, Option.isSome_none, Bool.false_eq_true, if_false, Option.getD_none]

end

/-! ### Exception entry and double faults -/

theorem double_iff {sync sb em : Bool} :
    (sync && (sb || em)) = true ↔ sync = true ∧ (sb = true ∨ em = true) := by
  simp

theorem shadow_free {sync sb em : Bool} (h : sync = true → sb = false ∧ em = false) : (sync && (sb || em)) = false := by
  refine Bool.eq_false_iff.mpr fun hd => ?_
  obtain ⟨hsync, hor⟩ := double_iff.mp hd
  obtain ⟨hsb, hem⟩ := h hsync
  simp [hsb, hem] at hor

theorem exceptionEntry_holds : exceptionEntry := by
  intro s n sync e a x hs hdf hd hb hx ha
  have hc := State.mapsOk_cores hs
  have ht := State.takeExc_shadow hc hdf hd hx (shadow_free hb) ha
  obtain ⟨b, hcore⟩ := State.target_core_same (n := n) (reason := 5) (vec := e.vec) (addr := a)
    (State.enterShadow_sorted (a := a) (e := e) (x := x) (y := causeWord e (s.core n).curId)
      (State.excCounted_sorted (n := n) hc))
  rw [State.enterShadow_core (State.excCounted_sorted hc), State.excCounted_core_same hc hd] at hcore
  obtain ⟨h3, h0⟩ := Bank.enter_st (s.core n).shad (s.core n).vb a e.a x (causeWord e (s.core n).curId)
  rw [ht, hcore]
  refine ⟨rfl, hdf, rfl, rfl, rfl, rfl, rfl, rfl, rfl, rfl, rfl, rfl, Bank.enter_prog _ _ _ _ _ _, h3, h0,
    fun i _ => Bank.enter_breg _ _ _ _ _ _ i, by simp, ?_, ?_, fun k hk => ?_⟩
  · rw [State.target_phys]; exact State.excCounted_phys
  · rw [State.target_io]; exact State.excCounted_io
  · rw [State.target_core_other hk, State.enterShadow, State.core_setCore_other hk, State.excCounted_core_other hk]

/-- R177: in a double fault every exception stops the core. -/
theorem State.takeExc_checkstops {s : State} {n : Nat} (hs : SMap.sorted s.cores = true) (hdf : (s.core n).df = true)
    (sync : Bool) (e : Exc) : s.takeExc n sync e = (s.interrupted n).checkstop n := by
  obtain ⟨hk, _⟩ := (s.core n).settle_keeps
  rw [State.takeExc_checkstop (by rw [State.core_settleDiv hs, hk]; exact hdf)]
  rfl

theorem doubleFaults_holds : doubleFaults := by
  refine ⟨?_, ?_, ?_, ?_⟩
  · intro s n e a x hs hdf hd hb hx ha
    have hc := State.mapsOk_cores hs
    obtain ⟨b, h⟩ := (State.entering_excCounted hc hd).double ha
    rw [State.takeExc_double (sync := true) hc hdf hd hx (double_iff.mpr ⟨rfl, hb⟩), h]
    exact ⟨rfl, rfl, rfl, rfl, rfl, rfl, rfl⟩
  · intro s n sync e x hs hdf hd hx hb hv a ha
    have hc := State.mapsOk_cores hs
    obtain ⟨b, h⟩ := (State.entering_enterShadow hc hd _).double ha
    rw [State.takeExc_shadow_double hc hdf hd hx (shadow_free hb) hv, h]
    exact ⟨rfl, rfl, rfl, rfl, rfl, rfl⟩
  · intro s n sync e x hs hdf hd hx hbv ha _ he hq hn
    have hc := State.mapsOk_cores hs
    cases hb : sync && ((s.core n).sb || (s.core n).em) with
    | true =>
      obtain ⟨a, h⟩ := (State.entering_excCounted hc hd).checkstop ha hq hn he
      rw [State.takeExc_double hc hdf hd hx hb, h]
      exact ⟨rfl, rfl, rfl, rfl⟩
    | false =>
      have hv := hbv.resolve_left (mt double_iff.mpr (Bool.eq_false_iff.mp hb))
      obtain ⟨a, h⟩ := (State.entering_enterShadow hc hd _).checkstop ha hq hn he
      rw [State.takeExc_shadow_double hc hdf hd hx hb hv, h]
      exact ⟨rfl, rfl, rfl, rfl⟩
  · intro s n sync e hs hdf _ he hq hn
    have hc := State.mapsOk_cores hs
    have hi := State.interrupted_sorted (n := n) hc
    have hcore := State.interrupted_core_same (n := n) hc
    obtain ⟨_, hsq, hnt, hprim⟩ := (s.core n).settle_keeps
    have hq' : ((s.interrupted n).core n).sq = [] := by rw [hcore]; exact hsq.trans hq
    have hn' : ((s.interrupted n).core n).nt = [] := by rw [hcore]; exact hnt.trans hn
    have hr : SMap.sorted (s.interrupted n).regs = true := State.mapsOk_regs (s := s) hs
    rw [State.takeExc_checkstops hc hdf, State.checkstop_core hi hq' hn' he, State.checkstop_mem hi hq' hn' he,
      State.checkstop_fcCnt hi hq' hn' he hr, hcore]
    exact ⟨rfl, rfl, hprim hdf, rfl, rfl⟩

/-- Settles O18: `State.takeExc` is a choice of the bank and an entry to it; each entry writes its own bank, SB or DF, and
the reservation, and a checkstop with nothing to drain reaches the fault collector alone. -/
theorem exceptionEntry : Obligations.ExceptionEntry := ⟨exceptionEntry_holds, doubleFaults_holds⟩

end Sys2Proof.Machine
end

section
/-! PROOFS. The registers of a queue, as its owner writes them (R336-R342, R562): CFG, the ring bases, the doorbell and
the completion HEAD. -/

namespace Sys2Proof.Machine

/-! ### The rows of the register table that a queue's registers are found in (R562) -/

/-- The row may hold one of the `n` registers `lo`, `lo + 0x1000`, ...: their span meets the row's, and where the row
repeats at the same stride, one of its own registers stands where theirs do. -/
def RegRow.meets (r : RegRow) (lo n : Nat) : Bool :=
  decide (lo ≤ r.base + r.s1 * (r.c1 - 1) + r.s2 * (r.c2 - 1)) && decide (r.base ≤ lo + 0x1000 * (n - 1)) &&
    (r.s1 != 0x1000 || decide ((lo + (0x1000 - r.base % 0x1000)) % 0x1000 / r.s2 < r.c2))

theorem RegRow.bounds_of_at {r : RegRow} {off : Nat} {k : Nat × Nat} (h : r.at off = some k) :
    r.base ≤ off ∧ (off - r.base) % r.s1 / r.s2 < r.c2 ∧ off ≤ r.base + r.s1 * (r.c1 - 1) + r.s2 * (r.c2 - 1) := by
  simp only [RegRow.at, Option.ite_none_left_eq_some, Option.ite_none_right_eq_some] at h
  obtain ⟨hb, ⟨hi, hj, h0⟩, -⟩ := h
  have hd := Nat.div_add_mod (off - r.base) r.s1
  have hm := Nat.div_add_mod ((off - r.base) % r.s1) r.s2
  have h1 : r.s1 * ((off - r.base) / r.s1) ≤ r.s1 * (r.c1 - 1) := Nat.mul_le_mul_left _ (by omega)
  have h2 : r.s2 * ((off - r.base) % r.s1 / r.s2) ≤ r.s2 * (r.c2 - 1) := Nat.mul_le_mul_left _ (by omega)
  exact ⟨by omega, hj, by omega⟩

theorem RegRow.meets_of_at {r : RegRow} {lo n c : Nat} {k : Nat × Nat} (hc : c < n)
    (h : r.at (lo + 0x1000 * c) = some k) : r.meets lo n = true := by
  obtain ⟨hb, hj, he⟩ := RegRow.bounds_of_at h
  simp only [RegRow.meets, Bool.and_eq_true, Bool.or_eq_true, bne_iff_ne, decide_eq_true_eq]
  refine ⟨⟨by omega, by omega⟩, Decidable.or_iff_not_imp_left.mpr fun hs => ?_⟩
  replace hs : r.s1 = 0x1000 := Decidable.not_not.mp hs
  have hmod : (lo + (0x1000 - r.base % 0x1000)) % 0x1000 = (lo + 0x1000 * c - r.base) % 0x1000 := by omega
  rw [hs] at hj
  rwa [hmod]

/-- Where one row alone meets a series of registers, the table gives that row for each of them. -/
theorem regRowAt_of_alone {r : RegRow} {lo n c i j : Nat} (h : regRows.filter (·.meets lo n) = [r]) (hc : c < n)
    (hr : r.at (lo + 0x1000 * c) = some (i, j)) : regRowAt (lo + 0x1000 * c) = some (r, i, j) := by
  have hmem : r ∈ regRows := (List.mem_filter.mp (h ▸ List.mem_singleton_self r)).1
  have hsome : (regRowAt (lo + 0x1000 * c)).isSome = true :=
    List.findSome?_isSome_iff.mpr ⟨r, hmem, by rw [hr]; rfl⟩
  obtain ⟨x, hx⟩ := Option.isSome_iff_exists.mp hsome
  obtain ⟨a, ha, hax⟩ := List.exists_of_findSome?_eq_some hx
  obtain ⟨k, hk, rfl⟩ := Option.map_eq_some_iff.mp hax
  have hone : a ∈ [r] := h ▸ List.mem_filter.mpr ⟨ha, RegRow.meets_of_at hc hk⟩
  obtain rfl := List.mem_singleton.mp hone
  obtain rfl : (i, j) = k := Option.some.inj (hr.symm.trans hk)
  exact hx

theorem RegRow.at_of_stride {r : RegRow} {c j : Nat} (h1 : r.s1 = 0x1000) (h2 : r.s2 = 8) (hc : c < r.c1)
    (hj : j < r.c2) (hb : 8 * j < 0x1000) : r.at (r.base + 8 * j + 0x1000 * c) = some (c, j) := by
  have hd : r.base + 8 * j + 0x1000 * c - r.base = 8 * j + 0x1000 * c := by omega
  have hdiv : (8 * j + 0x1000 * c) / 0x1000 = c := by omega
  have hmod : (8 * j + 0x1000 * c) % 0x1000 = 8 * j := by omega
  have hword : 8 * j / 8 = j := by omega
  have hlow : ¬ r.base + 8 * j + 0x1000 * c < r.base := by omega
  simp only [RegRow.at, h1, h2, hd, hdiv, hmod, hword, if_neg hlow, Nat.mul_mod_right, hc, hj, and_self, if_true]

end Sys2Proof.Machine

namespace Sys2Proof

open Machine

/-- Which queue of its kind it is, and how many there are. -/
def QueueId.index : QueueId → Nat
  | .chan c => c.val
  | .comp i => i.val
  | .ciph i => i.val

def QueueId.kinds : QueueId → Nat
  | .chan _ => 256
  | .comp _ => 64
  | .ciph _ => 64

/-- Where the registers of the first queue of the kind stand. -/
def QueueId.base : QueueId → Nat
  | .chan _ => Reg.chCfg 0
  | .comp _ => Reg.ciCfg 0
  | .ciph _ => Reg.cxCfg 0

def QueueId.reach : QueueId → Reach
  | .chan _ => .chan
  | .comp _ => .comp
  | .ciph _ => .ciph

theorem QueueId.index_lt (q : QueueId) : q.index < q.kinds := by
  cases q <;> exact Fin.isLt _

theorem QueueId.reach_queue (q : QueueId) : q.reach.queue q.index = some q := by
  cases q <;> simp [QueueId.reach, QueueId.index, Reach.queue, chanQ, compQ, ciphQ]

/-- The registers of a queue that its owner writes. -/
inductive QueueReg where
  | cfg | sqb | cqb | sqp | cqp

def QueueReg.off (q : QueueId) : QueueReg → Nat
  | .cfg => queueCfg q
  | .sqb => queueSqb q
  | .cqb => queueCqb q
  | .sqp => queueSqp q
  | .cqp => queueCqp q

/-- The row of a queue's register: the two ring bases share one. -/
def QueueReg.row (q : QueueId) : QueueReg → RegRow
  | .cfg => { base := q.base, s1 := 0x1000, c1 := q.kinds, reach := q.reach, act := .cfg }
  | .sqb => { base := q.base + 0x8, s1 := 0x1000, c1 := q.kinds, c2 := 2, reach := q.reach, act := .base }
  | .cqb => { base := q.base + 0x8, s1 := 0x1000, c1 := q.kinds, c2 := 2, reach := q.reach, act := .base }
  | .sqp => { base := q.base + 0x18, s1 := 0x1000, c1 := q.kinds, reach := q.reach, act := .sqp }
  | .cqp => { base := q.base + 0x20, s1 := 0x1000, c1 := q.kinds, reach := q.reach, act := .cqp }

/-- The register's second index in its row. -/
def QueueReg.place : QueueReg → Nat
  | .cqb => 1
  | _ => 0

/-- The offset of the register in the first queue of the kind. -/
def QueueReg.first (q : QueueId) (x : QueueReg) : Nat := (x.row q).base + 8 * x.place

theorem queueCfg_eq (q : QueueId) : queueCfg q = q.base + 0x1000 * q.index := by
  cases q <;> rfl

theorem QueueReg.off_eq (q : QueueId) (x : QueueReg) : x.off q = x.first q + 0x1000 * q.index := by
  have h := queueCfg_eq q
  cases x <;>
    simp only [QueueReg.off, QueueReg.first, QueueReg.row, QueueReg.place, queueSqb, queueCqb, queueSqp, queueCqp] <;>
    omega

/-- No row of the table but the register's own meets those registers of the queues of its kind. -/
theorem QueueReg.row_alone (q : QueueId) (x : QueueReg) :
    regRows.filter (·.meets (x.first q) q.kinds) = [x.row q] := by
  cases q <;> cases x <;>
    simp only [QueueReg.first, QueueReg.row, QueueReg.place, QueueId.base, QueueId.kinds, Reg.chCfg, Reg.ciCfg,
      Reg.cxCfg, Nat.reduceMul, Nat.reduceAdd] <;> rfl

theorem QueueReg.row_at (q : QueueId) (x : QueueReg) :
    (x.row q).at (x.first q + 0x1000 * q.index) = some (q.index, x.place) := by
  have hplace : x.place < (x.row q).c2 := by cases x <;> simp [QueueReg.row, QueueReg.place]
  have hword : 8 * x.place < 0x1000 := by cases x <;> decide
  have hindex : q.index < (x.row q).c1 := by cases x <;> exact q.index_lt
  exact RegRow.at_of_stride (by cases x <;> rfl) (by cases x <;> rfl) hindex hplace hword

/-- R562: where the register table has a queue's register. -/
theorem regRowAt_queue (q : QueueId) (x : QueueReg) : regRowAt (x.off q) = some (x.row q, q.index, x.place) := by
  rw [QueueReg.off_eq]
  exact regRowAt_of_alone (x.row_alone q) q.index_lt (x.row_at q)

end Sys2Proof

namespace Sys2Proof.Machine

/-! ### An owner's write of a queue's register (R430, R563) -/

theorem State.canWrite_queue {s : State} {acc : Accessor} {r : RegRow} {i : Nat} {q : QueueId}
    (h : r.reach.queue i = some q) : s.canWrite acc r i = s.ownerReach acc q := by
  cases hr : r.reach <;> rw [hr] at h <;> simp only [Reach.queue, Option.some.injEq, reduceCtorEq] at h <;>
    rw [State.canWrite, State.canRead, hr, h]

theorem QueueReg.row_queue (q : QueueId) (x : QueueReg) : (x.row q).queue q.index = q := by
  have hq : (x.row q).reach.queue q.index = some q := by cases x <;> exact q.reach_queue
  rw [RegRow.queue, hq, Option.getD_some]

section owner

variable {s : State} {acc : Accessor} {q : QueueId} (h : s.ownerReach acc q = true)
include h

theorem State.controlStore_queue (x : QueueReg) (v : Reg64) :
    s.controlStore acc false (x.off q) v = s.storeAt acc (x.row q) q.index x.place (x.off q) v := by
  have hq : (x.row q).reach.queue q.index = some q := by cases x <;> exact q.reach_queue
  have ht : (x.row q).act ≠ .tat := by cases x <;> simp [QueueReg.row]
  simp [State.controlStore, regRowAt_queue, State.canWrite_queue hq, h, ht]

theorem State.controlStore_cfg (v : Reg64) : s.controlStore acc false (queueCfg q) v = s.writeCfg q v := by
  rw [← congrArg (s.writeCfg · v) (QueueReg.row_queue q .cfg)]
  exact State.controlStore_queue h .cfg v

theorem State.controlStore_sqb (v : Reg64) : s.controlStore acc false (queueSqb q) v = s.qBase q (queueSqb q) v := by
  rw [← congrArg (s.qBase · (queueSqb q) v) (QueueReg.row_queue q .sqb)]
  exact State.controlStore_queue h .sqb v

theorem State.controlStore_cqb (v : Reg64) : s.controlStore acc false (queueCqb q) v = s.qBase q (queueCqb q) v := by
  rw [← congrArg (s.qBase · (queueCqb q) v) (QueueReg.row_queue q .cqb)]
  exact State.controlStore_queue h .cqb v

theorem State.controlStore_sqp (v : Reg64) :
    s.controlStore acc false (queueSqp q) v = s.qDoorbell q (bits v 0 32) := by
  rw [← congrArg (s.qDoorbell · (bits v 0 32)) (QueueReg.row_queue q .sqp)]
  exact State.controlStore_queue h .sqp v

theorem State.controlStore_cqp (v : Reg64) : s.controlStore acc false (queueCqp q) v = s.writeCqp q v := by
  rw [← congrArg (s.writeCqp · v) (QueueReg.row_queue q .cqp)]
  exact State.controlStore_queue h .cqp v

end owner

/-! ### The fields of what is written -/

theorem bits_congr {u v : BitVec 64} {lo w : Nat} (h : ∀ i, lo ≤ i → i < lo + w → u.getLsbD i = v.getLsbD i) :
    bits u lo w = bits v lo w := by
  refine Nat.eq_of_testBit_eq fun i => ?_
  rw [testBit_bits, testBit_bits]
  by_cases hi : i < w
  · rw [h (i + lo) (by omega) (by omega)]
  · simp [hi]

theorem bits_setWidth_32 (t : BitVec 32) : bits (t.setWidth 64) 0 32 = t.toNat := by
  simp only [bits, BitVec.toNat_setWidth]
  omega

theorem bits_putBits_other {v : BitVec 64} {lo w lo' w' x : Nat} (h : lo' + w' ≤ lo ∨ lo + w ≤ lo') :
    bits (putBits v lo' w' x) lo w = bits v lo w :=
  bits_congr fun i h1 h2 => by rw [getLsbD_putBits, if_neg (by omega)]

/-- A field written with what it holds stands. -/
theorem putBits_bits (v : BitVec 64) (lo w : Nat) : putBits v lo w (bits v lo w) = v := by
  refine BitVec.eq_of_getLsbD_eq fun i hi => ?_
  rw [getLsbD_putBits]
  split
  · next h => simp [testBit_bits, hi, show i - lo < w by omega, Nat.sub_add_cancel h.1]
  · rfl

/-- CFG as a command other than FLUSH writes it: bit 1 is 0. -/
def noFlush (v : BitVec 64) : BitVec 64 := v &&& ~~~2#64

theorem getLsbD_noFlush (v : BitVec 64) {i : Nat} (h : i ≠ 1) : (noFlush v).getLsbD i = v.getLsbD i := by
  have h2 : (2 : Nat).testBit i = false := by
    rw [show (2 : Nat) = 2 ^ 1 from rfl, Nat.testBit_two_pow, decide_eq_false h.symm]
  rw [noFlush, BitVec.getLsbD_and, BitVec.getLsbD_not, BitVec.getLsbD_ofNat, h2]
  by_cases hi : i < 64
  · simp [hi]
  · rw [BitVec.getLsbD_of_ge _ _ (by omega), Bool.false_and]

theorem bit_noFlush_flush (v : BitVec 64) : bit (noFlush v) 1 = false := by
  simp [noFlush, bit]

theorem bits_noFlush (v : BitVec 64) {lo w : Nat} (h : 2 ≤ lo) : bits (noFlush v) lo w = bits v lo w :=
  bits_congr fun _ h1 _ => getLsbD_noFlush v (by omega)

/-! ### CFG (R10, R337, R398, R422) -/

/-- The ring sizes that a write of `v` over `old` asks for, SQK and CQK. -/
def sqkOf (old v : BitVec 64) : Nat := sizeField (bits old 8 5) (bits v 8 5)

def cqkOf (old v : BitVec 64) : Nat := sizeField (bits old 16 5) (bits v 16 5)

/-- CFG after a write of `v` that is not refused. -/
def cfgWord (old v : BitVec 64) : BitVec 64 :=
  putBit (putBits (putBits old 8 5 (sqkOf old v)) 16 5 (cqkOf old v)) 0 (bit v 0)

theorem sizeField_lt {old : BitVec 64} {lo new : Nat} : sizeField (bits old lo 5) new < 2 ^ 5 := by
  have hold : bits old lo 5 < 2 ^ 5 := Nat.mod_lt _ (by decide)
  unfold sizeField
  split <;> omega

theorem bit_cfgWord (old v : BitVec 64) : bit (cfgWord old v) 0 = bit v 0 := bit_putBit_same (by decide)

theorem bits_cfgWord_sqk (old v : BitVec 64) : bits (cfgWord old v) 8 5 = sqkOf old v := by
  rw [cfgWord, bits_putBit_below (by decide), bits_putBits_other (by decide), bits_putBits (by decide)]
  exact Nat.mod_eq_of_lt sizeField_lt

theorem bits_cfgWord_cqk (old v : BitVec 64) : bits (cfgWord old v) 16 5 = cqkOf old v := by
  rw [cfgWord, bits_putBit_below (by decide), bits_putBits (by decide)]
  exact Nat.mod_eq_of_lt sizeField_lt

/-- A write that leaves both sizes changes EN alone. -/
theorem getLsbD_cfgWord_of_sizes {old v : BitVec 64} {b : Nat} (hs : sqkOf old v = bits old 8 5)
    (hc : cqkOf old v = bits old 16 5) (hb : b ≠ 0) : (cfgWord old v).getLsbD b = old.getLsbD b := by
  rw [cfgWord, hs, hc, putBits_bits, putBits_bits, putBit, getLsbD_putBits, if_neg (by omega)]

/-- The state with CFG of the queue so written. -/
def State.putCfg (s : State) (q : QueueId) (v : BitVec 64) : State :=
  ((s.setFld (queueCfg q) 8 5 (s.cfgSizes q v).1).setFld (queueCfg q) 16 5 (s.cfgSizes q v).2).setFlag (queueCfg q) 0
    (bit v 0)

/-- R337, R398, R422: an enabled queue starts with no descriptor begun, no FLUSH under way and no WAIT. -/
def State.freshWork (s : State) : QueueId → State
  | .chan c => s.setChan c { s.chan c with begun := 0, retake := 0 }
  | .comp i => s.setCompInst i { s.compInst i with flush := 0 }
  | .ciph i => s.setCiphInst i { s.ciphInst i with flush := 0, wait := .reset }

/-- R337: the state in which EN has been set. -/
def State.withEn (s : State) (q : QueueId) (v : BitVec 64) : State :=
  (((s.putCfg q v).setReg (queueSqp q) 0#64).setReg (queueCqp q) 0#64).freshWork q

theorem State.cfgSizes_eq (s : State) (q : QueueId) (v : BitVec 64) :
    s.cfgSizes q v = (sqkOf (s.reg (queueCfg q)) v, cqkOf (s.reg (queueCfg q)) v) := rfl

section qConfig

variable {s : State} {q : QueueId} {v : BitVec 64}

theorem State.qConfig_of_refused (h : s.cfgRefused q v = true) : s.qConfig q v = s.qFlag q 2 := by
  simp only [State.qConfig, h, if_true]

/-- A write that does not set EN from 0 to 1. -/
theorem State.qConfig_of_kept (h : s.cfgRefused q v = false) (he : (!s.qEnabled q && bit v 0) = false) :
    s.qConfig q v = s.putCfg q v := by
  simp only [State.qConfig, h, he, Bool.false_eq_true, if_false]
  rfl

theorem State.qConfig_of_set (h : s.cfgRefused q v = false) (he : s.qEnabled q = false) (hv : bit v 0 = true) :
    s.qConfig q v = s.withEn q v := by
  have hset : (!s.qEnabled q && bit v 0) = true := by rw [he, hv]; rfl
  simp only [State.qConfig, h, hset, Bool.false_eq_true, if_false, if_true]
  cases q <;> rfl

/-- R337: while EN is 1 a write is refused where it would change a size. -/
theorem State.cfgRefused_of_enabled (he : s.qEnabled q = true) : s.cfgRefused q v = true ↔
    sqkOf (s.reg (queueCfg q)) v ≠ s.fld (queueCfg q) 8 5 ∨ cqkOf (s.reg (queueCfg q)) v ≠ s.fld (queueCfg q) 16 5 := by
  simp [State.cfgRefused, State.cfgSizes_eq, he]

theorem State.cfgRefused_of_clear (he : s.qEnabled q = false) (hv : bit v 0 = false) : s.cfgRefused q v = false := by
  simp [State.cfgRefused, he, hv]

/-- R337: EN is not set on a ring that breaks R336, nor while work is open. -/
theorem State.cfgRefused_of_set (he : s.qEnabled q = false) (hv : bit v 0 = true) : s.cfgRefused q v = true ↔
    s.qBusy q = true ∨
      s.ringOk (s.qParish q) (ringBase (s.reg (queueSqb q))) (sqkOf (s.reg (queueCfg q)) v) 64 = false ∨
      s.ringOk (s.qParish q) (ringBase (s.reg (queueCqb q))) (cqkOf (s.reg (queueCfg q)) v) 32 = false := by
  simp only [State.cfgRefused, State.cfgSizes_eq, he, hv, Bool.false_eq_true, if_false, Bool.true_and,
    Bool.not_eq_true', Bool.and_eq_false_iff, Bool.not_eq_false']
  rw [or_comm]

@[simp] theorem State.qFlag_waiting (s : State) (q : QueueId) (i : Nat) : (s.qFlag q i).waiting = s.waiting :=
  State.setEv_waiting s _ _ _

@[simp] theorem State.freshWork_waiting (s : State) (q : QueueId) : (s.freshWork q).waiting = s.waiting := by
  cases q <;> rfl

@[simp] theorem State.freshWork_regs (s : State) (q : QueueId) : (s.freshWork q).regs = s.regs := by
  cases q <;> rfl

theorem State.qConfig_waiting (s : State) (q : QueueId) (v : BitVec 64) : (s.qConfig q v).waiting = s.waiting := by
  cases hr : s.cfgRefused q v with
  | true => rw [State.qConfig_of_refused hr, State.qFlag_waiting]
  | false =>
    cases he : (!s.qEnabled q && bit v 0) with
    | true =>
      rw [Bool.and_eq_true, Bool.not_eq_true'] at he
      rw [State.qConfig_of_set hr he.1 he.2]
      exact State.freshWork_waiting _ q
    | false => rw [State.qConfig_of_kept hr he]; rfl

end qConfig

section putCfg

variable {s : State} {q : QueueId} {v : BitVec 64} (hs : SMap.sorted s.regs = true)

theorem State.putCfg_reg_other {off : Nat} (h : off ≠ queueCfg q) : (s.putCfg q v).reg off = s.reg off := by
  rw [State.putCfg, State.reg_setFlag_other h, State.reg_setFld_other h, State.reg_setFld_other h]

include hs

theorem State.putCfg_sorted : SMap.sorted (s.putCfg q v).regs = true :=
  State.setFlag_sorted (State.setFld_sorted (State.setFld_sorted hs))

theorem State.putCfg_reg : (s.putCfg q v).reg (queueCfg q) = cfgWord (s.reg (queueCfg q)) v := by
  simp only [State.putCfg, State.setFlag, State.setFld, State.cfgSizes_eq]
  rw [State.reg_setReg_same (State.setReg_sorted (State.setReg_sorted hs)),
    State.reg_setReg_same (State.setReg_sorted hs), State.reg_setReg_same hs]
  rfl

theorem State.putCfg_qEnabled : (s.putCfg q v).qEnabled q = bit v 0 := by
  rw [State.qEnabled, State.flag, State.putCfg_reg hs]
  exact bit_cfgWord _ v

theorem State.withEn_cqp : (s.withEn q v).reg (queueCqp q) = 0#64 := by
  rw [State.withEn, State.reg_of_regs (State.freshWork_regs _ q),
    State.reg_setReg_same (State.setReg_sorted (State.putCfg_sorted hs))]

theorem State.withEn_sqp : (s.withEn q v).reg (queueSqp q) = 0#64 := by
  rw [State.withEn, State.reg_of_regs (State.freshWork_regs _ q),
    State.reg_setReg_other (by simp only [queueSqp, queueCqp]; omega), State.reg_setReg_same (State.putCfg_sorted hs)]

theorem State.withEn_qEnabled : (s.withEn q v).qEnabled q = bit v 0 := by
  rw [State.qEnabled, State.flag, State.withEn, State.reg_of_regs (State.freshWork_regs _ q),
    State.reg_setReg_other (by simp only [queueCqp]; omega), State.reg_setReg_other (by simp only [queueSqp]; omega)]
  exact State.putCfg_qEnabled hs

end putCfg

theorem State.mapsOk_io {s : State} (h : s.mapsOk = true) : Io.sorted s.io = true := by
  simp only [State.mapsOk, Bool.and_eq_true] at h
  obtain ⟨⟨⟨_, hio⟩, _⟩, _⟩ := h
  exact hio

/-- R398: an enabled compression queue has no FLUSH under way. -/
theorem State.withEn_comp {s : State} {i : Fin 64} {v : BitVec 64} (h : s.mapsOk = true) :
    ((s.withEn (.comp i) v).compInst i).flush = 0 := by
  have hio := State.mapsOk_io h
  simp only [Io.sorted, Bool.and_eq_true, and_assoc] at hio
  obtain ⟨_, _, _, _, _, hcomp, _⟩ := hio
  exact congrArg InstState.flush (SMap.get_set_same hcomp)

/-- R422: an enabled cipher queue has no FLUSH under way and no WAIT. -/
theorem State.withEn_ciph {s : State} {i : Fin 64} {v : BitVec 64} (h : s.mapsOk = true) :
    ((s.withEn (.ciph i) v).ciphInst i).flush = 0 ∧ ((s.withEn (.ciph i) v).ciphInst i).wait = .reset := by
  have hio := State.mapsOk_io h
  simp only [Io.sorted, Bool.and_eq_true, and_assoc] at hio
  obtain ⟨_, _, _, _, _, _, hciph, _⟩ := hio
  have hget : (s.withEn (.ciph i) v).ciphInst i = _ := SMap.get_set_same hciph
  rw [hget]
  exact ⟨rfl, rfl⟩

/-! ### What each command is (R337, R338, R340) -/

/-- CFG as RING_CONFIG_WRITE writes its sizes: EN as it stands. -/
def sizesWord (v : BitVec 64) (en : Bool) : BitVec 64 := putBit (noFlush v) 0 en

theorem bit_noFlush_en (v : BitVec 64) : bit (noFlush v) 0 = v.getLsbD 0 := getLsbD_noFlush v (by decide)

theorem sqkOf_noFlush (old v : BitVec 64) : sqkOf old (noFlush v) = sqkOf old v := by
  rw [sqkOf, bits_noFlush v (by decide)]; rfl

theorem cqkOf_noFlush (old v : BitVec 64) : cqkOf old (noFlush v) = cqkOf old v := by
  rw [cqkOf, bits_noFlush v (by decide)]; rfl

theorem bit_sizesWord_en (v : BitVec 64) (en : Bool) : bit (sizesWord v en) 0 = en := bit_putBit_same (by decide)

theorem bit_sizesWord_flush (v : BitVec 64) (en : Bool) : bit (sizesWord v en) 1 = false :=
  (bit_putBit_other (by decide)).trans (bit_noFlush_flush v)

theorem sqkOf_sizesWord (old v : BitVec 64) (en : Bool) : sqkOf old (sizesWord v en) = sqkOf old v := by
  rw [sqkOf, sizesWord, bits_putBit_below (by decide)]; exact sqkOf_noFlush old v

theorem cqkOf_sizesWord (old v : BitVec 64) (en : Bool) : cqkOf old (sizesWord v en) = cqkOf old v := by
  rw [cqkOf, sizesWord, bits_putBit_below (by decide)]; exact cqkOf_noFlush old v

theorem State.writeCfg_of_noFlush {s : State} {q : QueueId} {v : BitVec 64} (h : bit v 1 = false) :
    s.writeCfg q v = s.qConfig q v := by
  simp only [State.writeCfg, h, Bool.false_and, Bool.false_eq_true, if_false]

@[simp] theorem State.qDoorbell_waiting (s : State) (q : QueueId) (t : Nat) :
    (s.qDoorbell q t).waiting = s.waiting := by
  unfold State.qDoorbell
  simp only
  split <;> simp

theorem State.qBase_of_enabled {s : State} {q : QueueId} (h : s.qEnabled q = true) (off : Nat) (v : Reg64) :
    s.qBase q off v = s.qFlag q 2 := if_pos h

theorem State.qBase_of_disabled {s : State} {q : QueueId} (h : s.qEnabled q = false) (off : Nat) (v : Reg64) :
    s.qBase q off v = s.setReg off (v &&& 0xFFFFFFFFFFC0#64) := if_neg (Bool.eq_false_iff.mp h)

@[simp] theorem State.qBase_waiting (s : State) (q : QueueId) (off : Nat) (v : Reg64) :
    (s.qBase q off v).waiting = s.waiting := by
  cases he : s.qEnabled q with
  | true => rw [State.qBase_of_enabled he, State.qFlag_waiting]
  | false => rw [State.qBase_of_disabled he, State.setReg_waiting]

/-- A store whose effect is `t`, which does not wait. -/
theorem State.regStore_eq {s : State} {acc : Accessor} {off : Nat} {v : Reg64} {t : State}
    (he : s.controlStore acc false off v = t) (hw : t.waiting = none) : s.regStore acc false off v = t := by
  rw [State.regStore, State.whole, he, State.settled_none hw]

section commands

variable {s : State} {acc : Accessor} {q : QueueId} (h : s.ownerReach acc q = true) (h0 : s.waiting = none)
include h h0

theorem exec_doorbell (t : BitVec 32) : exec (.doorbell acc q t) s = .next (s.qDoorbell q t.toNat) := by
  have hs := State.controlStore_sqp h (t.setWidth 64)
  rw [bits_setWidth_32] at hs
  exact congrArg _ (State.regStore_eq hs (by simp [h0]))

theorem State.regStore_cfg {v : BitVec 64} (hv : bit v 1 = false) :
    s.regStore acc false (queueCfg q) v = s.qConfig q v :=
  State.regStore_eq ((State.controlStore_cfg h v).trans (State.writeCfg_of_noFlush hv))
    ((State.qConfig_waiting s q v).trans h0)

theorem exec_queueEnable (v : BitVec 64) : exec (.queueEnable acc q v) s = .next (s.qConfig q (noFlush v)) :=
  congrArg _ (State.regStore_cfg h h0 (bit_noFlush_flush v))

theorem exec_ringSizes (v : BitVec 64) :
    exec (.ringConfigWrite acc q .sizes v) s = .next (s.qConfig q (sizesWord v (s.qEnabled q))) :=
  congrArg _ (State.regStore_cfg h h0 (bit_sizesWord_flush v _))

theorem exec_ringSqb (v : BitVec 64) : exec (.ringConfigWrite acc q .sqb v) s = .next (s.qBase q (queueSqb q) v) :=
  congrArg _ (State.regStore_eq (State.controlStore_sqb h v) (by simp [h0]))

theorem exec_ringCqb (v : BitVec 64) : exec (.ringConfigWrite acc q .cqb v) s = .next (s.qBase q (queueCqb q) v) :=
  congrArg _ (State.regStore_eq (State.controlStore_cqb h v) (by simp [h0]))

end commands

/-- R340: once HEAD is written, what waited for completion room goes on. -/
theorem State.writeCqp_eq (s : State) (q : QueueId) (h : BitVec 32) :
    s.writeCqp q (h.setWidth 64) = roomAgain (s.qHead q h.toNat) q := by
  have hcqp (v : Reg64) : s.writeCqp q v = roomAgain (s.qHead q (bits v 0 32)) q := by cases q <;> rfl
  rw [hcqp, bits_setWidth_32]

theorem completes_cqHeadWrite {s : State} {acc : Accessor} {q : QueueId} (h : s.ownerReach acc q = true)
    (v : BitVec 32) : completes (.cqHeadWrite acc q v) s (roomAgain (s.qHead q v.toNat) q) := fun hw =>
  congrArg _ (State.regStore_eq ((State.controlStore_cqp h _).trans (State.writeCqp_eq s q v)) hw)

/-! ### The statement, part by part -/

section parts

variable {s : State} {acc : Accessor} {q : QueueId} {v : BitVec 64} (h : s.ownerReach acc q = true)
  (h0 : s.waiting = none)
include h h0

/-- R338: a doorbell is accepted. -/
theorem doorbell_accepted {t : BitVec 32} (he : s.qEnabled q = true)
    (hfit : (t.toNat + 2 ^ 32 - s.sqHead q) % 2 ^ 32 ≤ 2 ^ s.fld (queueCfg q) 8 5)
    (hup : (s.sqTail q + 2 ^ 32 - s.sqHead q) % 2 ^ 32 ≤ (t.toNat + 2 ^ 32 - s.sqHead q) % 2 ^ 32) :
    exec (.doorbell acc q t) s = .next (s.setFld (queueSqp q) 0 32 t.toNat) := by
  rw [exec_doorbell h h0, State.qDoorbell, if_pos (by rw [he, Bool.true_and, decide_eq_true_eq]; exact ⟨hfit, hup⟩)]

/-- R338: a doorbell is refused. -/
theorem doorbell_refused {t : BitVec 32} (hr : s.qEnabled q = false ∨
      2 ^ s.fld (queueCfg q) 8 5 < (t.toNat + 2 ^ 32 - s.sqHead q) % 2 ^ 32 ∨
      (t.toNat + 2 ^ 32 - s.sqHead q) % 2 ^ 32 < (s.sqTail q + 2 ^ 32 - s.sqHead q) % 2 ^ 32) :
    exec (.doorbell acc q t) s = .next ((s.countSat (queueStat q) 32 16).qFlag q 1) := by
  have hn : ¬ (s.qEnabled q && decide ((t.toNat + 2 ^ 32 - s.sqHead q) % 2 ^ 32 ≤ 2 ^ s.fld (queueCfg q) 8 5 ∧
      (s.sqTail q + 2 ^ 32 - s.sqHead q) % 2 ^ 32 ≤ (t.toNat + 2 ^ 32 - s.sqHead q) % 2 ^ 32)) = true := by
    rw [Bool.and_eq_true, decide_eq_true_eq]
    rintro ⟨he, hfit, hup⟩
    obtain hr | hr | hr := hr
    · rw [he] at hr; cases hr
    · exact absurd hfit (Nat.not_le.mpr hr)
    · exact absurd hup (Nat.not_le.mpr hr)
  rw [exec_doorbell h h0, State.qDoorbell, if_neg hn]

/-- R337: EN is set, and the pointers are cleared. -/
theorem queueEnable_sets (hm : s.mapsOk = true) (hv : v.getLsbD 0 = true) (he : s.qEnabled q = false)
    (hr : s.cfgRefused q (noFlush v) = false) :
    ∃ t, exec (.queueEnable acc q v) s = .next t ∧ t.qEnabled q = true ∧ t.sqHead q = 0 ∧ t.sqTail q = 0 ∧
      t.cqHead q = 0 ∧ t.cqTail q = 0 ∧ (∀ i, q = .comp i → (t.compInst i).flush = 0) ∧
      ∀ i, q = .ciph i → (t.ciphInst i).flush = 0 ∧ (t.ciphInst i).wait = .reset := by
  have hs := State.mapsOk_regs hm
  have hset : bit (noFlush v) 0 = true := (bit_noFlush_en v).trans hv
  have hz (lo w : Nat) : bits 0#64 lo w = 0 := by simp [bits]
  refine ⟨s.withEn q (noFlush v), ?_, (State.withEn_qEnabled hs).trans hset, ?_, ?_, ?_, ?_, ?_, ?_⟩
  · rw [exec_queueEnable h h0, State.qConfig_of_set hr he hset]
  · rw [State.sqHead, State.fld, State.withEn_sqp hs, hz]
  · rw [State.sqTail, State.fld, State.withEn_sqp hs, hz]
  · rw [State.cqHead, State.fld, State.withEn_cqp hs, hz]
  · rw [State.cqTail, State.fld, State.withEn_cqp hs, hz]
  · rintro i rfl; exact State.withEn_comp hm
  · rintro i rfl; exact State.withEn_ciph hm

theorem queueEnable_refused (hr : s.cfgRefused q (noFlush v) = true) :
    exec (.queueEnable acc q v) s = .next (s.qFlag q 2) := by
  rw [exec_queueEnable h h0, State.qConfig_of_refused hr]

/-- R337: while EN is 1, a write with the sizes as they stand changes EN alone. -/
theorem queueEnable_running (hm : s.mapsOk = true) (he : s.qEnabled q = true)
    (hsq : sqkOf (s.reg (queueCfg q)) v = s.fld (queueCfg q) 8 5)
    (hcq : cqkOf (s.reg (queueCfg q)) v = s.fld (queueCfg q) 16 5) :
    ∃ t, exec (.queueEnable acc q v) s = .next t ∧ t.qEnabled q = v.getLsbD 0 ∧ t.mem = s.mem ∧ t.io = s.io ∧
      (∀ b, b ≠ 0 → (t.reg (queueCfg q)).getLsbD b = (s.reg (queueCfg q)).getLsbD b) ∧
      ∀ off, off ≠ queueCfg q → t.reg off = s.reg off := by
  have hs := State.mapsOk_regs hm
  have hkept : s.cfgRefused q (noFlush v) = false := by
    rw [Bool.eq_false_iff, ne_eq, State.cfgRefused_of_enabled he, sqkOf_noFlush, cqkOf_noFlush, hsq, hcq]
    simp
  refine ⟨s.putCfg q (noFlush v), ?_, (State.putCfg_qEnabled hs).trans (bit_noFlush_en v), rfl, rfl, fun b hb => ?_,
    fun off => State.putCfg_reg_other⟩
  · rw [exec_queueEnable h h0, State.qConfig_of_kept hkept (by rw [he]; rfl)]
  · rw [State.putCfg_reg hs]
    exact getLsbD_cfgWord_of_sizes ((sqkOf_noFlush _ v).trans hsq) ((cqkOf_noFlush _ v).trans hcq) hb

/-- R337: while EN is 1, a write that would change a size is refused, whether it also writes EN or not. -/
theorem sizes_refused (he : s.qEnabled q = true) (hne : sqkOf (s.reg (queueCfg q)) v ≠ s.fld (queueCfg q) 8 5 ∨
      cqkOf (s.reg (queueCfg q)) v ≠ s.fld (queueCfg q) 16 5) :
    exec (.queueEnable acc q v) s = .next (s.qFlag q 2) ∧
      exec (.ringConfigWrite acc q .sizes v) s = .next (s.qFlag q 2) := by
  refine ⟨queueEnable_refused h h0 ((State.cfgRefused_of_enabled he).mpr ?_), ?_⟩
  · rw [sqkOf_noFlush, cqkOf_noFlush]; exact hne
  · rw [exec_ringSizes h h0, State.qConfig_of_refused ((State.cfgRefused_of_enabled he).mpr ?_)]
    rw [sqkOf_sizesWord, cqkOf_sizesWord]; exact hne

/-- R337: the ring bases are refused while EN is 1. -/
theorem bases_refused (he : s.qEnabled q = true) :
    exec (.ringConfigWrite acc q .sqb v) s = .next (s.qFlag q 2) ∧
      exec (.ringConfigWrite acc q .cqb v) s = .next (s.qFlag q 2) := by
  rw [exec_ringSqb h h0, exec_ringCqb h h0, State.qBase_of_enabled he, State.qBase_of_enabled he]
  exact ⟨rfl, rfl⟩

theorem bases_written (he : s.qEnabled q = false) :
    exec (.ringConfigWrite acc q .sqb v) s = .next (s.setReg (queueSqb q) (v &&& 0xFFFFFFFFFFC0#64)) ∧
      exec (.ringConfigWrite acc q .cqb v) s = .next (s.setReg (queueCqb q) (v &&& 0xFFFFFFFFFFC0#64)) := by
  rw [exec_ringSqb h h0, exec_ringCqb h h0, State.qBase_of_disabled he, State.qBase_of_disabled he]
  exact ⟨rfl, rfl⟩

/-- R10, R337: the sizes are written while EN is 0. -/
theorem sizes_written (hm : s.mapsOk = true) (he : s.qEnabled q = false) :
    ∃ t, exec (.ringConfigWrite acc q .sizes v) s = .next t ∧ t.qEnabled q = false ∧
      t.fld (queueCfg q) 8 5 = sqkOf (s.reg (queueCfg q)) v ∧
      t.fld (queueCfg q) 16 5 = cqkOf (s.reg (queueCfg q)) v := by
  have hs := State.mapsOk_regs hm
  have hen : bit (sizesWord v (s.qEnabled q)) 0 = false := (bit_sizesWord_en v _).trans he
  refine ⟨s.putCfg q (sizesWord v (s.qEnabled q)), ?_, (State.putCfg_qEnabled hs).trans hen, ?_, ?_⟩
  · rw [exec_ringSizes h h0, State.qConfig_of_kept (State.cfgRefused_of_clear he hen) (by rw [hen, Bool.and_false])]
  · rw [State.fld, State.putCfg_reg hs, bits_cfgWord_sqk, sqkOf_sizesWord]
  · rw [State.fld, State.putCfg_reg hs, bits_cfgWord_cqk, cqkOf_sizesWord]

end parts

/-- R340: HEAD moves up to TAIL, else CFGERR; what waited for room goes on. -/
theorem cqHead_written {s : State} {acc : Accessor} {q : QueueId} (h : s.ownerReach acc q = true) (w : BitVec 32) :
    ((w.toNat + 2 ^ 32 - s.cqHead q) % 2 ^ 32 ≤ (s.cqTail q + 2 ^ 32 - s.cqHead q) % 2 ^ 32 →
      completes (.cqHeadWrite acc q w) s (roomAgain (s.setFld (queueCqp q) 0 32 w.toNat) q)) ∧
    ((s.cqTail q + 2 ^ 32 - s.cqHead q) % 2 ^ 32 < (w.toNat + 2 ^ 32 - s.cqHead q) % 2 ^ 32 →
      completes (.cqHeadWrite acc q w) s (roomAgain (s.qFlag q 2) q)) := by
  have hc := completes_cqHeadWrite h w
  refine ⟨fun hle => ?_, fun hlt => ?_⟩
  · rwa [State.qHead, if_pos hle] at hc
  · rwa [State.qHead, if_neg (Nat.not_le.mpr hlt)] at hc

/-- Settles O34: each command is the owner's store to the one row of the register table that holds the register
(`regRowAt_queue`), so it is `State.qDoorbell`, `State.qConfig`, `State.qBase` or `State.qHead`; a CFG write is refused
exactly where R337 says (`State.cfgRefused_of_enabled`, `State.cfgRefused_of_set`). -/
theorem queueRegisters : Obligations.QueueRegisters := by
  intro acc q s h hm h0
  refine ⟨fun t => ⟨doorbell_accepted h h0, doorbell_refused h h0⟩, fun v hv he => ?_, fun v he => ?_, fun v he => ?_,
    cqHead_written h⟩
  · have hset := State.cfgRefused_of_set he ((bit_noFlush_en v).trans hv)
    rw [sqkOf_noFlush, cqkOf_noFlush] at hset
    refine ⟨fun hb hsq hcq => queueEnable_sets h h0 hm hv he ?_, fun hr => queueEnable_refused h h0 (hset.mpr hr)⟩
    rw [Bool.eq_false_iff, ne_eq, hset]
    rintro (hb' | hsq' | hcq')
    · rw [hb] at hb'; cases hb'
    · exact absurd (hsq.symm.trans hsq') (by decide)
    · exact absurd (hcq.symm.trans hcq') (by decide)
  · exact ⟨queueEnable_running h h0 hm he, sizes_refused h h0 he, bases_refused h h0 he⟩
  · obtain ⟨hsqb, hcqb⟩ := bases_written (v := v) h h0 he
    exact ⟨hsqb, hcqb, sizes_written h h0 hm he⟩

end Sys2Proof.Machine
end

section
/-! PROOFS. The registers of tags and events as a store finds them (R33, R35, R482, R490-R492, R562): TAT, EV_ROUTE,
EV_PEND, EV_DOOR and FC_STAT. -/

namespace Sys2Proof.Machine

/-! ### A row that stands once, apart from every other (R562) -/

/-- Some register of the row may stand at an offset of `lo` to `hi`. -/
def RegRow.overlaps (r : RegRow) (lo hi : Nat) : Bool :=
  decide (lo ≤ r.base + r.s1 * (r.c1 - 1) + r.s2 * (r.c2 - 1)) && decide (r.base ≤ hi)

/-- The row holds one run of words, and no other row of the table reaches into it. -/
def RegRow.alone (r : RegRow) : Prop :=
  (r.s1 = 0x10000000 ∧ r.c1 = 1 ∧ r.s2 = 8 ∧ r.c2 ≤ 0x1000) ∧
    regRows.filter (·.overlaps r.base (r.base + 8 * (r.c2 - 1))) = [r]

theorem RegRow.overlaps_of_meets {r : RegRow} {lo hi off : Nat} (hlo : lo ≤ off) (hhi : off ≤ hi)
    (h : r.meets off 1 = true) : r.overlaps lo hi = true := by
  simp only [RegRow.meets, Bool.and_eq_true, decide_eq_true_eq] at h
  obtain ⟨⟨hl, hb⟩, -⟩ := h
  simp only [RegRow.overlaps, Bool.and_eq_true, decide_eq_true_eq]
  omega

section alone

variable {r : RegRow} (h : r.alone) {j : Nat} (hj : j < r.c2)
include h hj

theorem RegRow.at_of_alone : r.at (r.base + 8 * j) = some (0, j) := by
  obtain ⟨⟨h1, hc, h2, hc2⟩, -⟩ := h
  have hd : r.base + 8 * j - r.base = 8 * j := by omega
  have hdiv : 8 * j / 0x10000000 = 0 := by omega
  have hmod : 8 * j % 0x10000000 = 8 * j := by omega
  have hword : 8 * j / 8 = j := by omega
  have hlow : ¬ r.base + 8 * j < r.base := by omega
  simp only [RegRow.at, h1, h2, hc, hd, hdiv, hmod, hword, if_neg hlow, Nat.mul_mod_right, hj, Nat.one_pos, and_self,
    if_true]

theorem RegRow.meets_alone : regRows.filter (·.meets (r.base + 8 * j) 1) = [r] := by
  have hself : r.meets (r.base + 8 * j) 1 = true := RegRow.meets_of_at (c := 0) Nat.one_pos (RegRow.at_of_alone h hj)
  have hnear (x : RegRow) : x.meets (r.base + 8 * j) 1 =
      (x.meets (r.base + 8 * j) 1 && x.overlaps r.base (r.base + 8 * (r.c2 - 1))) := by
    cases hx : x.meets (r.base + 8 * j) 1 with
    | true => exact (RegRow.overlaps_of_meets (by omega) (by omega) hx).symm
    | false => rfl
  obtain ⟨-, hone⟩ := h
  calc regRows.filter (·.meets (r.base + 8 * j) 1)
      = (regRows.filter (·.overlaps r.base (r.base + 8 * (r.c2 - 1)))).filter (·.meets (r.base + 8 * j) 1) := by
        rw [List.filter_filter]; exact List.filter_congr fun x _ => hnear x
    _ = [r] := by rw [hone]; exact List.filter_eq_self.mpr fun x hx => List.mem_singleton.mp hx ▸ hself

theorem regRowAt_alone : regRowAt (r.base + 8 * j) = some (r, 0, j) :=
  regRowAt_of_alone (c := 0) (RegRow.meets_alone h hj) Nat.one_pos (RegRow.at_of_alone h hj)

end alone

/-! ### The rows of TAT, EV_ROUTE, EV_PEND, EV_DOOR and FC_STAT -/

def tatRow : RegRow := { base := Reg.tat 0, c2 := 256, reach := .any, act := .tat }

def evRouteRow : RegRow :=
  { base := Reg.evRoute 0, c2 := 384, rw := span 16 6 ||| span 4 0, reach := .dev, act := .evRoute }

def evPendRow : RegRow := { base := Reg.evPend 0, c2 := 6, w1c := span 63 0, reach := .any, act := .evPend }

def evDoorRow : RegRow := { base := Reg.evDoor 0, c2 := 16, reach := .any, act := .evDoor }

def fcStatRow : RegRow := { base := Reg.fcStat, w1c := span 7 0, reach := .obs, act := .fcStat }

theorem regRowAt_tat (t : BitVec 8) : regRowAt (Reg.tat t.toNat) = some (tatRow, 0, t.toNat) :=
  regRowAt_alone (r := tatRow) ⟨by decide, by decide⟩ t.isLt

theorem regRowAt_evRoute (i : Fin 384) : regRowAt (Reg.evRoute i) = some (evRouteRow, 0, i.val) :=
  regRowAt_alone (r := evRouteRow) ⟨by decide, by decide⟩ i.isLt

theorem regRowAt_evPend (k : Fin 6) : regRowAt (Reg.evPend k) = some (evPendRow, 0, k.val) :=
  regRowAt_alone (r := evPendRow) ⟨by decide, by decide⟩ k.isLt

theorem regRowAt_evDoor (p : Parish) : regRowAt (Reg.evDoor p) = some (evDoorRow, 0, p.val) :=
  regRowAt_alone (r := evDoorRow) ⟨by decide, by decide⟩ p.isLt

theorem regRowAt_fcStat : regRowAt Reg.fcStat = some (fcStatRow, 0, 0) :=
  regRowAt_alone (r := fcStatRow) ⟨by decide, by decide⟩ Nat.one_pos

/-- R9, R35: a store that reaches its register has the register's effect, where that does not wait. -/
theorem State.regStore_of_row {s : State} {acc : Accessor} {tag : Bool} {off i j : Nat} {v : Reg64} {r : RegRow}
    (hr : regRowAt off = some (r, i, j)) (ht : r.act = .tat → tag = true) (hc : s.canWrite acc r i = true)
    (hw : (s.storeAt acc r i j off v).waiting = none) : s.regStore acc tag off v = s.storeAt acc r i j off v := by
  have hn : ¬ (decide (r.act = .tat) && !tag) = true := by
    rw [Bool.and_eq_true, decide_eq_true_eq, Bool.not_eq_true']
    exact fun ⟨ha, hf⟩ => absurd ((ht ha).symm.trans hf) (by decide)
  have hstore : s.controlStore acc tag off v = s.storeAt acc r i j off v := by
    simp only [State.controlStore, hr, if_neg hn, if_pos hc]
  exact (State.whole_none (f := fun s => s.controlStore acc tag off v) (hstore ▸ hw)).trans hstore

/-! ### The entries of TAT (R10, R32-R36) -/

/-- R450: a frame to the partner leaves every register but the device counters. -/
theorem State.reg_sendFrame_other {s : State} {b : FrameBody} {j : Nat} (hj : ∀ i, j ≠ Reg.talCnt i) :
    (s.sendFrame b).reg j = s.reg j := by
  have htal (s : State) (ev inst : Nat) : (s.tal ev inst).reg j = s.reg j :=
    foldl_keeps (fun s : State => s.reg j)
      (fun (s : State) (i : Nat) => s.setFld (Reg.talCnt i) 0 48 (s.fld (Reg.talCnt i) 0 48 + 1))
      (fun _ i => State.reg_setFld_other (hj i)) _ _
  have hput (s : State) (f : Frame) : (s.putFrame f).reg j = s.reg j := htal _ _ _
  unfold State.sendFrame State.postFrame
  split
  · simp only
    split
    · exact hput _ _
    · rfl
  · rfl

/-- What every entry that can be written takes: DTGT, bit 3, and DKIND unless reserved. -/
def tatWritten (old v : Reg64) : Reg64 :=
  if bits v 8 2 = 3 then putBits (putBits old 12 12 (bits v 12 12)) 3 1 (bits v 3 1)
  else putBits (putBits (putBits old 12 12 (bits v 12 12)) 3 1 (bits v 3 1)) 8 2 (bits v 8 2)

/-- A field that is written or left leaves the others. -/
theorem bits_keep_or_putBits {c : Prop} [Decidable c] {x : BitVec 64} {lo w lo' w' y : Nat}
    (h : lo' + w' ≤ lo ∨ lo + w ≤ lo') : bits (if c then x else putBits x lo' w' y) lo w = bits x lo w := by
  split
  · rfl
  · exact bits_putBits_other h

theorem bits_lt (v : BitVec 64) (lo w : Nat) : bits v lo w < 2 ^ w := Nat.mod_lt _ (Nat.two_pow_pos w)

theorem getLsbD_eq_of_bits {u v : BitVec 64} {i : Nat} (h : bits u i 1 = bits v i 1) : u.getLsbD i = v.getLsbD i := by
  have h0 : (bits u i 1).testBit 0 = (bits v i 1).testBit 0 := by rw [h]
  simpa only [testBit_bits, Nat.zero_add, Nat.one_pos, decide_true, Bool.true_and] using h0

theorem bits_tatWritten_dtgt (old v : Reg64) : bits (tatWritten old v) 12 12 = bits v 12 12 := by
  rw [tatWritten, bits_keep_or_putBits (by decide), bits_putBits_other (by decide), bits_putBits (by decide),
    Nat.mod_eq_of_lt (bits_lt v 12 12)]

theorem bits_tatWritten_three (old v : Reg64) : bits (tatWritten old v) 3 1 = bits v 3 1 := by
  rw [tatWritten, bits_keep_or_putBits (by decide), bits_putBits (by decide), Nat.mod_eq_of_lt (bits_lt v 3 1)]

theorem bits_tatWritten_fixed (old v : Reg64) {lo w : Nat} (h : lo + w ≤ 3 ∨ 4 ≤ lo ∧ lo + w ≤ 8) :
    bits (tatWritten old v) lo w = bits old lo w := by
  rw [tatWritten, bits_keep_or_putBits (by omega), bits_putBits_other (by omega), bits_putBits_other (by omega)]

theorem tatMerge_of_fixed {t : Nat} (h : 0x11 < t ∧ t < 0x40 ∨ t = 7 ∨ 0x80 ≤ t) (old v : Reg64) :
    tatMerge t old v = old := by
  have hcust : ¬ (0x40 ≤ t ∧ t ≤ 0x7F) := by omega
  have hbase : ¬ (t ≤ 0x06 ∨ 0x08 ≤ t ∧ t ≤ 0x11) := by omega
  simp [tatMerge, hcust, hbase]

theorem tatMerge_of_base {t : Nat} (h : t ≤ 0x11) (h7 : t ≠ 7) (old v : Reg64) :
    tatMerge t old v = tatWritten old v := by
  have hcust : ¬ (0x40 ≤ t ∧ t ≤ 0x7F) := by omega
  have hbase : t ≤ 0x06 ∨ 0x08 ≤ t ∧ t ≤ 0x11 := by omega
  simp [tatMerge, tatWritten, hcust, hbase]

/-- A customer's entry also takes fields of bits 6 to 4 and 1 to 0; the rest is as in every entry that can be written. -/
theorem bits_tatMerge_of_customer {t : Nat} (h : 0x40 ≤ t) (h8 : t < 0x80) (old v : Reg64) {lo w : Nat}
    (hf : 2 ≤ lo ∧ lo + w ≤ 4 ∨ 7 ≤ lo) : bits (tatMerge t old v) lo w = bits (tatWritten old v) lo w := by
  have hcust : 0x40 ≤ t ∧ t ≤ 0x7F := by omega
  simp only [tatMerge, hcust, and_self, decide_true, Bool.not_true, Bool.false_and, Bool.false_eq_true, if_false,
    if_true]
  rw [bits_keep_or_putBits (by omega), bits_keep_or_putBits (by omega)]
  rfl

theorem bits_tatMerge_of_writable {t : Nat} (h : t ≤ 0x11 ∧ t ≠ 7 ∨ 0x40 ≤ t ∧ t < 0x80) (old v : Reg64) :
    bits (tatMerge t old v) 12 12 = bits v 12 12 ∧ bits (tatMerge t old v) 3 1 = bits v 3 1 := by
  rw [← bits_tatWritten_dtgt old v, ← bits_tatWritten_three old v]
  obtain ⟨hb, h7⟩ | ⟨hc, h8⟩ := h
  · rw [tatMerge_of_base hb h7]; exact ⟨rfl, rfl⟩
  · exact ⟨bits_tatMerge_of_customer hc h8 old v (by decide), bits_tatMerge_of_customer hc h8 old v (by decide)⟩

theorem State.writeTat_reg {s : State} {t : Nat} {v : Reg64} (ht : t < 256) (hs : SMap.sorted s.regs = true) :
    (s.writeTat t v).reg (Reg.tat t) = tatMerge t (s.reg (Reg.tat t)) v := by
  have hcnt (i : Nat) : Reg.tat t ≠ Reg.talCnt i := by simp only [Reg.tat, Reg.talCnt]; omega
  exact (State.reg_sendFrame_other hcnt).trans (State.reg_setReg_same hs)

theorem exec_tatStore {s : State} {acc : Accessor} (h0 : s.waiting = none) (h : acc.tags = true) (t : BitVec 8)
    (v : BitVec 64) : exec (.tatStore acc t v) s = .next (s.writeTat t.toNat v) :=
  congrArg _ (State.regStore_of_row (regRowAt_tat t) (fun _ => h) rfl ((State.sendFrame_waiting _ _).trans h0))

/-- R33: what a store through the tag-table capability changes of an entry. -/
theorem tatStore_entry {s : State} {acc : Accessor} (h0 : s.waiting = none) (hm : s.mapsOk = true)
    (h : acc.tags = true) (t : BitVec 8) (v : BitVec 64) : ∃ u, exec (.tatStore acc t v) s = .next u ∧
      ((0x11 < t.toNat ∧ t.toNat < 0x40 ∨ t = 7 ∨ 0x80 ≤ t.toNat → u.reg (Reg.tat t.toNat) = s.reg (Reg.tat t.toNat)) ∧
       (t.toNat ≤ 0x11 → t ≠ 7 → u.fld (Reg.tat t.toNat) 0 3 = s.fld (Reg.tat t.toNat) 0 3 ∧
         u.fld (Reg.tat t.toNat) 4 3 = s.fld (Reg.tat t.toNat) 4 3) ∧
       (t.toNat ≤ 0x11 ∧ t ≠ 7 ∨ 0x40 ≤ t.toNat ∧ t.toNat < 0x80 →
         u.fld (Reg.tat t.toNat) 12 12 = bits v 12 12 ∧ u.flag (Reg.tat t.toNat) 3 = v.getLsbD 3)) := by
  have h7 : t = 7 ↔ t.toNat = 7 := BitVec.toNat_inj.symm
  refine ⟨_, exec_tatStore h0 h t v, ?_⟩
  simp only [State.fld, State.flag, State.writeTat_reg t.isLt (State.mapsOk_regs hm), ne_eq, h7]
  refine ⟨fun hf => tatMerge_of_fixed hf _ v, fun hb hne => ?_, fun hw => ?_⟩
  · rw [tatMerge_of_base hb hne]
    exact ⟨bits_tatWritten_fixed _ v (by decide), bits_tatWritten_fixed _ v (by decide)⟩
  · obtain ⟨hdtgt, hthree⟩ := bits_tatMerge_of_writable hw (s.reg (Reg.tat t.toNat)) v
    exact ⟨hdtgt, getLsbD_eq_of_bits hthree⟩

/-! ### Event routes (R490) -/

section route

variable {s : State} {i : Nat} {v : Reg64}

/-- R490: a route to a core that its parish does not have. -/
theorem State.writeRoute_refused (hv : v.getLsbD 16 = true) (hp : s.flag (Reg.parCfg (bits v 12 4)) 0 = false ∨
      s.flag (Reg.parCores (bits v 12 4)) (bits v 6 6) = false) :
    s.writeRoute i v = s.setFlag Reg.evStat 0 true :=
  if_pos (by rw [bit, hv, Bool.true_and, Bool.not_eq_true', Bool.and_eq_false_iff]; exact hp)

theorem State.writeRoute_taken (h : v.getLsbD 16 = false ∨ (s.flag (Reg.parCfg (bits v 12 4)) 0 = true ∧
      s.flag (Reg.parCores (bits v 12 4)) (bits v 6 6) = true)) :
    s.writeRoute i v = { s.setReg (Reg.evRoute i) (v &&& 0x1FFDF#64) with
      badRoutes := s.badRoutes.filter (· ≠ Reg.evRoute i) } := by
  refine if_neg ?_
  rw [bit, Bool.and_eq_true, Bool.not_eq_true', Bool.and_eq_false_iff]
  rintro ⟨hv, hp⟩
  obtain hn | ⟨hcfg, hcores⟩ := h
  · exact absurd (hn.symm.trans hv) (by decide)
  · obtain hp | hp := hp
    · exact absurd (hp.symm.trans hcfg) (by decide)
    · exact absurd (hp.symm.trans hcores) (by decide)

theorem State.writeRoute_waiting : (s.writeRoute i v).waiting = s.waiting := by
  unfold State.writeRoute
  simp only
  split <;> rfl

end route

theorem exec_evRouteWrite {s : State} {acc : Accessor} (h0 : s.waiting = none) (h : acc.devctl = true) (i : Fin 384)
    (v : BitVec 64) : exec (.evRouteWrite acc i v) s = .next (s.writeRoute i v) :=
  congrArg _ (State.regStore_of_row (regRowAt_evRoute i) (fun ht => by cases ht) h (State.writeRoute_waiting.trans h0))

theorem evRouteWrite_taken {s : State} {acc : Accessor} (h0 : s.waiting = none) (h : acc.devctl = true)
    (hm : s.mapsOk = true) (i : Fin 384) {v : BitVec 64} (hv : v.getLsbD 16 = false ∨
      (s.flag (Reg.parCfg (bits v 12 4)) 0 = true ∧ s.flag (Reg.parCores (bits v 12 4)) (bits v 6 6) = true)) :
    ∃ t, exec (.evRouteWrite acc i v) s = .next t ∧ t.reg (Reg.evRoute i) = v &&& 0x1FFDF#64 ∧
      ∀ off, off ≠ Reg.evRoute i → t.reg off = s.reg off := by
  refine ⟨_, exec_evRouteWrite h0 h i v, ?_⟩
  rw [State.writeRoute_taken hv]
  exact ⟨State.reg_setReg_same (State.mapsOk_regs hm), fun off hoff => State.reg_setReg_other hoff⟩

/-! ### Pending bits and the door (R491, R492) -/

/-- The word with the bits below `n` that `f` picks, as EV_PEND's mask sums it. -/
def pickedBits (f : Nat → Bool) (n : Nat) : Nat := (((List.range n).filter f).map (2 ^ ·)).sum

theorem pickedBits_zero (f : Nat → Bool) : pickedBits f 0 = 0 := rfl

theorem pickedBits_succ (f : Nat → Bool) (n : Nat) :
    pickedBits f (n + 1) = pickedBits f n + if f n then 2 ^ n else 0 := by
  unfold pickedBits
  rw [List.range_succ, List.filter_append, List.map_append, List.sum_append_nat]
  cases hf : f n with
  | true => rw [List.filter_cons_of_pos hf]; rfl
  | false => rw [List.filter_cons_of_neg (Bool.eq_false_iff.mp hf)]; rfl

theorem pickedBits_lt (f : Nat → Bool) (n : Nat) : pickedBits f n < 2 ^ n := by
  induction n with
  | zero => exact Nat.one_pos
  | succ n ih => rw [pickedBits_succ, Nat.pow_succ]; split <;> omega

theorem testBit_pickedBits (f : Nat → Bool) (n b : Nat) :
    (pickedBits f n).testBit b = (decide (b < n) && f b) := by
  induction n with
  | zero => rw [pickedBits_zero, Nat.zero_testBit, decide_eq_false (Nat.not_lt_zero b), Bool.false_and]
  | succ n ih =>
    have hword : pickedBits f (n + 1) = (if f n then 2 ^ n else 0) ||| pickedBits f n := by
      rw [pickedBits_succ, Nat.add_comm]
      split
      next => simpa only [Nat.mul_one] using Nat.two_pow_add_eq_or_of_lt (pickedBits_lt f n) 1
      next => rw [Nat.zero_add, Nat.zero_or]
    have htop : (if f n then 2 ^ n else 0).testBit b = (decide (b = n) && f b) := by
      by_cases hb : b = n
      · subst hb; cases f b <;> simp only [if_true, Bool.false_eq_true, if_false, Nat.testBit_two_pow_self,
          Nat.zero_testBit, decide_true, Bool.and_true, Bool.and_false]
      · rw [decide_eq_false hb, Bool.false_and]
        split
        next => exact Nat.testBit_two_pow_of_ne (Ne.symm hb)
        next => exact Nat.zero_testBit b
    rw [hword, Nat.testBit_or, ih, htop, ← Bool.and_or_distrib_right, ← Bool.decide_or]
    exact congrArg (· && f b) (decide_eq_decide.mpr (by omega))

/-- R491: an access sees the bits of sources routed to its parish; device-control sees all. -/
theorem State.getLsbD_pendMask (s : State) (acc : Accessor) (k : Nat) {b : Nat} (hb : b < 64) :
    (s.pendMask acc k).getLsbD b =
      (acc.devctl || s.fld (Reg.evRoute (64 * k + b)) 12 4 == acc.parish.val) := by
  unfold State.pendMask
  split
  next hd =>
    have hall : span 63 0 = BitVec.allOnes 64 := by decide
    rw [hall, BitVec.getLsbD_allOnes, hd, decide_eq_true hb, Bool.true_or]
  next hd =>
    rw [Bool.eq_false_iff.mpr hd, Bool.false_or, BitVec.getLsbD_ofNat, decide_eq_true hb, Bool.true_and]
    exact (testBit_pickedBits _ 64 b).trans (by rw [decide_eq_true hb, Bool.true_and])

theorem exec_evPendClear {s : State} {acc : Accessor} (h0 : s.waiting = none) (k : Fin 6) (v : BitVec 64) :
    exec (.evPendClear acc k v) s =
      .next (s.setReg (Reg.evPend k) (s.reg (Reg.evPend k) &&& ~~~(v &&& s.pendMask acc k))) :=
  congrArg _ (State.regStore_of_row (regRowAt_evPend k) (fun ht => by cases ht) rfl h0)

theorem evPendClear_bits {s : State} {acc : Accessor} (h0 : s.waiting = none) (hm : s.mapsOk = true) (k : Fin 6)
    (v : BitVec 64) : ∃ t, exec (.evPendClear acc k v) s = .next t ∧ ∀ b, b < 64 → (t.reg (Reg.evPend k)).getLsbD b =
      ((s.reg (Reg.evPend k)).getLsbD b && !(v.getLsbD b &&
        (acc.devctl || s.fld (Reg.evRoute (64 * k + b)) 12 4 == acc.parish.val))) := by
  refine ⟨_, exec_evPendClear h0 k v, fun b hb => ?_⟩
  rw [State.reg_setReg_same (State.mapsOk_regs hm), BitVec.getLsbD_and, BitVec.getLsbD_not, BitVec.getLsbD_and,
    State.getLsbD_pendMask s acc k hb, decide_eq_true hb, Bool.true_and]

theorem exec_evDoor {s : State} (h0 : s.waiting = none) (acc : Accessor) (p : Parish) (v : BitVec 64) :
    exec (.evDoor acc p v) s = .next (s.raise (324 + p)) :=
  congrArg _ (State.regStore_of_row (regRowAt_evDoor p) (fun ht => by cases ht) rfl ((State.raise_waiting _ _).trans h0))

/-! ### FC_STAT (R482) -/

theorem State.flag_setFlag {s : State} {off i j : Nat} {b : Bool} (h : SMap.sorted s.regs = true) (hj : j < 64) :
    (s.setFlag off i b).flag off j = if j = i then b else s.flag off j := by
  rw [State.flag, State.setFlag, State.reg_setReg_same h]
  split
  next hi => exact hi ▸ bit_putBit_same hj
  next hi => exact bit_putBit_other hi

/-- One bit of a W1C write of FC_STAT: bits `c` and `4 + c` belong to class `c`. -/
def State.clearFcBit (v : Reg64) (s : State) (b : Nat) : State :=
  if bit v b && s.clearable (b % 4) then s.setFlag Reg.fcStat b false else s

/-- The write takes its bits one by one, class after class. -/
theorem State.writeFcStat_eq (s : State) (v : Reg64) :
    s.writeFcStat v = [0, 4, 1, 5, 2, 6, 3, 7].foldl (State.clearFcBit v) s := rfl

section fcStat

variable (v : Reg64) (s : State) (i : Nat)

theorem State.clearFcBit_waiting : (State.clearFcBit v s i).waiting = s.waiting := by
  unfold State.clearFcBit; split <;> rfl

theorem State.clearFcBit_clearable (c : Nat) : (State.clearFcBit v s i).clearable c = s.clearable c := by
  unfold State.clearFcBit
  split
  · have hinfo : Reg.fcInfo c ≠ Reg.fcStat := by simp only [Reg.fcInfo, Reg.fcStat]; omega
    have himg : Reg.imgStat ≠ Reg.fcStat := by decide
    simp only [State.clearable, State.phase, State.fld, State.reg_setFlag_other hinfo, State.reg_setFlag_other himg]
  · rfl

theorem State.clearFcBit_sorted {s : State} (h : SMap.sorted s.regs = true) :
    SMap.sorted (State.clearFcBit v s i).regs = true := by
  unfold State.clearFcBit
  split
  · exact State.setFlag_sorted h
  · exact h

theorem State.clearFcBit_flag {s : State} (h : SMap.sorted s.regs = true) {b : Nat} (hb : b < 64) :
    (State.clearFcBit v s i).flag Reg.fcStat b =
      (s.flag Reg.fcStat b && !(decide (b = i) && v.getLsbD b && s.clearable (b % 4))) := by
  have hown : (decide (b = i) && v.getLsbD b && s.clearable (b % 4)) =
      (decide (b = i) && (bit v i && s.clearable (i % 4))) := by
    by_cases hbi : b = i
    · rw [hbi, Bool.and_assoc]; rfl
    · simp [hbi]
  rw [hown, State.clearFcBit]
  cases bit v i && s.clearable (i % 4) with
  | true => rw [if_pos rfl, State.flag_setFlag h hb]; by_cases hbi : b = i <;> simp [hbi]
  | false => simp

theorem State.foldl_clearFcBit_flag {b : Nat} (hb : b < 64) (l : List Nat) {s : State}
    (h : SMap.sorted s.regs = true) : (l.foldl (State.clearFcBit v) s).flag Reg.fcStat b =
      (s.flag Reg.fcStat b && !(decide (b ∈ l) && v.getLsbD b && s.clearable (b % 4))) := by
  induction l generalizing s with
  | nil => simp
  | cons i l ih =>
    rw [List.foldl_cons, ih (State.clearFcBit_sorted v i h), State.clearFcBit_flag v i h hb,
      State.clearFcBit_clearable]
    simp only [List.mem_cons, Bool.decide_or, Bool.and_or_distrib_right, Bool.not_or, Bool.and_assoc]

theorem State.writeFcStat_waiting : (s.writeFcStat v).waiting = s.waiting :=
  foldl_keeps State.waiting (State.clearFcBit v) (State.clearFcBit_waiting v) [0, 4, 1, 5, 2, 6, 3, 7] s

/-- R482: a bit of FC_STAT that is written 1 clears where its class may be cleared. -/
theorem State.writeFcStat_flag {s : State} (h : SMap.sorted s.regs = true) {b : Nat} (hb : b < 8) :
    (s.writeFcStat v).flag Reg.fcStat b =
      (s.flag Reg.fcStat b && !(v.getLsbD b && s.clearable (b % 4))) := by
  have hmem : b ∈ [0, 4, 1, 5, 2, 6, 3, 7] := by
    simp only [List.mem_cons, List.not_mem_nil]; omega
  rw [State.writeFcStat_eq, State.foldl_clearFcBit_flag v (by omega) _ h, decide_eq_true hmem, Bool.true_and]

end fcStat

theorem State.clearable_in_service {s : State} (hp : s.phase = phService) {c : Nat} (hc : c ≠ 3) :
    s.clearable c = true := by simp [State.clearable, hp, hc]

/-- R482: a GRAVE capture may be cleared only where it was made in SERVICE. -/
theorem State.clearable_grave (s : State) : s.clearable 3 = (s.fld (Reg.fcInfo 3) 54 2 == phService) := by
  simp [State.clearable]

theorem exec_fcStatClear {s : State} {acc : Accessor} (h0 : s.waiting = none) (h : acc.devctl = true) (v : BitVec 64) :
    exec (.fcStatClear acc v) s = .next (s.writeFcStat v) :=
  congrArg _ (State.regStore_of_row regRowAt_fcStat (fun ht => by cases ht) h ((State.writeFcStat_waiting v s).trans h0))

/-- R482: a write of FC_STAT in SERVICE. -/
theorem fcStatClear_in_service {s : State} {acc : Accessor} (h0 : s.waiting = none) (hm : s.mapsOk = true)
    (h : acc.devctl = true) (hp : s.phase = phService) (v : BitVec 64) :
    ∃ t, exec (.fcStatClear acc v) s = .next t ∧
      (∀ c, c < 3 → t.flag Reg.fcStat c = (s.flag Reg.fcStat c && !v.getLsbD c) ∧
        t.flag Reg.fcStat (4 + c) = (s.flag Reg.fcStat (4 + c) && !v.getLsbD (4 + c))) ∧
      (s.fld (Reg.fcInfo 3) 54 2 ≠ phService → t.flag Reg.fcStat 3 = s.flag Reg.fcStat 3) ∧
      (s.fld (Reg.fcInfo 3) 54 2 = phService → t.flag Reg.fcStat 3 = (s.flag Reg.fcStat 3 && !v.getLsbD 3)) := by
  have hs := State.mapsOk_regs hm
  have hlow {b : Nat} (hb : b < 8) (h3 : b % 4 ≠ 3) :
      (s.writeFcStat v).flag Reg.fcStat b = (s.flag Reg.fcStat b && !v.getLsbD b) := by
    rw [State.writeFcStat_flag v hs hb, State.clearable_in_service hp h3, Bool.and_true]
  have hgrave : (s.writeFcStat v).flag Reg.fcStat 3 =
      (s.flag Reg.fcStat 3 && !(v.getLsbD 3 && (s.fld (Reg.fcInfo 3) 54 2 == phService))) := by
    rw [State.writeFcStat_flag v hs (by decide), State.clearable_grave]
  refine ⟨_, exec_fcStatClear h0 h v, fun c hc => ⟨hlow (by omega) (by omega), hlow (by omega) (by omega)⟩,
    fun hne => ?_, fun heq => ?_⟩
  · simp [hgrave, hne]
  · simp [hgrave, heq]

/-- Settles O45: each command is a store to the one row of the register table that holds the register
(`regRowAt_alone`), so it is `State.writeTat`, `State.writeRoute`, the W1C of EV_PEND under `State.pendMask`,
`State.raise` or `State.writeFcStat`, whose bits clear where `State.clearable` allows. -/
theorem eventAndTagRegisters : Obligations.EventAndTagRegisters := by
  refine ⟨fun acc t v s h0 hm h => tatStore_entry h0 hm h t v, fun acc i v s h0 => ⟨fun h hv hp => ?_, ?_⟩,
    fun acc k v s h0 hm => evPendClear_bits h0 hm k v, fun acc p v s h0 => exec_evDoor h0 acc p v,
    fun acc v s h0 hm h hp => fcStatClear_in_service h0 hm h hp v⟩
  · rw [exec_evRouteWrite h0 h, State.writeRoute_refused hv hp]
  · exact fun h hm hv => evRouteWrite_taken h0 h hm i hv

end Sys2Proof.Machine
end
